-- ==== Sys2Proof/Word.lean ====
section
/-! DEFINITION. The word types of the Q880 and their plainest arithmetic (R11 to R14). -/

namespace Sys2Proof

/-- A byte. -/
abbrev Byte := BitVec 8

/-- A 16-bit half. -/
abbrev H16 := BitVec 16

/-- A 32-bit word: an instruction, a v register. -/
abbrev W32 := BitVec 32

/-- A 64-bit value: an s register, a pair of v registers, an address. -/
abbrev D64 := BitVec 64

/-- The 64-bit value of a register pair: the low half in the even register (R23). -/
def pair (lo hi : W32) : D64 := hi ++ lo

/-- Low half of a 64-bit value. -/
def lo32 (x : D64) : W32 := x.truncate 32

/-- High half of a 64-bit value. -/
def hi32 (x : D64) : W32 := x.extractLsb' 32 32

end Sys2Proof
end

