-- ==== Sys2Proof/Syntax.lean ====
section
/-! DEFINITION. The syntax: one constructor of `Instr` for every row of the opcode table. Operand fields are the
fields of the formats R48 to R55; the events of the table (rows without a word) carry what the step needs to be
told from outside the machine or which of its pending things it acts on. -/

namespace Sys2Proof

/-- Operands of format V3 with two sources (R48). -/
structure V3 where
  d : BitVec 6
  a : BitVec 6
  b : BitVec 6
  ta : Bool
  tb : Bool
  h : BitVec 2
  deriving DecidableEq, Repr

/-- Operands of format V3 with one source (R48, R56, R58). -/
structure V3U where
  d : BitVec 6
  a : BitVec 6
  ta : Bool
  ha : Bool
  deriving DecidableEq, Repr

/-- Operands of format VI (R50). -/
structure VI where
  d : BitVec 6
  a : BitVec 6
  imm : BitVec 10
  deriving DecidableEq, Repr

/-- Operands of format VI of the immediate shifts, whose imm10 is 0 to 31 (R95). -/
structure ShI where
  d : BitVec 6
  a : BitVec 6
  imm : BitVec 5
  deriving DecidableEq, Repr

/-- Operands of format V4 (R50). -/
structure V4 where
  d : BitVec 6
  a : BitVec 6
  b : BitVec 6
  c : BitVec 6
  deriving DecidableEq, Repr

/-- Operands of VCVT: format V3 with the rounding selector of R58 in b; none means the rounding of MODE. -/
structure Cvt where
  d : BitVec 6
  a : BitVec 6
  sel : Option (BitVec 2)
  ta : Bool
  ha : Bool
  deriving DecidableEq, Repr

/-- Operands of the compares: condition code and predicate in d (R103). -/
structure Cmp where
  cc : BitVec 3
  p : BitVec 3
  a : BitVec 6
  b : BitVec 6
  ta : Bool
  tb : Bool
  h : BitVec 2
  deriving DecidableEq, Repr

/-- Operands of PLOP (R104). -/
structure Plop where
  op : BitVec 3
  pd : BitVec 3
  pa : BitVec 3
  pb : BitVec 3
  ta : Bool
  tb : Bool
  deriving DecidableEq, Repr

/-- Operands of SEL (R105). -/
structure Sel where
  d : BitVec 6
  a : BitVec 6
  b : BitVec 6
  p : BitVec 3
  neg : Bool
  deriving DecidableEq, Repr

/-- Operands of format MI onto a v register (R18, R50). -/
structure MI where
  d : BitVec 6
  imm : BitVec 16
  deriving DecidableEq, Repr

/-- Operands of format MI onto an s register (R18, R58). -/
structure SMI where
  d : BitVec 5
  imm : BitVec 16
  deriving DecidableEq, Repr

/-- Operands of BCAST (R106). -/
structure Bcast where
  d : BitVec 6
  hi : Bool
  s : BitVec 5
  deriving DecidableEq, Repr

/-- Operands of LANEGET (R106). -/
structure LaneGet where
  d : BitVec 5
  lane : BitVec 6
  a : BitVec 6
  deriving DecidableEq, Repr

/-- Operands of VOTE (R109). -/
structure Vote where
  pd : BitVec 3
  pa : BitVec 3
  ta : Bool
  deriving DecidableEq, Repr

/-- Operands of BALLOT (R109). -/
structure Ballot where
  d : BitVec 6
  pa : BitVec 3
  ta : Bool
  deriving DecidableEq, Repr

/-- Operands of SALU: format V3 over s registers (R58, R111). -/
structure S3 where
  d : BitVec 5
  a : BitVec 5
  b : BitVec 5
  ta : Bool
  tb : Bool
  h : BitVec 2
  deriving DecidableEq, Repr

/-- Operands of SADDI: format VI over s registers (R58, R111). -/
structure SI where
  d : BitVec 5
  a : BitVec 5
  imm : BitVec 10
  deriving DecidableEq, Repr

/-- Operands of a load into v registers, format M (R51). -/
structure Ld where
  d : BitVec 6
  base : BitVec 5
  off : BitVec 6
  imm : BitVec 5
  deriving DecidableEq, Repr

/-- Operands of SLD.b64 (R51). -/
structure Sld where
  d : BitVec 5
  base : BitVec 5
  imm : BitVec 5
  deriving DecidableEq, Repr

/-- Operands of DLD, format M (R51, R160). -/
structure LdD where
  d : BitVec 4
  base : BitVec 5
  off : BitVec 6
  imm : BitVec 5
  deriving DecidableEq, Repr

/-- Operands of WLD and WLDS, format M (R51, R176, R177). -/
structure LdW where
  d : BitVec 5
  base : BitVec 5
  off : BitVec 6
  imm : BitVec 5
  deriving DecidableEq, Repr

/-- Operands of PRF, CWB and CINV: an address alone, format M (R51). -/
structure Pf where
  base : BitVec 5
  off : BitVec 6
  imm : BitVec 5
  deriving DecidableEq, Repr

/-- Operands of a store or atomic with v data, format M (R51). -/
structure St where
  d : BitVec 6
  base : BitVec 5
  off : BitVec 6
  t : Bool
  imm : BitVec 5
  deriving DecidableEq, Repr

/-- Operands of SST.b64 (R51). -/
structure Sst where
  d : BitVec 5
  base : BitVec 5
  t : Bool
  imm : BitVec 5
  deriving DecidableEq, Repr

/-- Operands of DST, format M (R51, R160). -/
structure StD where
  d : BitVec 4
  base : BitVec 5
  off : BitVec 6
  t : Bool
  imm : BitVec 5
  deriving DecidableEq, Repr

/-- Operands of WST and WSTS, format M (R51, R176, R177). -/
structure StW where
  d : BitVec 5
  base : BitVec 5
  off : BitVec 6
  t : Bool
  imm : BitVec 5
  deriving DecidableEq, Repr

/-- Permissions of a page or of a host translation (R271, R273). -/
structure Perm where
  r : Bool
  w : Bool
  x : Bool
  deriving DecidableEq, Repr

/-- What a peer device asks of this module (R275): the operation and its data. -/
inductive PeerOp where
  | load
  | store (data : Nat)
  | atomic (fn : Nat) (b c : Nat) (mode : W32)
  | count (bar : D64) (n : Nat)
  | fail (bar : D64)
  deriving DecidableEq, Repr

/-- What CTXNEW is asked for: the state of R266 that firmware fixes at creation. -/
structure CtxArgs where
  key : Nat
  root : Nat
  pasid : Option Nat := none
  quota : Nat := 0
  spill : Nat := 1048576
  ring : Nat := 4096
  log : D64
  logCap : Nat := 64
  deriving DecidableEq, Repr

/-- A firmware image as boot flash holds it (R284): its security version, whether its signature verifies against the
fused key digest, and whether it carries a signed request to raise the fused minimum. -/
structure FwImage where
  version : Nat
  signed : Bool
  raise : Bool
  deriving DecidableEq, Repr


/-- Every row of the opcode table: the 279 instruction words, then the 91 events. -/
inductive Instr where
  -- major 0, VINT
  | iadd (o : V3)
  | isub (o : V3)
  | imul (o : V3)
  | imulhS (o : V3)
  | imulhZ (o : V3)
  | iminS (o : V3)
  | iminZ (o : V3)
  | imaxS (o : V3)
  | imaxZ (o : V3)
  | iabsdS (o : V3)
  | and (o : V3)
  | or (o : V3)
  | xor (o : V3)
  | andn (o : V3)
  | shl (o : V3)
  | shrZ (o : V3)
  | shrS (o : V3)
  | rotl (o : V3)
  | popc (o : V3U)
  | clz (o : V3U)
  | brev (o : V3U)
  | bfxS (o : V3)
  | bfxZ (o : V3)
  | prmt (o : V3)
  | iadd64 (o : V3)
  | isub64 (o : V3)
  | shl64 (o : V3)
  | shr64Z (o : V3)
  | shr64S (o : V3)
  | iaddsatS (o : V3)
  -- major 1, VIMM
  | iaddi (o : VI)
  | imuli (o : VI)
  | andi (o : VI)
  | ori (o : VI)
  | xori (o : VI)
  | shli (o : ShI)
  | shriZ (o : ShI)
  | shriS (o : ShI)
  | iminiS (o : VI)
  | imaxiS (o : VI)
  -- major 2, VFLT
  | fadd (o : V3)
  | fsub (o : V3)
  | fmul (o : V3)
  | fmin (o : V3)
  | fmax (o : V3)
  | fminn (o : V3)
  | fmaxn (o : V3)
  | fabs (o : V3U)
  | fneg (o : V3U)
  | fcpys (o : V3)
  | frint (o : V3U)
  | ffloor (o : V3U)
  | fceil (o : V3U)
  | ftrunc (o : V3U)
  | fldexp (o : V3)
  | fexpo (o : V3U)
  | fclass (o : V3U)
  -- major 3, VHALF
  | hadd2 (o : V3)
  | hsub2 (o : V3)
  | hmul2 (o : V3)
  | hmin2 (o : V3)
  | hmax2 (o : V3)
  | badd2 (o : V3)
  | bsub2 (o : V3)
  | bmul2 (o : V3)
  | bmin2 (o : V3)
  | bmax2 (o : V3)
  -- major 4, VDBL
  | faddF64 (o : V3)
  | fsubF64 (o : V3)
  | fmulF64 (o : V3)
  | fminF64 (o : V3)
  | fmaxF64 (o : V3)
  | fabsF64 (o : V3U)
  | fnegF64 (o : V3U)
  | fdivF64 (o : V3)
  | fsqrtF64 (o : V3U)
  -- major 5, VFUSE
  | fma (o : V4)
  | fms (o : V4)
  | fnma (o : V4)
  | fmaF64 (o : V4)
  | hfma2 (o : V4)
  | bfma2 (o : V4)
  | imad (o : V4)
  | bfi (o : V4)
  -- major 6, VCVT
  | cvtF32S32 (o : Cvt)
  | cvtF32Z32 (o : Cvt)
  | cvtS32F32 (o : Cvt)
  | cvtZ32F32 (o : Cvt)
  | cvtF32F16 (o : Cvt)
  | cvtF16F32 (o : Cvt)
  | cvtF32B16 (o : Cvt)
  | cvtB16F32 (o : Cvt)
  | cvtF64F32 (o : Cvt)
  | cvtF32F64 (o : Cvt)
  | cvtF64S64 (o : Cvt)
  | cvtS64F64 (o : Cvt)
  | packF16 (o : Cvt)
  | packB16 (o : Cvt)
  -- major 7, VSFU
  | frcp (o : V3U)
  | frsq (o : V3U)
  | fsqrt (o : V3U)
  | fdiv (o : V3)
  | fexp2 (o : V3U)
  | flog2 (o : V3U)
  | fsinpi (o : V3U)
  | fcospi (o : V3U)
  | ftanh (o : V3U)
  -- major 8, VCMP
  | fset (o : Cmp)
  | fsetF64 (o : Cmp)
  | iset (o : Cmp)
  | iset64 (o : Cmp)
  | plop (o : Plop)
  | sel (o : Sel)
  -- major 9, VMOVE
  | movlo (o : MI)
  | movhi (o : MI)
  | smovlo (o : SMI)
  | smovhi (o : SMI)
  | smovh2 (o : SMI)
  | smovh3 (o : SMI)
  | bcast (o : Bcast)
  | laneget (o : LaneGet)
  -- major 10, VXLANE
  | shflIdx (o : V3)
  | shflUp (o : V3)
  | shflDown (o : V3)
  | shflXor (o : V3)
  | voteAny (o : Vote)
  | voteAll (o : Vote)
  | ballot (o : Ballot)
  | gredAdd (o : V3U)
  | gredMaxS (o : V3U)
  | gredFadd (o : V3U)
  | gscanAdd (o : V3U)
  -- major 11, SALU
  | sadd (o : S3)
  | ssub (o : S3)
  | smul (o : S3)
  | sand (o : S3)
  | sor (o : S3)
  | sxor (o : S3)
  | sshl (o : S3)
  | sshrZ (o : S3)
  | sshrS (o : S3)
  | sminS (o : S3)
  | smaxS (o : S3)
  | sseteq (o : S3)
  | ssetltS (o : S3)
  | ssetltZ (o : S3)
  | saddi (o : SI)
  -- major 12, LOAD
  | ldS8 (o : Ld)
  | ldZ8 (o : Ld)
  | ldS16 (o : Ld)
  | ldZ16 (o : Ld)
  | ldB32 (o : Ld)
  | ldB64 (o : Ld)
  | ldB128 (o : Ld)
  | sldB64 (o : Sld)
  | dld (o : LdD)
  | wld (o : LdW)
  | wlds (o : LdW)
  | prf (o : Pf)
  -- major 13, STORE
  | stB8 (o : St)
  | stB16 (o : St)
  | stB32 (o : St)
  | stB64 (o : St)
  | stB128 (o : St)
  | sstB64 (o : Sst)
  | dst (o : StD)
  | wst (o : StW)
  | wsts (o : StW)
  -- major 14, ATOM
  | atomAddB32 (o : St)
  | atomAddB64 (o : St)
  | atomFaddF32 (o : St)
  | atomMinS32 (o : St)
  | atomMaxS32 (o : St)
  | atomMinZ32 (o : St)
  | atomMaxZ32 (o : St)
  | atomAndB32 (o : St)
  | atomOrB32 (o : St)
  | atomXorB32 (o : St)
  | atomExchB32 (o : St)
  | atomExchB64 (o : St)
  | atomCasB32 (o : St)
  | atomCasB64 (o : St)
  | atomIncZ32 (o : St)
  -- major 15, MEMX
  | fenceHost
  | fenceSys
  | cwb (o : Pf)
  | cinv (o : Pf)
  | xlq (o : Ld)
  -- major 16, MAT
  | mma (c : BitVec 5) (a : BitVec 5) (b : BitVec 5) (sp : BitVec 5)
  | mloop (c : BitVec 5) (a : BitVec 5) (b : BitVec 5) (sp : BitVec 5)
  | mloops (c : BitVec 5) (a : BitVec 5) (b : BitVec 5) (sp : BitVec 5)
  | attn (c : BitVec 5) (a : BitVec 5) (b : BitVec 5) (sp : BitVec 5) (f : BitVec 2)
  | hadq (c : BitVec 5) (a : BitVec 5) (f : BitVec 2)
  | qnt (c : BitVec 5) (a : BitVec 5)
  | accz (c : BitVec 5)
  | accrd (c : BitVec 5) (a : BitVec 5) (b16 : Bool)
  | accwr (c : BitVec 5) (a : BitVec 5)
  | mrel
  -- major 17, COPY
  | copyIn (c : BitVec 5) (x : BitVec 4) (sp : BitVec 5) (bar : Bool)
  | copyOut (c : BitVec 5) (x : BitVec 4) (sp : BitVec 5) (rel : Bool) (bar : Bool)
  | copyTt (c : BitVec 5) (sp : BitVec 5) (rel : Bool) (bar : Bool)
  | copyGather (c : BitVec 5) (x : BitVec 4) (b : BitVec 5) (sp : BitVec 5) (bar : Bool)
  | tdef (c : BitVec 5) (sp : BitVec 5)
  | tdrop (c : BitVec 5)
  | tset (x : BitVec 4) (sp : BitVec 5)
  | tstat (c : BitVec 5) (sp : BitVec 5)
  | trel (c : BitVec 5)
  -- major 18, BAR
  | binit (sb : BitVec 5) (n : BitVec 10)
  | binitReg (sb : BitVec 5) (v : BitVec 6)
  | barv (sb : BitVec 5) (ord : Bool)
  | barvb (sb : BitVec 5) (v : BitVec 6) (out : Bool) (ord : Bool)
  | bwait (sb : BitVec 5) (v : BitVec 6)
  | bwaitt (sb : BitVec 5) (v : BitVec 6) (p : BitVec 3)
  | btst (sb : BitVec 5) (v : BitVec 6)
  | bjoin (sb : BitVec 5)
  | bleave (sb : BitVec 5)
  | bdrop (sb : BitVec 5) (ord : Bool)
  -- major 19, DIST
  | dadd (d : BitVec 4) (a : BitVec 4) (b : BitVec 4)
  | dsub (d : BitVec 4) (a : BitVec 4) (b : BitVec 4)
  | dmul (d : BitVec 4) (a : BitVec 4) (b : BitVec 4)
  | dmax (d : BitVec 4) (a : BitVec 4) (b : BitVec 4)
  | dmin (d : BitVec 4) (a : BitVec 4) (b : BitVec 4)
  | dmix (d : BitVec 4) (a : BitVec 4) (b : BitVec 4) (v : BitVec 6)
  | dneg (d : BitVec 4) (a : BitVec 4)
  | daff (d : BitVec 4) (a : BitVec 4) (v : BitVec 6)
  | drelu (d : BitVec 4) (a : BitVec 4)
  | dexp2 (d : BitVec 4) (a : BitVec 4)
  | dmov (d : BitVec 4) (a : BitVec 4)
  -- major 20, DXTR
  | dpnt (d : BitVec 4) (v : BitVec 6)
  | dfroms (d : BitVec 4) (v : BitVec 6) (n : BitVec 4)
  | dnorm (d : BitVec 4) (v : BitVec 6) (n : BitVec 4)
  | dmom (a : BitVec 4) (v : BitVec 6) (k : BitVec 4)
  | dqnt (a : BitVec 4) (v : BitVec 6)
  | dprb (a : BitVec 4) (v : BitVec 6)
  | dtag (d : BitVec 4) (a : BitVec 4) (v : BitVec 6)
  | dtgr (a : BitVec 4) (v : BitVec 6)
  | datom (a : BitVec 4) (v : BitVec 6) (n : BitVec 3)
  -- major 21, WARITH
  | wadd (d : BitVec 5) (a : BitVec 5) (b : BitVec 5) (t : Bool)
  | wsub (d : BitVec 5) (a : BitVec 5) (b : BitVec 5) (t : Bool)
  | wmul (d : BitVec 5) (a : BitVec 5) (b : BitVec 5) (t : Bool)
  | wdiv (d : BitVec 5) (a : BitVec 5) (b : BitVec 5) (t : Bool)
  | wsqrt (d : BitVec 5) (a : BitVec 5) (t : Bool)
  | wfma (d : BitVec 5) (a : BitVec 5) (b : BitVec 5) (t : Bool)
  | wneg (d : BitVec 5) (a : BitVec 5) (t : Bool)
  | wabs (d : BitVec 5) (a : BitVec 5) (t : Bool)
  | wcmp (a : BitVec 5) (b : BitVec 5) (v : BitVec 6) (t : Bool)
  | wrnd (d : BitVec 5) (a : BitVec 5) (t : Bool)
  | wldexp (d : BitVec 5) (a : BitVec 5) (v : BitVec 6) (t : Bool)
  | wfrom (d : BitVec 5) (f : BitVec 5) (v : BitVec 6) (t : Bool)
  | wto (a : BitVec 5) (f : BitVec 5) (v : BitVec 6) (t : Bool)
  | wmov (d : BitVec 5) (a : BitVec 5) (t : Bool)
  -- major 22, WCTL
  | wcfg (sb : BitVec 5) (t : Bool)
  | wgetl (a : BitVec 5) (v : BitVec 6) (t : Bool)
  | wsetl (d : BitVec 5) (a : BitVec 5) (v : BitVec 6) (t : Bool)
  | winfo (a : BitVec 5) (v : BitVec 6) (t : Bool)
  -- major 23, BRANCH
  | bra (off : BitVec 20)
  | brc (p : BitVec 3) (neg : Bool) (off : BitVec 20)
  | brs (sb : BitVec 5) (neg : Bool) (off : BitVec 18)
  | brx (v : BitVec 6)
  | call (p : BitVec 3) (neg : Bool) (off : BitVec 20)
  | callx (v : BitVec 6)
  | ret (p : BitVec 3) (neg : Bool)
  | exit (p : BitVec 3) (neg : Bool)
  -- major 24, SYNC
  | waitf (r : BitVec 6) (c : BitVec 3)
  | waitfAll
  | sete (d : BitVec 6)
  | shsend (d : BitVec 6) (a : BitVec 6)
  | shtake (d : BitVec 6) (a : BitVec 6)
  | sleep (n : BitVec 10)
  | yield
  | nop
  -- major 25, LAUNCH
  | launch (d : BitVec 6) (a : BitVec 6) (q : BitVec 6)
  | lstat (d : BitVec 6) (q : BitVec 6)
  -- major 26, SYS
  | trap (n : BitVec 10)
  | svc (d : BitVec 6) (a : BitVec 6) (c : BitVec 10)
  | sread (d : BitVec 6) (r : BitVec 10)
  | swrite (a : BitVec 6) (r : BitVec 10)
  | brk (n : BitVec 10)
  | illeg
  -- the events
  | doorbell (q : Nat) (w : W32)
  | launchAcceptance (q : Nat)
  | launchRecordRead (acc : Nat)
  | tcbDispatch
  | teamStart (cluster : Nat)
  | coResidentStart
  | foragerRequest (cluster : Nat)
  | foragerAnswer (cluster : Nat)
  | preemptForRoom (cluster : Nat)
  | preemptionRequest (team : Nat)
  | teamSave (team : Nat)
  | teamRestore (team : Nat)
  | offCoreSave (team group : Nat)
  | offCoreRestore (team group : Nat)
  | launchCompletion (jn : Nat)
  | instructionFetch (team group : Nat) (addr : D64)
  | prefetch (core jn : Nat) (addr : D64)
  | ctuTranslate (acc : Nat)
  | returnedRequestResend (acc : Nat)
  | refill (cluster : Nat)
  | batchDelivery (cluster : Nat)
  | resolve (key cluster : Nat) (page : D64) (tables : List (Nat × D64))
  | resolvePoison (key cluster : Nat) (page : D64)
  | list (key cluster : Nat)
  | pageRepairTimeout (key cluster : Nat) (page : D64) (reason : Nat)
  | accessAtHome (acc : Nat)
  | accessResponse (acc : Nat)
  | ptsTick
  | pageReclassification (frame core : Nat)
  | invalidation (core word : Nat) (version : Nat)
  | delegation (word core : Nat)
  | delegationRecall (word : Nat)
  | tlbInvalidation (key : Nat) (page : D64) (tables : List (Nat × D64))
  | atsResponse (acc : Nat) (grant : Option Perm)
  | priResponse (key cluster : Nat) (page : D64) (grant : Option Perm)
  | hostAccess (key : Nat) (addr : D64) (size : Nat) (store : Option Nat)
  | peerRequest (port device issuer key pa size : Nat) (op : PeerOp)
  | svcReply (key seq : Nat)
  | alloc (key : Nat) (short : Bool)
  | free (key : Nat)
  | hostcall (key : Nat) (r0 r1 : W32)
  | migrate (key : Nat) (target : Option Nat) (tables : List (Nat × D64))
  | pairGrant (core : Nat)
  | leaseExpiry (core : Nat)
  | matrixStep (core : Nat)
  | attnBlock (run : Nat)
  | accRun (run : Nat)
  | copyChunk (copy chunk : Nat)
  | copyFailure (copy : Nat)
  | tsetDescriptorArrival (acc : Nat)
  | distCompletion (pend : Nat)
  | windowCompletion (pend : Nat)
  | barrierUpdate (acc : Nat)
  | bwaitRelease (team group lane : Nat)
  | bwaittDeadline (team group lane : Nat)
  | sleepExpiry (team group lane : Nat)
  | watchdogCheck (core : Nat)
  | coreFailure (core : Nat)
  | combError (core row : Nat)
  | sliceFailure (slice rts : Nat) (clean : List Nat)
  | uncorrectableError (line : Nat)
  | peerReset (port : Nat)
  | gidonFlitError (port seq : Nat)
  | gidonNak (port seq : Nat)
  | gidonLaneFailure (port : Nat)
  | preronFailure (n : Nat)
  | hostLinkDown
  | hostLinkLost
  | throttle (power temp : Nat)
  | overTemperature (die temp : Nat)
  | powerRemoval (temp : Nat)
  | boot
  | mgmtRegisterWrite (off : Nat) (val : D64)
  | ctxnew (a : CtxArgs)
  | ctxend (key : Nat)
  | qcfg (q : Nat) (enable : Bool) (owner : Nat) (base : D64) (size : Nat)
  | pagemap (key : Nat) (base : D64) (len : Nat) (grant : Option Perm) (tables : List (Nat × D64))
  | hwin (key : Nat) (base : D64) (len : Nat) (add : Bool)
  | peerbind (key port device peerKey : Nat)
  | ckpt (key : Nat) (hold : Bool)
  | resume (key : Nat)
  | dbgatt (key : Nat)
  | dbgdet (key : Nat)
  | dbghalt (key team group : Nat)
  | dbgrun (key team group : Nat)
  | dbglist (key cluster : Nat)
  | attest (key : Nat) (nonce : BitVec 256)
  | fwload (img : FwImage)
  | illegalInstruction
  | hostLinkRetrain (rate width : Nat)
  | gidonPortRetrain (port : Nat)
  deriving DecidableEq, Repr

end Sys2Proof
end

