-- ==== Sys2Proof/WellFormed.lean ====
section
/-! DEFINITION. Well-formed instructions: the field values that the rules of the forms call illegal although the
formats can hold them (R27, R51, R131, R132, R155, R174, R176, R177, R251, R276, R280), and, for the events, the ranges
of the numbers they name. -/

namespace Sys2Proof

/-- The numbers of R27's table. -/
def sregAssigned (n : Nat) : Bool :=
  n ≤ 0x00A || (0x010 ≤ n && n ≤ 0x012) || n = 0x018 || (0x020 ≤ n && n ≤ 0x022) || n = 0x030 || n = 0x031

/-- The numbers that R27 marks RW. -/
def sregWritable (n : Nat) : Bool :=
  (0x010 ≤ n && n ≤ 0x012) || (0x020 ≤ n && n ≤ 0x022)

/-- The encodable range of the class code of WAITF: v, s, p, d, w (R251). -/
def waitfLimit : Nat → Nat
  | 0 => 64
  | 1 => 32
  | 2 => 8
  | 3 => 16
  | 4 => 32
  | _ => 0

/-- A page address of R295 and R297: bits [11:0] zero. -/
def pageAddr (a : D64) : Bool := a.toNat % 4096 = 0

/-- Field values that a rule of the form forbids are refused here, every other encoding by the decoder. -/
def Instr.wellFormed : Instr → Bool
  | .sldB64 o => o.base.toNat ≠ 31
  | .sstB64 o => o.base.toNat ≠ 31
  | .wlds o => o.base.toNat ≠ 31
  | .wsts o => o.base.toNat ≠ 31
  | .attn _ _ _ _ f => f.toNat ≠ 3
  | .hadq _ _ f => f.toNat ≠ 3
  | .dmom _ _ k => 1 ≤ k.toNat && k.toNat ≤ 4
  | .wfrom _ f _ _ => f.toNat ≤ 5
  | .wto _ f _ _ => f.toNat ≤ 5
  | .waitf r c => r.toNat < waitfLimit c.toNat
  | .shtake d a => d ≠ a
  | .svc _ _ c => 1 ≤ c.toNat && c.toNat ≤ 4
  | .sread _ r => sregAssigned r.toNat
  | .swrite _ r => sregWritable r.toNat
  | .doorbell q _ => q < 64
  | .launchAcceptance q => q < 64
  | .qcfg q _ owner _ size => q < 64 && owner < 256 && size < 32
  | .teamStart c => c < 16
  | .foragerRequest c => c < 16
  | .foragerAnswer c => c < 16
  | .preemptForRoom c => c < 16
  | .refill c => c < 16
  | .batchDelivery c => c < 16
  | .resolve k c p _ => k < 256 && c < 16 && pageAddr p
  | .resolvePoison k c p => k < 256 && c < 16 && pageAddr p
  | .list k c => k < 256 && c < 16
  | .dbglist k c => k < 256 && c < 16
  | .pageRepairTimeout k c p r => k < 256 && c < 16 && pageAddr p && r < 3
  | .priResponse k c p _ => k < 256 && c < 16 && pageAddr p
  | .tlbInvalidation k p _ => k < 256 && pageAddr p
  | .hostAccess k _ n _ => k < 256 && 1 ≤ n && n ≤ 128
  | .peerRequest port _ _ k _ n _ => port < 12 && k < 256 && 1 ≤ n && n ≤ 128
  | .peerReset p => p < 12
  | .gidonFlitError p n => p < 12 && n < 4096
  | .gidonNak p n => p < 12 && n < 4096
  | .gidonLaneFailure p => p < 12
  | .gidonPortRetrain p => p < 12
  | .pagemap k b n _ _ => k < 256 && pageAddr b && n % 4096 = 0
  | .hwin k b n _ => k < 256 && b.toNat % 2097152 = 0 && n % 2097152 = 0
  | .peerbind k p _ pk => k < 256 && p < 12 && 1 ≤ pk && pk < 256
  | .coreFailure c => c < 3072
  | .combError c r => c < 3072 && r < 256
  | .sliceFailure n _ _ => n < 2048
  | .preronFailure n => n < 64
  | .overTemperature d _ => d < 4
  | _ => true

end Sys2Proof
end

