-- ==== Sys2Proof/Decode.lean ====
section
/-! DEFINITION. Decoding and encoding of instruction words, from the formats R48 to R58. `decode` is total and
rejects by name; every word it rejects is an illegal instruction (R60). The word noncomputable says only that Lean's
compiler cannot make a constructor of number 245 or more with fields; the kernel evaluates every definition. -/

namespace Sys2Proof

/-- Why a word is no instruction (R60). -/
inductive Reject where
  /-- Majors 27, 28, 29 and 31, and major 30, the clause header. -/
  | major
  /-- A reserved fn value (R57). -/
  | fn
  /-- A reserved or unused field that is not zero (R56). -/
  | unusedField
  /-- A register number beyond the encodable range of its class. -/
  | registerNumber
  /-- A tensor id of 16 to 31. -/
  | tensorId
  /-- A rounding selector outside R58. -/
  | selector
  /-- A field value that the rule of the form calls illegal. -/
  | formRule
  deriving DecidableEq, Repr

/-- Bits `lo` to `lo + n - 1` of a word. -/
def fld (n lo : Nat) (w : W32) : BitVec n := w.extractLsb' lo n

/-- One bit of a word. -/
def bit (lo : Nat) (w : W32) : Bool := w.getLsbD lo

/-- The major opcode (R57). -/
def majorOf (w : W32) : Nat := (fld 5 27 w).toNat

/-- Accepts `i` for `w` when the unused, register and tensor bits named by the three masks are zero. -/
def chk (w zero num tens : W32) (i : Instr) : Except Reject Instr :=
  if w &&& zero ≠ 0 then .error .unusedField
  else if w &&& num ≠ 0 then .error .registerNumber
  else if w &&& tens ≠ 0 then .error .tensorId
  else if i.wellFormed then .ok i
  else .error .formRule

/-- One bit as a field. -/
def bit1 (b : Bool) : BitVec 1 := BitVec.ofBool b

/-- Operands of format V3 with two sources (R48) read from a word. -/
def V3.unpack (w : W32) : V3 :=
  V3.mk (fld 6 16 w) (fld 6 10 w) (fld 6 4 w) (bit 3 w) (bit 2 w) (fld 2 0 w)

/-- The word of these operands. -/
def V3.pack (maj : BitVec 5) (fn : BitVec 5) (o : V3) : W32 :=
  maj ++ fn ++ o.d ++ o.a ++ o.b ++ bit1 o.ta ++ bit1 o.tb ++ o.h

/-- Operands of format V3 with one source (R48, R56, R58) read from a word. -/
def V3U.unpack (w : W32) : V3U :=
  V3U.mk (fld 6 16 w) (fld 6 10 w) (bit 3 w) (bit 0 w)

/-- The word of these operands. -/
def V3U.pack (maj : BitVec 5) (fn : BitVec 5) (o : V3U) : W32 :=
  maj ++ fn ++ o.d ++ o.a ++ (0 : BitVec 6) ++ bit1 o.ta ++ (0 : BitVec 2) ++ bit1 o.ha

/-- Operands of format VI (R50) read from a word. -/
def VI.unpack (w : W32) : VI :=
  VI.mk (fld 6 16 w) (fld 6 10 w) (fld 10 0 w)

/-- The word of these operands. -/
def VI.pack (maj : BitVec 5) (fn : BitVec 5) (o : VI) : W32 :=
  maj ++ fn ++ o.d ++ o.a ++ o.imm

/-- Operands of format VI of the immediate shifts, whose imm10 is 0 to 31 (R95) read from a word. -/
def ShI.unpack (w : W32) : ShI :=
  ShI.mk (fld 6 16 w) (fld 6 10 w) (fld 5 0 w)

/-- The word of these operands. -/
def ShI.pack (maj : BitVec 5) (fn : BitVec 5) (o : ShI) : W32 :=
  maj ++ fn ++ o.d ++ o.a ++ (0 : BitVec 5) ++ o.imm

/-- Operands of format V4 (R50) read from a word. -/
def V4.unpack (w : W32) : V4 :=
  V4.mk (fld 6 18 w) (fld 6 12 w) (fld 6 6 w) (fld 6 0 w)

/-- The word of these operands. -/
def V4.pack (maj : BitVec 5) (fn : BitVec 3) (o : V4) : W32 :=
  maj ++ fn ++ o.d ++ o.a ++ o.b ++ o.c

/-- The rounding selector of VCVT (R58): none for MODE, or the mode named. -/
def cvtSel (w : W32) : Option (Option (BitVec 2)) :=
  if fld 6 4 w = 0 then some none
  else if fld 4 6 w = 1 then some (some (fld 2 4 w))
  else none

/-- Operands of a VCVT word with the selector `sel`. -/
def Cvt.unpack (w : W32) (sel : Option (BitVec 2)) : Cvt :=
  Cvt.mk (fld 6 16 w) (fld 6 10 w) sel (bit 3 w) (bit 0 w)

/-- The word of a VCVT operand structure. -/
def Cvt.pack (maj fn : BitVec 5) (o : Cvt) : W32 :=
  let b : BitVec 6 := match o.sel with
    | none => 0
    | some m => (1 : BitVec 4) ++ m
  maj ++ fn ++ o.d ++ o.a ++ b ++ bit1 o.ta ++ (0 : BitVec 2) ++ bit1 o.ha

/-- Operands of the compares: condition code and predicate in d (R103) read from a word. -/
def Cmp.unpack (w : W32) : Cmp :=
  Cmp.mk (fld 3 19 w) (fld 3 16 w) (fld 6 10 w) (fld 6 4 w) (bit 3 w) (bit 2 w) (fld 2 0 w)

/-- The word of these operands. -/
def Cmp.pack (maj : BitVec 5) (fn : BitVec 5) (o : Cmp) : W32 :=
  maj ++ fn ++ o.cc ++ o.p ++ o.a ++ o.b ++ bit1 o.ta ++ bit1 o.tb ++ o.h

/-- Operands of PLOP (R104) read from a word. -/
def Plop.unpack (w : W32) : Plop :=
  Plop.mk (fld 3 19 w) (fld 3 16 w) (fld 3 10 w) (fld 3 4 w) (bit 3 w) (bit 2 w)

/-- The word of these operands. -/
def Plop.pack (maj : BitVec 5) (fn : BitVec 5) (o : Plop) : W32 :=
  maj ++ fn ++ o.op ++ o.pd ++ (0 : BitVec 3) ++ o.pa ++ (0 : BitVec 3) ++ o.pb ++ bit1 o.ta ++ bit1 o.tb ++ (0 : BitVec 2)

/-- Operands of SEL (R105) read from a word. -/
def Sel.unpack (w : W32) : Sel :=
  Sel.mk (fld 6 16 w) (fld 6 10 w) (fld 6 4 w) (fld 3 1 w) (bit 0 w)

/-- The word of these operands. -/
def Sel.pack (maj : BitVec 5) (fn : BitVec 5) (o : Sel) : W32 :=
  maj ++ fn ++ o.d ++ o.a ++ o.b ++ o.p ++ bit1 o.neg

/-- Operands of format MI onto a v register (R18, R50) read from a word. -/
def MI.unpack (w : W32) : MI :=
  MI.mk (fld 6 16 w) (fld 16 0 w)

/-- The word of these operands. -/
def MI.pack (maj : BitVec 5) (fn : BitVec 5) (o : MI) : W32 :=
  maj ++ fn ++ o.d ++ o.imm

/-- Operands of format MI onto an s register (R18, R58) read from a word. -/
def SMI.unpack (w : W32) : SMI :=
  SMI.mk (fld 5 16 w) (fld 16 0 w)

/-- The word of these operands. -/
def SMI.pack (maj : BitVec 5) (fn : BitVec 5) (o : SMI) : W32 :=
  maj ++ fn ++ (0 : BitVec 1) ++ o.d ++ o.imm

/-- Operands of BCAST (R106) read from a word. -/
def Bcast.unpack (w : W32) : Bcast :=
  Bcast.mk (fld 6 16 w) (bit 5 w) (fld 5 0 w)

/-- The word of these operands. -/
def Bcast.pack (maj : BitVec 5) (fn : BitVec 5) (o : Bcast) : W32 :=
  maj ++ fn ++ o.d ++ (0 : BitVec 10) ++ bit1 o.hi ++ o.s

/-- Operands of LANEGET (R106) read from a word. -/
def LaneGet.unpack (w : W32) : LaneGet :=
  LaneGet.mk (fld 5 16 w) (fld 6 6 w) (fld 6 0 w)

/-- The word of these operands. -/
def LaneGet.pack (maj : BitVec 5) (fn : BitVec 5) (o : LaneGet) : W32 :=
  maj ++ fn ++ (0 : BitVec 1) ++ o.d ++ (0 : BitVec 4) ++ o.lane ++ o.a

/-- Operands of VOTE (R109) read from a word. -/
def Vote.unpack (w : W32) : Vote :=
  Vote.mk (fld 3 16 w) (fld 3 10 w) (bit 3 w)

/-- The word of these operands. -/
def Vote.pack (maj : BitVec 5) (fn : BitVec 5) (o : Vote) : W32 :=
  maj ++ fn ++ (0 : BitVec 3) ++ o.pd ++ (0 : BitVec 3) ++ o.pa ++ (0 : BitVec 6) ++ bit1 o.ta ++ (0 : BitVec 3)

/-- Operands of BALLOT (R109) read from a word. -/
def Ballot.unpack (w : W32) : Ballot :=
  Ballot.mk (fld 6 16 w) (fld 3 10 w) (bit 3 w)

/-- The word of these operands. -/
def Ballot.pack (maj : BitVec 5) (fn : BitVec 5) (o : Ballot) : W32 :=
  maj ++ fn ++ o.d ++ (0 : BitVec 3) ++ o.pa ++ (0 : BitVec 6) ++ bit1 o.ta ++ (0 : BitVec 3)

/-- Operands of SALU: format V3 over s registers (R58, R111) read from a word. -/
def S3.unpack (w : W32) : S3 :=
  S3.mk (fld 5 16 w) (fld 5 10 w) (fld 5 4 w) (bit 3 w) (bit 2 w) (fld 2 0 w)

/-- The word of these operands. -/
def S3.pack (maj : BitVec 5) (fn : BitVec 5) (o : S3) : W32 :=
  maj ++ fn ++ (0 : BitVec 1) ++ o.d ++ (0 : BitVec 1) ++ o.a ++ (0 : BitVec 1) ++ o.b ++ bit1 o.ta ++ bit1 o.tb ++ o.h

/-- Operands of SADDI: format VI over s registers (R58, R111) read from a word. -/
def SI.unpack (w : W32) : SI :=
  SI.mk (fld 5 16 w) (fld 5 10 w) (fld 10 0 w)

/-- The word of these operands. -/
def SI.pack (maj : BitVec 5) (fn : BitVec 5) (o : SI) : W32 :=
  maj ++ fn ++ (0 : BitVec 1) ++ o.d ++ (0 : BitVec 1) ++ o.a ++ o.imm

/-- Operands of a load into v registers, format M (R51) read from a word. -/
def Ld.unpack (w : W32) : Ld :=
  Ld.mk (fld 6 17 w) (fld 5 12 w) (fld 6 6 w) (fld 5 0 w)

/-- The word of these operands. -/
def Ld.pack (maj : BitVec 5) (fn : BitVec 4) (o : Ld) : W32 :=
  maj ++ fn ++ o.d ++ o.base ++ o.off ++ (0 : BitVec 1) ++ o.imm

/-- Operands of SLD.b64 (R51) read from a word. -/
def Sld.unpack (w : W32) : Sld :=
  Sld.mk (fld 5 17 w) (fld 5 12 w) (fld 5 0 w)

/-- The word of these operands. -/
def Sld.pack (maj : BitVec 5) (fn : BitVec 4) (o : Sld) : W32 :=
  maj ++ fn ++ (0 : BitVec 1) ++ o.d ++ o.base ++ (0 : BitVec 7) ++ o.imm

/-- Operands of DLD, format M (R51, R160) read from a word. -/
def LdD.unpack (w : W32) : LdD :=
  LdD.mk (fld 4 17 w) (fld 5 12 w) (fld 6 6 w) (fld 5 0 w)

/-- The word of these operands. -/
def LdD.pack (maj : BitVec 5) (fn : BitVec 4) (o : LdD) : W32 :=
  maj ++ fn ++ (0 : BitVec 2) ++ o.d ++ o.base ++ o.off ++ (0 : BitVec 1) ++ o.imm

/-- Operands of WLD and WLDS, format M (R51, R176, R177) read from a word. -/
def LdW.unpack (w : W32) : LdW :=
  LdW.mk (fld 5 17 w) (fld 5 12 w) (fld 6 6 w) (fld 5 0 w)

/-- The word of these operands. -/
def LdW.pack (maj : BitVec 5) (fn : BitVec 4) (o : LdW) : W32 :=
  maj ++ fn ++ (0 : BitVec 1) ++ o.d ++ o.base ++ o.off ++ (0 : BitVec 1) ++ o.imm

/-- Operands of PRF, CWB and CINV: an address alone, format M (R51) read from a word. -/
def Pf.unpack (w : W32) : Pf :=
  Pf.mk (fld 5 12 w) (fld 6 6 w) (fld 5 0 w)

/-- The word of these operands. -/
def Pf.pack (maj : BitVec 5) (fn : BitVec 4) (o : Pf) : W32 :=
  maj ++ fn ++ (0 : BitVec 6) ++ o.base ++ o.off ++ (0 : BitVec 1) ++ o.imm

/-- Operands of a store or atomic with v data, format M (R51) read from a word. -/
def St.unpack (w : W32) : St :=
  St.mk (fld 6 17 w) (fld 5 12 w) (fld 6 6 w) (bit 5 w) (fld 5 0 w)

/-- The word of these operands. -/
def St.pack (maj : BitVec 5) (fn : BitVec 4) (o : St) : W32 :=
  maj ++ fn ++ o.d ++ o.base ++ o.off ++ bit1 o.t ++ o.imm

/-- Operands of SST.b64 (R51) read from a word. -/
def Sst.unpack (w : W32) : Sst :=
  Sst.mk (fld 5 17 w) (fld 5 12 w) (bit 5 w) (fld 5 0 w)

/-- The word of these operands. -/
def Sst.pack (maj : BitVec 5) (fn : BitVec 4) (o : Sst) : W32 :=
  maj ++ fn ++ (0 : BitVec 1) ++ o.d ++ o.base ++ (0 : BitVec 6) ++ bit1 o.t ++ o.imm

/-- Operands of DST, format M (R51, R160) read from a word. -/
def StD.unpack (w : W32) : StD :=
  StD.mk (fld 4 17 w) (fld 5 12 w) (fld 6 6 w) (bit 5 w) (fld 5 0 w)

/-- The word of these operands. -/
def StD.pack (maj : BitVec 5) (fn : BitVec 4) (o : StD) : W32 :=
  maj ++ fn ++ (0 : BitVec 2) ++ o.d ++ o.base ++ o.off ++ bit1 o.t ++ o.imm

/-- Operands of WST and WSTS, format M (R51, R176, R177) read from a word. -/
def StW.unpack (w : W32) : StW :=
  StW.mk (fld 5 17 w) (fld 5 12 w) (fld 6 6 w) (bit 5 w) (fld 5 0 w)

/-- The word of these operands. -/
def StW.pack (maj : BitVec 5) (fn : BitVec 4) (o : StW) : W32 :=
  maj ++ fn ++ (0 : BitVec 1) ++ o.d ++ o.base ++ o.off ++ bit1 o.t ++ o.imm

/-! The decoders of the majors, each by the fn values of R57. -/

/-- Major 0, VINT (R57). -/
def decVint (w : W32) : Except Reject Instr :=
  match (fld 5 22 w).toNat with
  | 0 => chk w 0x0 0x0 0x0 (.iadd (V3.unpack w))
  | 1 => chk w 0x0 0x0 0x0 (.isub (V3.unpack w))
  | 2 => chk w 0x0 0x0 0x0 (.imul (V3.unpack w))
  | 3 => chk w 0x0 0x0 0x0 (.imulhS (V3.unpack w))
  | 4 => chk w 0x0 0x0 0x0 (.imulhZ (V3.unpack w))
  | 5 => chk w 0x0 0x0 0x0 (.iminS (V3.unpack w))
  | 6 => chk w 0x0 0x0 0x0 (.iminZ (V3.unpack w))
  | 7 => chk w 0x0 0x0 0x0 (.imaxS (V3.unpack w))
  | 8 => chk w 0x0 0x0 0x0 (.imaxZ (V3.unpack w))
  | 9 => chk w 0x0 0x0 0x0 (.iabsdS (V3.unpack w))
  | 10 => chk w 0x0 0x0 0x0 (.and (V3.unpack w))
  | 11 => chk w 0x0 0x0 0x0 (.or (V3.unpack w))
  | 12 => chk w 0x0 0x0 0x0 (.xor (V3.unpack w))
  | 13 => chk w 0x0 0x0 0x0 (.andn (V3.unpack w))
  | 14 => chk w 0x0 0x0 0x0 (.shl (V3.unpack w))
  | 15 => chk w 0x0 0x0 0x0 (.shrZ (V3.unpack w))
  | 16 => chk w 0x0 0x0 0x0 (.shrS (V3.unpack w))
  | 17 => chk w 0x0 0x0 0x0 (.rotl (V3.unpack w))
  | 18 => chk w 0x3f6 0x0 0x0 (.popc (V3U.unpack w))
  | 19 => chk w 0x3f6 0x0 0x0 (.clz (V3U.unpack w))
  | 20 => chk w 0x3f6 0x0 0x0 (.brev (V3U.unpack w))
  | 21 => chk w 0x0 0x0 0x0 (.bfxS (V3.unpack w))
  | 22 => chk w 0x0 0x0 0x0 (.bfxZ (V3.unpack w))
  | 23 => chk w 0x0 0x0 0x0 (.prmt (V3.unpack w))
  | 24 => chk w 0x0 0x0 0x0 (.iadd64 (V3.unpack w))
  | 25 => chk w 0x0 0x0 0x0 (.isub64 (V3.unpack w))
  | 26 => chk w 0x0 0x0 0x0 (.shl64 (V3.unpack w))
  | 27 => chk w 0x0 0x0 0x0 (.shr64Z (V3.unpack w))
  | 28 => chk w 0x0 0x0 0x0 (.shr64S (V3.unpack w))
  | 29 => chk w 0x0 0x0 0x0 (.iaddsatS (V3.unpack w))
  | _ => .error .fn

/-- Major 1, VIMM (R57). -/
def decVimm (w : W32) : Except Reject Instr :=
  match (fld 5 22 w).toNat with
  | 0 => chk w 0x0 0x0 0x0 (.iaddi (VI.unpack w))
  | 1 => chk w 0x0 0x0 0x0 (.imuli (VI.unpack w))
  | 2 => chk w 0x0 0x0 0x0 (.andi (VI.unpack w))
  | 3 => chk w 0x0 0x0 0x0 (.ori (VI.unpack w))
  | 4 => chk w 0x0 0x0 0x0 (.xori (VI.unpack w))
  | 5 => chk w 0x3e0 0x0 0x0 (.shli (ShI.unpack w))
  | 6 => chk w 0x3e0 0x0 0x0 (.shriZ (ShI.unpack w))
  | 7 => chk w 0x3e0 0x0 0x0 (.shriS (ShI.unpack w))
  | 8 => chk w 0x0 0x0 0x0 (.iminiS (VI.unpack w))
  | 9 => chk w 0x0 0x0 0x0 (.imaxiS (VI.unpack w))
  | _ => .error .fn

/-- Major 2, VFLT (R57). -/
def decVflt (w : W32) : Except Reject Instr :=
  match (fld 5 22 w).toNat with
  | 0 => chk w 0x0 0x0 0x0 (.fadd (V3.unpack w))
  | 1 => chk w 0x0 0x0 0x0 (.fsub (V3.unpack w))
  | 2 => chk w 0x0 0x0 0x0 (.fmul (V3.unpack w))
  | 3 => chk w 0x0 0x0 0x0 (.fmin (V3.unpack w))
  | 4 => chk w 0x0 0x0 0x0 (.fmax (V3.unpack w))
  | 5 => chk w 0x0 0x0 0x0 (.fminn (V3.unpack w))
  | 6 => chk w 0x0 0x0 0x0 (.fmaxn (V3.unpack w))
  | 7 => chk w 0x3f6 0x0 0x0 (.fabs (V3U.unpack w))
  | 8 => chk w 0x3f6 0x0 0x0 (.fneg (V3U.unpack w))
  | 9 => chk w 0x0 0x0 0x0 (.fcpys (V3.unpack w))
  | 10 => chk w 0x3f6 0x0 0x0 (.frint (V3U.unpack w))
  | 11 => chk w 0x3f6 0x0 0x0 (.ffloor (V3U.unpack w))
  | 12 => chk w 0x3f6 0x0 0x0 (.fceil (V3U.unpack w))
  | 13 => chk w 0x3f6 0x0 0x0 (.ftrunc (V3U.unpack w))
  | 14 => chk w 0x0 0x0 0x0 (.fldexp (V3.unpack w))
  | 15 => chk w 0x3f6 0x0 0x0 (.fexpo (V3U.unpack w))
  | 16 => chk w 0x3f6 0x0 0x0 (.fclass (V3U.unpack w))
  | _ => .error .fn

/-- Major 3, VHALF (R57). -/
def decVhalf (w : W32) : Except Reject Instr :=
  match (fld 5 22 w).toNat with
  | 0 => chk w 0x0 0x0 0x0 (.hadd2 (V3.unpack w))
  | 1 => chk w 0x0 0x0 0x0 (.hsub2 (V3.unpack w))
  | 2 => chk w 0x0 0x0 0x0 (.hmul2 (V3.unpack w))
  | 3 => chk w 0x0 0x0 0x0 (.hmin2 (V3.unpack w))
  | 4 => chk w 0x0 0x0 0x0 (.hmax2 (V3.unpack w))
  | 5 => chk w 0x0 0x0 0x0 (.badd2 (V3.unpack w))
  | 6 => chk w 0x0 0x0 0x0 (.bsub2 (V3.unpack w))
  | 7 => chk w 0x0 0x0 0x0 (.bmul2 (V3.unpack w))
  | 8 => chk w 0x0 0x0 0x0 (.bmin2 (V3.unpack w))
  | 9 => chk w 0x0 0x0 0x0 (.bmax2 (V3.unpack w))
  | _ => .error .fn

/-- Major 4, VDBL (R57). -/
def decVdbl (w : W32) : Except Reject Instr :=
  match (fld 5 22 w).toNat with
  | 0 => chk w 0x0 0x0 0x0 (.faddF64 (V3.unpack w))
  | 1 => chk w 0x0 0x0 0x0 (.fsubF64 (V3.unpack w))
  | 2 => chk w 0x0 0x0 0x0 (.fmulF64 (V3.unpack w))
  | 3 => chk w 0x0 0x0 0x0 (.fminF64 (V3.unpack w))
  | 4 => chk w 0x0 0x0 0x0 (.fmaxF64 (V3.unpack w))
  | 5 => chk w 0x3f6 0x0 0x0 (.fabsF64 (V3U.unpack w))
  | 6 => chk w 0x3f6 0x0 0x0 (.fnegF64 (V3U.unpack w))
  | 7 => chk w 0x0 0x0 0x0 (.fdivF64 (V3.unpack w))
  | 8 => chk w 0x3f6 0x0 0x0 (.fsqrtF64 (V3U.unpack w))
  | _ => .error .fn

/-- Major 5, VFUSE (R57). -/
def decVfuse (w : W32) : Except Reject Instr :=
  match (fld 3 24 w).toNat with
  | 0 => chk w 0x0 0x0 0x0 (.fma (V4.unpack w))
  | 1 => chk w 0x0 0x0 0x0 (.fms (V4.unpack w))
  | 2 => chk w 0x0 0x0 0x0 (.fnma (V4.unpack w))
  | 3 => chk w 0x0 0x0 0x0 (.fmaF64 (V4.unpack w))
  | 4 => chk w 0x0 0x0 0x0 (.hfma2 (V4.unpack w))
  | 5 => chk w 0x0 0x0 0x0 (.bfma2 (V4.unpack w))
  | 6 => chk w 0x0 0x0 0x0 (.imad (V4.unpack w))
  | 7 => chk w 0x0 0x0 0x0 (.bfi (V4.unpack w))
  | _ => .error .fn

/-- Major 6, VCVT (R57). -/
def decVcvt (w : W32) : Except Reject Instr :=
  match (fld 5 22 w).toNat with
  | 0 => match cvtSel w with
    | none => .error .selector
    | some sel => chk w 0x6 0 0 (.cvtF32S32 (Cvt.unpack w sel))
  | 1 => match cvtSel w with
    | none => .error .selector
    | some sel => chk w 0x6 0 0 (.cvtF32Z32 (Cvt.unpack w sel))
  | 2 => match cvtSel w with
    | none => .error .selector
    | some sel => chk w 0x6 0 0 (.cvtS32F32 (Cvt.unpack w sel))
  | 3 => match cvtSel w with
    | none => .error .selector
    | some sel => chk w 0x6 0 0 (.cvtZ32F32 (Cvt.unpack w sel))
  | 4 => match cvtSel w with
    | none => .error .selector
    | some sel => chk w 0x6 0 0 (.cvtF32F16 (Cvt.unpack w sel))
  | 5 => match cvtSel w with
    | none => .error .selector
    | some sel => chk w 0x6 0 0 (.cvtF16F32 (Cvt.unpack w sel))
  | 6 => match cvtSel w with
    | none => .error .selector
    | some sel => chk w 0x6 0 0 (.cvtF32B16 (Cvt.unpack w sel))
  | 7 => match cvtSel w with
    | none => .error .selector
    | some sel => chk w 0x6 0 0 (.cvtB16F32 (Cvt.unpack w sel))
  | 8 => match cvtSel w with
    | none => .error .selector
    | some sel => chk w 0x6 0 0 (.cvtF64F32 (Cvt.unpack w sel))
  | 9 => match cvtSel w with
    | none => .error .selector
    | some sel => chk w 0x6 0 0 (.cvtF32F64 (Cvt.unpack w sel))
  | 10 => match cvtSel w with
    | none => .error .selector
    | some sel => chk w 0x6 0 0 (.cvtF64S64 (Cvt.unpack w sel))
  | 11 => match cvtSel w with
    | none => .error .selector
    | some sel => chk w 0x6 0 0 (.cvtS64F64 (Cvt.unpack w sel))
  | 12 => match cvtSel w with
    | none => .error .selector
    | some sel => chk w 0x6 0 0 (.packF16 (Cvt.unpack w sel))
  | 13 => match cvtSel w with
    | none => .error .selector
    | some sel => chk w 0x6 0 0 (.packB16 (Cvt.unpack w sel))
  | _ => .error .fn

/-- Major 7, VSFU (R57). -/
def decVsfu (w : W32) : Except Reject Instr :=
  match (fld 5 22 w).toNat with
  | 0 => chk w 0x3f6 0x0 0x0 (.frcp (V3U.unpack w))
  | 1 => chk w 0x3f6 0x0 0x0 (.frsq (V3U.unpack w))
  | 2 => chk w 0x3f6 0x0 0x0 (.fsqrt (V3U.unpack w))
  | 3 => chk w 0x0 0x0 0x0 (.fdiv (V3.unpack w))
  | 4 => chk w 0x3f6 0x0 0x0 (.fexp2 (V3U.unpack w))
  | 5 => chk w 0x3f6 0x0 0x0 (.flog2 (V3U.unpack w))
  | 6 => chk w 0x3f6 0x0 0x0 (.fsinpi (V3U.unpack w))
  | 7 => chk w 0x3f6 0x0 0x0 (.fcospi (V3U.unpack w))
  | 8 => chk w 0x3f6 0x0 0x0 (.ftanh (V3U.unpack w))
  | _ => .error .fn

/-- Major 8, VCMP (R57). -/
def decVcmp (w : W32) : Except Reject Instr :=
  match (fld 5 22 w).toNat with
  | 0 => chk w 0x0 0x0 0x0 (.fset (Cmp.unpack w))
  | 1 => chk w 0x0 0x0 0x0 (.fsetF64 (Cmp.unpack w))
  | 2 => chk w 0x0 0x0 0x0 (.iset (Cmp.unpack w))
  | 3 => chk w 0x0 0x0 0x0 (.iset64 (Cmp.unpack w))
  | 4 => chk w 0xe383 0x0 0x0 (.plop (Plop.unpack w))
  | 5 => chk w 0x0 0x0 0x0 (.sel (Sel.unpack w))
  | _ => .error .fn

/-- Major 9, VMOVE (R57). -/
def decVmove (w : W32) : Except Reject Instr :=
  match (fld 5 22 w).toNat with
  | 0 => chk w 0x0 0x0 0x0 (.movlo (MI.unpack w))
  | 1 => chk w 0x0 0x0 0x0 (.movhi (MI.unpack w))
  | 2 => chk w 0x0 0x200000 0x0 (.smovlo (SMI.unpack w))
  | 3 => chk w 0x0 0x200000 0x0 (.smovhi (SMI.unpack w))
  | 4 => chk w 0x0 0x200000 0x0 (.smovh2 (SMI.unpack w))
  | 5 => chk w 0x0 0x200000 0x0 (.smovh3 (SMI.unpack w))
  | 6 => chk w 0xffc0 0x0 0x0 (.bcast (Bcast.unpack w))
  | 7 => chk w 0xf000 0x200000 0x0 (.laneget (LaneGet.unpack w))
  | _ => .error .fn

/-- Major 10, VXLANE (R57). -/
def decVxlane (w : W32) : Except Reject Instr :=
  match (fld 5 22 w).toNat with
  | 0 => chk w 0x0 0x0 0x0 (.shflIdx (V3.unpack w))
  | 1 => chk w 0x0 0x0 0x0 (.shflUp (V3.unpack w))
  | 2 => chk w 0x0 0x0 0x0 (.shflDown (V3.unpack w))
  | 3 => chk w 0x0 0x0 0x0 (.shflXor (V3.unpack w))
  | 4 => chk w 0x38e3f7 0x0 0x0 (.voteAny (Vote.unpack w))
  | 5 => chk w 0x38e3f7 0x0 0x0 (.voteAll (Vote.unpack w))
  | 6 => chk w 0xe3f7 0x0 0x0 (.ballot (Ballot.unpack w))
  | 7 => chk w 0x3f6 0x0 0x0 (.gredAdd (V3U.unpack w))
  | 8 => chk w 0x3f6 0x0 0x0 (.gredMaxS (V3U.unpack w))
  | 9 => chk w 0x3f6 0x0 0x0 (.gredFadd (V3U.unpack w))
  | 10 => chk w 0x3f6 0x0 0x0 (.gscanAdd (V3U.unpack w))
  | _ => .error .fn

/-- Major 11, SALU (R57). -/
def decSalu (w : W32) : Except Reject Instr :=
  match (fld 5 22 w).toNat with
  | 0 => chk w 0x0 0x208200 0x0 (.sadd (S3.unpack w))
  | 1 => chk w 0x0 0x208200 0x0 (.ssub (S3.unpack w))
  | 2 => chk w 0x0 0x208200 0x0 (.smul (S3.unpack w))
  | 3 => chk w 0x0 0x208200 0x0 (.sand (S3.unpack w))
  | 4 => chk w 0x0 0x208200 0x0 (.sor (S3.unpack w))
  | 5 => chk w 0x0 0x208200 0x0 (.sxor (S3.unpack w))
  | 6 => chk w 0x0 0x208200 0x0 (.sshl (S3.unpack w))
  | 7 => chk w 0x0 0x208200 0x0 (.sshrZ (S3.unpack w))
  | 8 => chk w 0x0 0x208200 0x0 (.sshrS (S3.unpack w))
  | 9 => chk w 0x0 0x208200 0x0 (.sminS (S3.unpack w))
  | 10 => chk w 0x0 0x208200 0x0 (.smaxS (S3.unpack w))
  | 11 => chk w 0x0 0x208200 0x0 (.sseteq (S3.unpack w))
  | 12 => chk w 0x0 0x208200 0x0 (.ssetltS (S3.unpack w))
  | 13 => chk w 0x0 0x208200 0x0 (.ssetltZ (S3.unpack w))
  | 14 => chk w 0x0 0x208000 0x0 (.saddi (SI.unpack w))
  | _ => .error .fn

/-- Major 12, LOAD (R57). -/
def decLoad (w : W32) : Except Reject Instr :=
  match (fld 4 23 w).toNat with
  | 0 => chk w 0x20 0x0 0x0 (.ldS8 (Ld.unpack w))
  | 1 => chk w 0x20 0x0 0x0 (.ldZ8 (Ld.unpack w))
  | 2 => chk w 0x20 0x0 0x0 (.ldS16 (Ld.unpack w))
  | 3 => chk w 0x20 0x0 0x0 (.ldZ16 (Ld.unpack w))
  | 4 => chk w 0x20 0x0 0x0 (.ldB32 (Ld.unpack w))
  | 5 => chk w 0x20 0x0 0x0 (.ldB64 (Ld.unpack w))
  | 6 => chk w 0x20 0x0 0x0 (.ldB128 (Ld.unpack w))
  | 7 => chk w 0xfe0 0x400000 0x0 (.sldB64 (Sld.unpack w))
  | 8 => chk w 0x20 0x600000 0x0 (.dld (LdD.unpack w))
  | 9 => chk w 0x20 0x400000 0x0 (.wld (LdW.unpack w))
  | 10 => chk w 0x20 0x400000 0x0 (.wlds (LdW.unpack w))
  | 11 => chk w 0x7e0020 0x0 0x0 (.prf (Pf.unpack w))
  | _ => .error .fn

/-- Major 13, STORE (R57). -/
def decStore (w : W32) : Except Reject Instr :=
  match (fld 4 23 w).toNat with
  | 0 => chk w 0x0 0x0 0x0 (.stB8 (St.unpack w))
  | 1 => chk w 0x0 0x0 0x0 (.stB16 (St.unpack w))
  | 2 => chk w 0x0 0x0 0x0 (.stB32 (St.unpack w))
  | 3 => chk w 0x0 0x0 0x0 (.stB64 (St.unpack w))
  | 4 => chk w 0x0 0x0 0x0 (.stB128 (St.unpack w))
  | 5 => chk w 0xfc0 0x400000 0x0 (.sstB64 (Sst.unpack w))
  | 6 => chk w 0x0 0x600000 0x0 (.dst (StD.unpack w))
  | 7 => chk w 0x0 0x400000 0x0 (.wst (StW.unpack w))
  | 8 => chk w 0x0 0x400000 0x0 (.wsts (StW.unpack w))
  | _ => .error .fn

/-- Major 14, ATOM (R57). -/
def decAtom (w : W32) : Except Reject Instr :=
  match (fld 4 23 w).toNat with
  | 0 => chk w 0x0 0x0 0x0 (.atomAddB32 (St.unpack w))
  | 1 => chk w 0x0 0x0 0x0 (.atomAddB64 (St.unpack w))
  | 2 => chk w 0x0 0x0 0x0 (.atomFaddF32 (St.unpack w))
  | 3 => chk w 0x0 0x0 0x0 (.atomMinS32 (St.unpack w))
  | 4 => chk w 0x0 0x0 0x0 (.atomMaxS32 (St.unpack w))
  | 5 => chk w 0x0 0x0 0x0 (.atomMinZ32 (St.unpack w))
  | 6 => chk w 0x0 0x0 0x0 (.atomMaxZ32 (St.unpack w))
  | 7 => chk w 0x0 0x0 0x0 (.atomAndB32 (St.unpack w))
  | 8 => chk w 0x0 0x0 0x0 (.atomOrB32 (St.unpack w))
  | 9 => chk w 0x0 0x0 0x0 (.atomXorB32 (St.unpack w))
  | 10 => chk w 0x0 0x0 0x0 (.atomExchB32 (St.unpack w))
  | 11 => chk w 0x0 0x0 0x0 (.atomExchB64 (St.unpack w))
  | 12 => chk w 0x0 0x0 0x0 (.atomCasB32 (St.unpack w))
  | 13 => chk w 0x0 0x0 0x0 (.atomCasB64 (St.unpack w))
  | 14 => chk w 0x0 0x0 0x0 (.atomIncZ32 (St.unpack w))
  | _ => .error .fn

/-- Major 15, MEMX (R57). -/
def decMemx (w : W32) : Except Reject Instr :=
  match (fld 4 23 w).toNat with
  | 0 => chk w 0x7fffff 0x0 0x0 .fenceHost
  | 1 => chk w 0x7fffff 0x0 0x0 .fenceSys
  | 2 => chk w 0x7e0020 0x0 0x0 (.cwb (Pf.unpack w))
  | 3 => chk w 0x7e0020 0x0 0x0 (.cinv (Pf.unpack w))
  | 4 => chk w 0x20 0x0 0x0 (.xlq (Ld.unpack w))
  | _ => .error .fn

/-- Major 16, MAT (R57). -/
def decMat (w : W32) : Except Reject Instr :=
  match (fld 5 22 w).toNat with
  | 0 => chk w 0x3 0x0 0x0 (.mma (fld 5 17 w) (fld 5 12 w) (fld 5 7 w) (fld 5 2 w))
  | 1 => chk w 0x3 0x0 0x0 (.mloop (fld 5 17 w) (fld 5 12 w) (fld 5 7 w) (fld 5 2 w))
  | 2 => chk w 0x3 0x0 0x0 (.mloops (fld 5 17 w) (fld 5 12 w) (fld 5 7 w) (fld 5 2 w))
  | 3 => chk w 0x0 0x0 0x0 (.attn (fld 5 17 w) (fld 5 12 w) (fld 5 7 w) (fld 5 2 w) (fld 2 0 w))
  | 4 => chk w 0xffc 0x0 0x0 (.hadq (fld 5 17 w) (fld 5 12 w) (fld 2 0 w))
  | 5 => chk w 0xfff 0x0 0x0 (.qnt (fld 5 17 w) (fld 5 12 w))
  | 6 => chk w 0x1ffff 0x0 0x0 (.accz (fld 5 17 w))
  | 7 => chk w 0xffe 0x0 0x0 (.accrd (fld 5 17 w) (fld 5 12 w) (bit 0 w))
  | 8 => chk w 0xfff 0x0 0x0 (.accwr (fld 5 17 w) (fld 5 12 w))
  | 9 => chk w 0x3fffff 0x0 0x0 .mrel
  | _ => .error .fn

/-- Major 17, COPY (R57). -/
def decCopy (w : W32) : Except Reject Instr :=
  match (fld 5 22 w).toNat with
  | 0 => chk w 0xf82 0x0 0x10000 (.copyIn (fld 5 17 w) (fld 4 12 w) (fld 5 2 w) (bit 0 w))
  | 1 => chk w 0xf80 0x0 0x10000 (.copyOut (fld 5 17 w) (fld 4 12 w) (fld 5 2 w) (bit 1 w) (bit 0 w))
  | 2 => chk w 0x1ff80 0x0 0x0 (.copyTt (fld 5 17 w) (fld 5 2 w) (bit 1 w) (bit 0 w))
  | 3 => chk w 0x2 0x0 0x10000 (.copyGather (fld 5 17 w) (fld 4 12 w) (fld 5 7 w) (fld 5 2 w) (bit 0 w))
  | 4 => chk w 0x1ff83 0x0 0x0 (.tdef (fld 5 17 w) (fld 5 2 w))
  | 5 => chk w 0x1ffff 0x0 0x0 (.tdrop (fld 5 17 w))
  | 6 => chk w 0x3e0f83 0x0 0x10000 (.tset (fld 4 12 w) (fld 5 2 w))
  | 7 => chk w 0x1ff83 0x0 0x0 (.tstat (fld 5 17 w) (fld 5 2 w))
  | 8 => chk w 0x1ffff 0x0 0x0 (.trel (fld 5 17 w))
  | _ => .error .fn

/-- Major 18, BAR (R57). -/
def decBar (w : W32) : Except Reject Instr :=
  match (fld 5 22 w).toNat with
  | 0 => if bit 10 w then chk w 0x3ff 0x0 0x0 (.binitReg (fld 5 17 w) (fld 6 11 w)) else chk w 0x1f800 0x0 0x0 (.binit (fld 5 17 w) (fld 10 0 w))
  | 1 => chk w 0x1fffe 0x0 0x0 (.barv (fld 5 17 w) (bit 0 w))
  | 2 => chk w 0x7fc 0x0 0x0 (.barvb (fld 5 17 w) (fld 6 11 w) (bit 1 w) (bit 0 w))
  | 3 => chk w 0x7ff 0x0 0x0 (.bwait (fld 5 17 w) (fld 6 11 w))
  | 4 => chk w 0x7f8 0x0 0x0 (.bwaitt (fld 5 17 w) (fld 6 11 w) (fld 3 0 w))
  | 5 => chk w 0x7ff 0x0 0x0 (.btst (fld 5 17 w) (fld 6 11 w))
  | 6 => chk w 0x1ffff 0x0 0x0 (.bjoin (fld 5 17 w))
  | 7 => chk w 0x1ffff 0x0 0x0 (.bleave (fld 5 17 w))
  | 8 => chk w 0x1fffe 0x0 0x0 (.bdrop (fld 5 17 w) (bit 0 w))
  | _ => .error .fn

/-- Major 19, DIST (R57). -/
def decDist (w : W32) : Except Reject Instr :=
  match (fld 5 22 w).toNat with
  | 0 => chk w 0x3ff 0x0 0x0 (.dadd (fld 4 18 w) (fld 4 14 w) (fld 4 10 w))
  | 1 => chk w 0x3ff 0x0 0x0 (.dsub (fld 4 18 w) (fld 4 14 w) (fld 4 10 w))
  | 2 => chk w 0x3ff 0x0 0x0 (.dmul (fld 4 18 w) (fld 4 14 w) (fld 4 10 w))
  | 3 => chk w 0x3ff 0x0 0x0 (.dmax (fld 4 18 w) (fld 4 14 w) (fld 4 10 w))
  | 4 => chk w 0x3ff 0x0 0x0 (.dmin (fld 4 18 w) (fld 4 14 w) (fld 4 10 w))
  | 5 => chk w 0xf 0x0 0x0 (.dmix (fld 4 18 w) (fld 4 14 w) (fld 4 10 w) (fld 6 4 w))
  | 6 => chk w 0x3fff 0x0 0x0 (.dneg (fld 4 18 w) (fld 4 14 w))
  | 7 => chk w 0x3c0f 0x0 0x0 (.daff (fld 4 18 w) (fld 4 14 w) (fld 6 4 w))
  | 8 => chk w 0x3fff 0x0 0x0 (.drelu (fld 4 18 w) (fld 4 14 w))
  | 9 => chk w 0x3fff 0x0 0x0 (.dexp2 (fld 4 18 w) (fld 4 14 w))
  | 10 => chk w 0x3fff 0x0 0x0 (.dmov (fld 4 18 w) (fld 4 14 w))
  | _ => .error .fn

/-- Major 20, DXTR (R57). -/
def decDxtr (w : W32) : Except Reject Instr :=
  match (fld 5 22 w).toNat with
  | 0 => chk w 0x3fc0f 0x0 0x0 (.dpnt (fld 4 18 w) (fld 6 4 w))
  | 1 => chk w 0x3fc00 0x0 0x0 (.dfroms (fld 4 18 w) (fld 6 4 w) (fld 4 0 w))
  | 2 => chk w 0x3fc00 0x0 0x0 (.dnorm (fld 4 18 w) (fld 6 4 w) (fld 4 0 w))
  | 3 => chk w 0x3c3c00 0x0 0x0 (.dmom (fld 4 14 w) (fld 6 4 w) (fld 4 0 w))
  | 4 => chk w 0x3c3c0f 0x0 0x0 (.dqnt (fld 4 14 w) (fld 6 4 w))
  | 5 => chk w 0x3c3c0f 0x0 0x0 (.dprb (fld 4 14 w) (fld 6 4 w))
  | 6 => chk w 0x3c0f 0x0 0x0 (.dtag (fld 4 18 w) (fld 4 14 w) (fld 6 4 w))
  | 7 => chk w 0x3c3c0f 0x0 0x0 (.dtgr (fld 4 14 w) (fld 6 4 w))
  | 8 => chk w 0x3c3c08 0x0 0x0 (.datom (fld 4 14 w) (fld 6 4 w) (fld 3 0 w))
  | _ => .error .fn

/-- Major 21, WARITH (R57). -/
noncomputable def decWarith (w : W32) : Except Reject Instr :=
  match (fld 5 22 w).toNat with
  | 0 => chk w 0x7e 0x0 0x0 (.wadd (fld 5 17 w) (fld 5 12 w) (fld 5 7 w) (bit 0 w))
  | 1 => chk w 0x7e 0x0 0x0 (.wsub (fld 5 17 w) (fld 5 12 w) (fld 5 7 w) (bit 0 w))
  | 2 => chk w 0x7e 0x0 0x0 (.wmul (fld 5 17 w) (fld 5 12 w) (fld 5 7 w) (bit 0 w))
  | 3 => chk w 0x7e 0x0 0x0 (.wdiv (fld 5 17 w) (fld 5 12 w) (fld 5 7 w) (bit 0 w))
  | 4 => chk w 0xffe 0x0 0x0 (.wsqrt (fld 5 17 w) (fld 5 12 w) (bit 0 w))
  | 5 => chk w 0x7e 0x0 0x0 (.wfma (fld 5 17 w) (fld 5 12 w) (fld 5 7 w) (bit 0 w))
  | 6 => chk w 0xffe 0x0 0x0 (.wneg (fld 5 17 w) (fld 5 12 w) (bit 0 w))
  | 7 => chk w 0xffe 0x0 0x0 (.wabs (fld 5 17 w) (fld 5 12 w) (bit 0 w))
  | 8 => chk w 0x3e0000 0x0 0x0 (.wcmp (fld 5 12 w) (fld 5 7 w) (fld 6 1 w) (bit 0 w))
  | 9 => chk w 0xffe 0x0 0x0 (.wrnd (fld 5 17 w) (fld 5 12 w) (bit 0 w))
  | 10 => chk w 0xf80 0x0 0x0 (.wldexp (fld 5 17 w) (fld 5 12 w) (fld 6 1 w) (bit 0 w))
  | 11 => chk w 0x1f000 0x0 0x0 (.wfrom (fld 5 17 w) (fld 5 7 w) (fld 6 1 w) (bit 0 w))
  | 12 => chk w 0x3e0000 0x0 0x0 (.wto (fld 5 12 w) (fld 5 7 w) (fld 6 1 w) (bit 0 w))
  | 13 => chk w 0xffe 0x0 0x0 (.wmov (fld 5 17 w) (fld 5 12 w) (bit 0 w))
  | _ => .error .fn

/-- Major 22, WCTL (R57). -/
noncomputable def decWctl (w : W32) : Except Reject Instr :=
  match (fld 5 22 w).toNat with
  | 0 => chk w 0x3e0ffe 0x0 0x0 (.wcfg (fld 5 12 w) (bit 0 w))
  | 1 => chk w 0x3e0f80 0x0 0x0 (.wgetl (fld 5 12 w) (fld 6 1 w) (bit 0 w))
  | 2 => chk w 0xf80 0x0 0x0 (.wsetl (fld 5 17 w) (fld 5 12 w) (fld 6 1 w) (bit 0 w))
  | 3 => chk w 0x3e0f80 0x0 0x0 (.winfo (fld 5 12 w) (fld 6 1 w) (bit 0 w))
  | _ => .error .fn

/-- Major 23, BRANCH (R57). -/
noncomputable def decBranch (w : W32) : Except Reject Instr :=
  match (fld 3 24 w).toNat with
  | 0 => chk w 0xf00000 0x0 0x0 (.bra (fld 20 0 w))
  | 1 => chk w 0x0 0x0 0x0 (.brc (fld 3 21 w) (bit 20 w) (fld 20 0 w))
  | 2 => chk w 0x0 0x0 0x0 (.brs (fld 5 19 w) (bit 18 w) (fld 18 0 w))
  | 3 => chk w 0x3ffff 0x0 0x0 (.brx (fld 6 18 w))
  | 4 => chk w 0x0 0x0 0x0 (.call (fld 3 21 w) (bit 20 w) (fld 20 0 w))
  | 5 => chk w 0x3ffff 0x0 0x0 (.callx (fld 6 18 w))
  | 6 => chk w 0xfffff 0x0 0x0 (.ret (fld 3 21 w) (bit 20 w))
  | 7 => chk w 0xfffff 0x0 0x0 (.exit (fld 3 21 w) (bit 20 w))
  | _ => .error .fn

/-- Major 24, SYNC (R57). -/
noncomputable def decSync (w : W32) : Except Reject Instr :=
  match (fld 5 22 w).toNat with
  | 0 => if bit 3 w then chk w 0x3ffff7 0x0 0x0 .waitfAll else chk w 0x3f03f0 0x0 0x0 (.waitf (fld 6 10 w) (fld 3 0 w))
  | 1 => chk w 0xffff 0x0 0x0 (.sete (fld 6 16 w))
  | 2 => chk w 0x3ff 0x0 0x0 (.shsend (fld 6 16 w) (fld 6 10 w))
  | 3 => chk w 0x3ff 0x0 0x0 (.shtake (fld 6 16 w) (fld 6 10 w))
  | 4 => chk w 0x3ffc00 0x0 0x0 (.sleep (fld 10 0 w))
  | 5 => chk w 0x3fffff 0x0 0x0 .yield
  | 6 => chk w 0x3fffff 0x0 0x0 .nop
  | _ => .error .fn

/-- Major 25, LAUNCH (R57). -/
noncomputable def decLaunch (w : W32) : Except Reject Instr :=
  match (fld 5 22 w).toNat with
  | 0 => chk w 0x3c0 0x0 0x0 (.launch (fld 6 16 w) (fld 6 10 w) (fld 6 0 w))
  | 1 => chk w 0xffc0 0x0 0x0 (.lstat (fld 6 16 w) (fld 6 0 w))
  | _ => .error .fn

/-- Major 26, SYS (R57). -/
noncomputable def decSys (w : W32) : Except Reject Instr :=
  match (fld 5 22 w).toNat with
  | 0 => chk w 0x3ffc00 0x0 0x0 (.trap (fld 10 0 w))
  | 1 => chk w 0x0 0x0 0x0 (.svc (fld 6 16 w) (fld 6 10 w) (fld 10 0 w))
  | 2 => chk w 0xfc00 0x0 0x0 (.sread (fld 6 16 w) (fld 10 0 w))
  | 3 => chk w 0x3f0000 0x0 0x0 (.swrite (fld 6 10 w) (fld 10 0 w))
  | 4 => chk w 0x3ffc00 0x0 0x0 (.brk (fld 10 0 w))
  | 5 => chk w 0x3fffff 0x0 0x0 .illeg
  | _ => .error .fn

/-- The instruction that a word of a clause body is, or why it is none (R57, R60). -/
noncomputable def decode (w : W32) : Except Reject Instr :=
  match majorOf w with
  | 0 => decVint w
  | 1 => decVimm w
  | 2 => decVflt w
  | 3 => decVhalf w
  | 4 => decVdbl w
  | 5 => decVfuse w
  | 6 => decVcvt w
  | 7 => decVsfu w
  | 8 => decVcmp w
  | 9 => decVmove w
  | 10 => decVxlane w
  | 11 => decSalu w
  | 12 => decLoad w
  | 13 => decStore w
  | 14 => decAtom w
  | 15 => decMemx w
  | 16 => decMat w
  | 17 => decCopy w
  | 18 => decBar w
  | 19 => decDist w
  | 20 => decDxtr w
  | 21 => decWarith w
  | 22 => decWctl w
  | 23 => decBranch w
  | 24 => decSync w
  | 25 => decLaunch w
  | 26 => decSys w
  | _ => .error .major

/-- The instruction that the words of the opcode table's numbering decode to: one 32-bit word. -/
noncomputable def decodeTableWord (nbits w : Nat) : Option Instr :=
  if nbits = 32 then
    match decode (BitVec.ofNat 32 w) with
    | .ok i => some i
    | .error _ => none
  else none

/-- The word of a well-formed instruction; none for the events, which have no word. -/
def encode : Instr → Option W32
  | .iadd o => some (o.pack 0 0)
  | .isub o => some (o.pack 0 1)
  | .imul o => some (o.pack 0 2)
  | .imulhS o => some (o.pack 0 3)
  | .imulhZ o => some (o.pack 0 4)
  | .iminS o => some (o.pack 0 5)
  | .iminZ o => some (o.pack 0 6)
  | .imaxS o => some (o.pack 0 7)
  | .imaxZ o => some (o.pack 0 8)
  | .iabsdS o => some (o.pack 0 9)
  | .and o => some (o.pack 0 10)
  | .or o => some (o.pack 0 11)
  | .xor o => some (o.pack 0 12)
  | .andn o => some (o.pack 0 13)
  | .shl o => some (o.pack 0 14)
  | .shrZ o => some (o.pack 0 15)
  | .shrS o => some (o.pack 0 16)
  | .rotl o => some (o.pack 0 17)
  | .popc o => some (o.pack 0 18)
  | .clz o => some (o.pack 0 19)
  | .brev o => some (o.pack 0 20)
  | .bfxS o => some (o.pack 0 21)
  | .bfxZ o => some (o.pack 0 22)
  | .prmt o => some (o.pack 0 23)
  | .iadd64 o => some (o.pack 0 24)
  | .isub64 o => some (o.pack 0 25)
  | .shl64 o => some (o.pack 0 26)
  | .shr64Z o => some (o.pack 0 27)
  | .shr64S o => some (o.pack 0 28)
  | .iaddsatS o => some (o.pack 0 29)
  | .iaddi o => some (o.pack 1 0)
  | .imuli o => some (o.pack 1 1)
  | .andi o => some (o.pack 1 2)
  | .ori o => some (o.pack 1 3)
  | .xori o => some (o.pack 1 4)
  | .shli o => some (o.pack 1 5)
  | .shriZ o => some (o.pack 1 6)
  | .shriS o => some (o.pack 1 7)
  | .iminiS o => some (o.pack 1 8)
  | .imaxiS o => some (o.pack 1 9)
  | .fadd o => some (o.pack 2 0)
  | .fsub o => some (o.pack 2 1)
  | .fmul o => some (o.pack 2 2)
  | .fmin o => some (o.pack 2 3)
  | .fmax o => some (o.pack 2 4)
  | .fminn o => some (o.pack 2 5)
  | .fmaxn o => some (o.pack 2 6)
  | .fabs o => some (o.pack 2 7)
  | .fneg o => some (o.pack 2 8)
  | .fcpys o => some (o.pack 2 9)
  | .frint o => some (o.pack 2 10)
  | .ffloor o => some (o.pack 2 11)
  | .fceil o => some (o.pack 2 12)
  | .ftrunc o => some (o.pack 2 13)
  | .fldexp o => some (o.pack 2 14)
  | .fexpo o => some (o.pack 2 15)
  | .fclass o => some (o.pack 2 16)
  | .hadd2 o => some (o.pack 3 0)
  | .hsub2 o => some (o.pack 3 1)
  | .hmul2 o => some (o.pack 3 2)
  | .hmin2 o => some (o.pack 3 3)
  | .hmax2 o => some (o.pack 3 4)
  | .badd2 o => some (o.pack 3 5)
  | .bsub2 o => some (o.pack 3 6)
  | .bmul2 o => some (o.pack 3 7)
  | .bmin2 o => some (o.pack 3 8)
  | .bmax2 o => some (o.pack 3 9)
  | .faddF64 o => some (o.pack 4 0)
  | .fsubF64 o => some (o.pack 4 1)
  | .fmulF64 o => some (o.pack 4 2)
  | .fminF64 o => some (o.pack 4 3)
  | .fmaxF64 o => some (o.pack 4 4)
  | .fabsF64 o => some (o.pack 4 5)
  | .fnegF64 o => some (o.pack 4 6)
  | .fdivF64 o => some (o.pack 4 7)
  | .fsqrtF64 o => some (o.pack 4 8)
  | .fma o => some (o.pack 5 0)
  | .fms o => some (o.pack 5 1)
  | .fnma o => some (o.pack 5 2)
  | .fmaF64 o => some (o.pack 5 3)
  | .hfma2 o => some (o.pack 5 4)
  | .bfma2 o => some (o.pack 5 5)
  | .imad o => some (o.pack 5 6)
  | .bfi o => some (o.pack 5 7)
  | .cvtF32S32 o => some (o.pack 6 0)
  | .cvtF32Z32 o => some (o.pack 6 1)
  | .cvtS32F32 o => some (o.pack 6 2)
  | .cvtZ32F32 o => some (o.pack 6 3)
  | .cvtF32F16 o => some (o.pack 6 4)
  | .cvtF16F32 o => some (o.pack 6 5)
  | .cvtF32B16 o => some (o.pack 6 6)
  | .cvtB16F32 o => some (o.pack 6 7)
  | .cvtF64F32 o => some (o.pack 6 8)
  | .cvtF32F64 o => some (o.pack 6 9)
  | .cvtF64S64 o => some (o.pack 6 10)
  | .cvtS64F64 o => some (o.pack 6 11)
  | .packF16 o => some (o.pack 6 12)
  | .packB16 o => some (o.pack 6 13)
  | .frcp o => some (o.pack 7 0)
  | .frsq o => some (o.pack 7 1)
  | .fsqrt o => some (o.pack 7 2)
  | .fdiv o => some (o.pack 7 3)
  | .fexp2 o => some (o.pack 7 4)
  | .flog2 o => some (o.pack 7 5)
  | .fsinpi o => some (o.pack 7 6)
  | .fcospi o => some (o.pack 7 7)
  | .ftanh o => some (o.pack 7 8)
  | .fset o => some (o.pack 8 0)
  | .fsetF64 o => some (o.pack 8 1)
  | .iset o => some (o.pack 8 2)
  | .iset64 o => some (o.pack 8 3)
  | .plop o => some (o.pack 8 4)
  | .sel o => some (o.pack 8 5)
  | .movlo o => some (o.pack 9 0)
  | .movhi o => some (o.pack 9 1)
  | .smovlo o => some (o.pack 9 2)
  | .smovhi o => some (o.pack 9 3)
  | .smovh2 o => some (o.pack 9 4)
  | .smovh3 o => some (o.pack 9 5)
  | .bcast o => some (o.pack 9 6)
  | .laneget o => some (o.pack 9 7)
  | .shflIdx o => some (o.pack 10 0)
  | .shflUp o => some (o.pack 10 1)
  | .shflDown o => some (o.pack 10 2)
  | .shflXor o => some (o.pack 10 3)
  | .voteAny o => some (o.pack 10 4)
  | .voteAll o => some (o.pack 10 5)
  | .ballot o => some (o.pack 10 6)
  | .gredAdd o => some (o.pack 10 7)
  | .gredMaxS o => some (o.pack 10 8)
  | .gredFadd o => some (o.pack 10 9)
  | .gscanAdd o => some (o.pack 10 10)
  | .sadd o => some (o.pack 11 0)
  | .ssub o => some (o.pack 11 1)
  | .smul o => some (o.pack 11 2)
  | .sand o => some (o.pack 11 3)
  | .sor o => some (o.pack 11 4)
  | .sxor o => some (o.pack 11 5)
  | .sshl o => some (o.pack 11 6)
  | .sshrZ o => some (o.pack 11 7)
  | .sshrS o => some (o.pack 11 8)
  | .sminS o => some (o.pack 11 9)
  | .smaxS o => some (o.pack 11 10)
  | .sseteq o => some (o.pack 11 11)
  | .ssetltS o => some (o.pack 11 12)
  | .ssetltZ o => some (o.pack 11 13)
  | .saddi o => some (o.pack 11 14)
  | .ldS8 o => some (o.pack 12 0)
  | .ldZ8 o => some (o.pack 12 1)
  | .ldS16 o => some (o.pack 12 2)
  | .ldZ16 o => some (o.pack 12 3)
  | .ldB32 o => some (o.pack 12 4)
  | .ldB64 o => some (o.pack 12 5)
  | .ldB128 o => some (o.pack 12 6)
  | .sldB64 o => some (o.pack 12 7)
  | .dld o => some (o.pack 12 8)
  | .wld o => some (o.pack 12 9)
  | .wlds o => some (o.pack 12 10)
  | .prf o => some (o.pack 12 11)
  | .stB8 o => some (o.pack 13 0)
  | .stB16 o => some (o.pack 13 1)
  | .stB32 o => some (o.pack 13 2)
  | .stB64 o => some (o.pack 13 3)
  | .stB128 o => some (o.pack 13 4)
  | .sstB64 o => some (o.pack 13 5)
  | .dst o => some (o.pack 13 6)
  | .wst o => some (o.pack 13 7)
  | .wsts o => some (o.pack 13 8)
  | .atomAddB32 o => some (o.pack 14 0)
  | .atomAddB64 o => some (o.pack 14 1)
  | .atomFaddF32 o => some (o.pack 14 2)
  | .atomMinS32 o => some (o.pack 14 3)
  | .atomMaxS32 o => some (o.pack 14 4)
  | .atomMinZ32 o => some (o.pack 14 5)
  | .atomMaxZ32 o => some (o.pack 14 6)
  | .atomAndB32 o => some (o.pack 14 7)
  | .atomOrB32 o => some (o.pack 14 8)
  | .atomXorB32 o => some (o.pack 14 9)
  | .atomExchB32 o => some (o.pack 14 10)
  | .atomExchB64 o => some (o.pack 14 11)
  | .atomCasB32 o => some (o.pack 14 12)
  | .atomCasB64 o => some (o.pack 14 13)
  | .atomIncZ32 o => some (o.pack 14 14)
  | .fenceHost => some ((15 : BitVec 5) ++ (0 : BitVec 4) ++ (0 : BitVec 23))
  | .fenceSys => some ((15 : BitVec 5) ++ (1 : BitVec 4) ++ (0 : BitVec 23))
  | .cwb o => some (o.pack 15 2)
  | .cinv o => some (o.pack 15 3)
  | .xlq o => some (o.pack 15 4)
  | .mma c a b sp => some ((16 : BitVec 5) ++ (0 : BitVec 5) ++ c ++ a ++ b ++ sp ++ (0 : BitVec 2))
  | .mloop c a b sp => some ((16 : BitVec 5) ++ (1 : BitVec 5) ++ c ++ a ++ b ++ sp ++ (0 : BitVec 2))
  | .mloops c a b sp => some ((16 : BitVec 5) ++ (2 : BitVec 5) ++ c ++ a ++ b ++ sp ++ (0 : BitVec 2))
  | .attn c a b sp f => some ((16 : BitVec 5) ++ (3 : BitVec 5) ++ c ++ a ++ b ++ sp ++ f)
  | .hadq c a f => some ((16 : BitVec 5) ++ (4 : BitVec 5) ++ c ++ a ++ (0 : BitVec 10) ++ f)
  | .qnt c a => some ((16 : BitVec 5) ++ (5 : BitVec 5) ++ c ++ a ++ (0 : BitVec 12))
  | .accz c => some ((16 : BitVec 5) ++ (6 : BitVec 5) ++ c ++ (0 : BitVec 17))
  | .accrd c a b16 => some ((16 : BitVec 5) ++ (7 : BitVec 5) ++ c ++ a ++ (0 : BitVec 11) ++ bit1 b16)
  | .accwr c a => some ((16 : BitVec 5) ++ (8 : BitVec 5) ++ c ++ a ++ (0 : BitVec 12))
  | .mrel => some ((16 : BitVec 5) ++ (9 : BitVec 5) ++ (0 : BitVec 22))
  | .copyIn c x sp bar => some ((17 : BitVec 5) ++ (0 : BitVec 5) ++ c ++ (0 : BitVec 1) ++ x ++ (0 : BitVec 5) ++ sp ++ (0 : BitVec 1) ++ bit1 bar)
  | .copyOut c x sp rel bar => some ((17 : BitVec 5) ++ (1 : BitVec 5) ++ c ++ (0 : BitVec 1) ++ x ++ (0 : BitVec 5) ++ sp ++ bit1 rel ++ bit1 bar)
  | .copyTt c sp rel bar => some ((17 : BitVec 5) ++ (2 : BitVec 5) ++ c ++ (0 : BitVec 10) ++ sp ++ bit1 rel ++ bit1 bar)
  | .copyGather c x b sp bar => some ((17 : BitVec 5) ++ (3 : BitVec 5) ++ c ++ (0 : BitVec 1) ++ x ++ b ++ sp ++ (0 : BitVec 1) ++ bit1 bar)
  | .tdef c sp => some ((17 : BitVec 5) ++ (4 : BitVec 5) ++ c ++ (0 : BitVec 10) ++ sp ++ (0 : BitVec 2))
  | .tdrop c => some ((17 : BitVec 5) ++ (5 : BitVec 5) ++ c ++ (0 : BitVec 17))
  | .tset x sp => some ((17 : BitVec 5) ++ (6 : BitVec 5) ++ (0 : BitVec 6) ++ x ++ (0 : BitVec 5) ++ sp ++ (0 : BitVec 2))
  | .tstat c sp => some ((17 : BitVec 5) ++ (7 : BitVec 5) ++ c ++ (0 : BitVec 10) ++ sp ++ (0 : BitVec 2))
  | .trel c => some ((17 : BitVec 5) ++ (8 : BitVec 5) ++ c ++ (0 : BitVec 17))
  | .binit sb n => some ((18 : BitVec 5) ++ (0 : BitVec 5) ++ sb ++ (0 : BitVec 7) ++ n)
  | .binitReg sb v => some ((18 : BitVec 5) ++ (0 : BitVec 5) ++ sb ++ v ++ (1024 : BitVec 11))
  | .barv sb ord => some ((18 : BitVec 5) ++ (1 : BitVec 5) ++ sb ++ (0 : BitVec 16) ++ bit1 ord)
  | .barvb sb v out ord => some ((18 : BitVec 5) ++ (2 : BitVec 5) ++ sb ++ v ++ (0 : BitVec 9) ++ bit1 out ++ bit1 ord)
  | .bwait sb v => some ((18 : BitVec 5) ++ (3 : BitVec 5) ++ sb ++ v ++ (0 : BitVec 11))
  | .bwaitt sb v p => some ((18 : BitVec 5) ++ (4 : BitVec 5) ++ sb ++ v ++ (0 : BitVec 8) ++ p)
  | .btst sb v => some ((18 : BitVec 5) ++ (5 : BitVec 5) ++ sb ++ v ++ (0 : BitVec 11))
  | .bjoin sb => some ((18 : BitVec 5) ++ (6 : BitVec 5) ++ sb ++ (0 : BitVec 17))
  | .bleave sb => some ((18 : BitVec 5) ++ (7 : BitVec 5) ++ sb ++ (0 : BitVec 17))
  | .bdrop sb ord => some ((18 : BitVec 5) ++ (8 : BitVec 5) ++ sb ++ (0 : BitVec 16) ++ bit1 ord)
  | .dadd d a b => some ((19 : BitVec 5) ++ (0 : BitVec 5) ++ d ++ a ++ b ++ (0 : BitVec 10))
  | .dsub d a b => some ((19 : BitVec 5) ++ (1 : BitVec 5) ++ d ++ a ++ b ++ (0 : BitVec 10))
  | .dmul d a b => some ((19 : BitVec 5) ++ (2 : BitVec 5) ++ d ++ a ++ b ++ (0 : BitVec 10))
  | .dmax d a b => some ((19 : BitVec 5) ++ (3 : BitVec 5) ++ d ++ a ++ b ++ (0 : BitVec 10))
  | .dmin d a b => some ((19 : BitVec 5) ++ (4 : BitVec 5) ++ d ++ a ++ b ++ (0 : BitVec 10))
  | .dmix d a b v => some ((19 : BitVec 5) ++ (5 : BitVec 5) ++ d ++ a ++ b ++ v ++ (0 : BitVec 4))
  | .dneg d a => some ((19 : BitVec 5) ++ (6 : BitVec 5) ++ d ++ a ++ (0 : BitVec 14))
  | .daff d a v => some ((19 : BitVec 5) ++ (7 : BitVec 5) ++ d ++ a ++ (0 : BitVec 4) ++ v ++ (0 : BitVec 4))
  | .drelu d a => some ((19 : BitVec 5) ++ (8 : BitVec 5) ++ d ++ a ++ (0 : BitVec 14))
  | .dexp2 d a => some ((19 : BitVec 5) ++ (9 : BitVec 5) ++ d ++ a ++ (0 : BitVec 14))
  | .dmov d a => some ((19 : BitVec 5) ++ (10 : BitVec 5) ++ d ++ a ++ (0 : BitVec 14))
  | .dpnt d v => some ((20 : BitVec 5) ++ (0 : BitVec 5) ++ d ++ (0 : BitVec 8) ++ v ++ (0 : BitVec 4))
  | .dfroms d v n => some ((20 : BitVec 5) ++ (1 : BitVec 5) ++ d ++ (0 : BitVec 8) ++ v ++ n)
  | .dnorm d v n => some ((20 : BitVec 5) ++ (2 : BitVec 5) ++ d ++ (0 : BitVec 8) ++ v ++ n)
  | .dmom a v k => some ((20 : BitVec 5) ++ (3 : BitVec 5) ++ (0 : BitVec 4) ++ a ++ (0 : BitVec 4) ++ v ++ k)
  | .dqnt a v => some ((20 : BitVec 5) ++ (4 : BitVec 5) ++ (0 : BitVec 4) ++ a ++ (0 : BitVec 4) ++ v ++ (0 : BitVec 4))
  | .dprb a v => some ((20 : BitVec 5) ++ (5 : BitVec 5) ++ (0 : BitVec 4) ++ a ++ (0 : BitVec 4) ++ v ++ (0 : BitVec 4))
  | .dtag d a v => some ((20 : BitVec 5) ++ (6 : BitVec 5) ++ d ++ a ++ (0 : BitVec 4) ++ v ++ (0 : BitVec 4))
  | .dtgr a v => some ((20 : BitVec 5) ++ (7 : BitVec 5) ++ (0 : BitVec 4) ++ a ++ (0 : BitVec 4) ++ v ++ (0 : BitVec 4))
  | .datom a v n => some ((20 : BitVec 5) ++ (8 : BitVec 5) ++ (0 : BitVec 4) ++ a ++ (0 : BitVec 4) ++ v ++ (0 : BitVec 1) ++ n)
  | .wadd d a b t => some ((21 : BitVec 5) ++ (0 : BitVec 5) ++ d ++ a ++ b ++ (0 : BitVec 6) ++ bit1 t)
  | .wsub d a b t => some ((21 : BitVec 5) ++ (1 : BitVec 5) ++ d ++ a ++ b ++ (0 : BitVec 6) ++ bit1 t)
  | .wmul d a b t => some ((21 : BitVec 5) ++ (2 : BitVec 5) ++ d ++ a ++ b ++ (0 : BitVec 6) ++ bit1 t)
  | .wdiv d a b t => some ((21 : BitVec 5) ++ (3 : BitVec 5) ++ d ++ a ++ b ++ (0 : BitVec 6) ++ bit1 t)
  | .wsqrt d a t => some ((21 : BitVec 5) ++ (4 : BitVec 5) ++ d ++ a ++ (0 : BitVec 11) ++ bit1 t)
  | .wfma d a b t => some ((21 : BitVec 5) ++ (5 : BitVec 5) ++ d ++ a ++ b ++ (0 : BitVec 6) ++ bit1 t)
  | .wneg d a t => some ((21 : BitVec 5) ++ (6 : BitVec 5) ++ d ++ a ++ (0 : BitVec 11) ++ bit1 t)
  | .wabs d a t => some ((21 : BitVec 5) ++ (7 : BitVec 5) ++ d ++ a ++ (0 : BitVec 11) ++ bit1 t)
  | .wcmp a b v t => some ((21 : BitVec 5) ++ (8 : BitVec 5) ++ (0 : BitVec 5) ++ a ++ b ++ v ++ bit1 t)
  | .wrnd d a t => some ((21 : BitVec 5) ++ (9 : BitVec 5) ++ d ++ a ++ (0 : BitVec 11) ++ bit1 t)
  | .wldexp d a v t => some ((21 : BitVec 5) ++ (10 : BitVec 5) ++ d ++ a ++ (0 : BitVec 5) ++ v ++ bit1 t)
  | .wfrom d f v t => some ((21 : BitVec 5) ++ (11 : BitVec 5) ++ d ++ (0 : BitVec 5) ++ f ++ v ++ bit1 t)
  | .wto a f v t => some ((21 : BitVec 5) ++ (12 : BitVec 5) ++ (0 : BitVec 5) ++ a ++ f ++ v ++ bit1 t)
  | .wmov d a t => some ((21 : BitVec 5) ++ (13 : BitVec 5) ++ d ++ a ++ (0 : BitVec 11) ++ bit1 t)
  | .wcfg sb t => some ((22 : BitVec 5) ++ (0 : BitVec 5) ++ (0 : BitVec 5) ++ sb ++ (0 : BitVec 11) ++ bit1 t)
  | .wgetl a v t => some ((22 : BitVec 5) ++ (1 : BitVec 5) ++ (0 : BitVec 5) ++ a ++ (0 : BitVec 5) ++ v ++ bit1 t)
  | .wsetl d a v t => some ((22 : BitVec 5) ++ (2 : BitVec 5) ++ d ++ a ++ (0 : BitVec 5) ++ v ++ bit1 t)
  | .winfo a v t => some ((22 : BitVec 5) ++ (3 : BitVec 5) ++ (0 : BitVec 5) ++ a ++ (0 : BitVec 5) ++ v ++ bit1 t)
  | .bra off => some ((23 : BitVec 5) ++ (0 : BitVec 3) ++ (0 : BitVec 4) ++ off)
  | .brc p neg off => some ((23 : BitVec 5) ++ (1 : BitVec 3) ++ p ++ bit1 neg ++ off)
  | .brs sb neg off => some ((23 : BitVec 5) ++ (2 : BitVec 3) ++ sb ++ bit1 neg ++ off)
  | .brx v => some ((23 : BitVec 5) ++ (3 : BitVec 3) ++ v ++ (0 : BitVec 18))
  | .call p neg off => some ((23 : BitVec 5) ++ (4 : BitVec 3) ++ p ++ bit1 neg ++ off)
  | .callx v => some ((23 : BitVec 5) ++ (5 : BitVec 3) ++ v ++ (0 : BitVec 18))
  | .ret p neg => some ((23 : BitVec 5) ++ (6 : BitVec 3) ++ p ++ bit1 neg ++ (0 : BitVec 20))
  | .exit p neg => some ((23 : BitVec 5) ++ (7 : BitVec 3) ++ p ++ bit1 neg ++ (0 : BitVec 20))
  | .waitf r c => some ((24 : BitVec 5) ++ (0 : BitVec 5) ++ (0 : BitVec 6) ++ r ++ (0 : BitVec 7) ++ c)
  | .waitfAll => some ((24 : BitVec 5) ++ (0 : BitVec 5) ++ (8 : BitVec 22))
  | .sete d => some ((24 : BitVec 5) ++ (1 : BitVec 5) ++ d ++ (0 : BitVec 16))
  | .shsend d a => some ((24 : BitVec 5) ++ (2 : BitVec 5) ++ d ++ a ++ (0 : BitVec 10))
  | .shtake d a => some ((24 : BitVec 5) ++ (3 : BitVec 5) ++ d ++ a ++ (0 : BitVec 10))
  | .sleep n => some ((24 : BitVec 5) ++ (4 : BitVec 5) ++ (0 : BitVec 12) ++ n)
  | .yield => some ((24 : BitVec 5) ++ (5 : BitVec 5) ++ (0 : BitVec 22))
  | .nop => some ((24 : BitVec 5) ++ (6 : BitVec 5) ++ (0 : BitVec 22))
  | .launch d a q => some ((25 : BitVec 5) ++ (0 : BitVec 5) ++ d ++ a ++ (0 : BitVec 4) ++ q)
  | .lstat d q => some ((25 : BitVec 5) ++ (1 : BitVec 5) ++ d ++ (0 : BitVec 10) ++ q)
  | .trap n => some ((26 : BitVec 5) ++ (0 : BitVec 5) ++ (0 : BitVec 12) ++ n)
  | .svc d a c => some ((26 : BitVec 5) ++ (1 : BitVec 5) ++ d ++ a ++ c)
  | .sread d r => some ((26 : BitVec 5) ++ (2 : BitVec 5) ++ d ++ (0 : BitVec 6) ++ r)
  | .swrite a r => some ((26 : BitVec 5) ++ (3 : BitVec 5) ++ (0 : BitVec 6) ++ a ++ r)
  | .brk n => some ((26 : BitVec 5) ++ (4 : BitVec 5) ++ (0 : BitVec 12) ++ n)
  | .illeg => some ((26 : BitVec 5) ++ (5 : BitVec 5) ++ (0 : BitVec 22))
  | .doorbell _ _ => none
  | .launchAcceptance _ => none
  | .launchRecordRead _ => none
  | .tcbDispatch => none
  | .teamStart _ => none
  | .coResidentStart => none
  | .foragerRequest _ => none
  | .foragerAnswer _ => none
  | .preemptForRoom _ => none
  | .preemptionRequest _ => none
  | .teamSave _ => none
  | .teamRestore _ => none
  | .offCoreSave _ _ => none
  | .offCoreRestore _ _ => none
  | .launchCompletion _ => none
  | .instructionFetch _ _ _ => none
  | .prefetch _ _ _ => none
  | .ctuTranslate _ => none
  | .returnedRequestResend _ => none
  | .refill _ => none
  | .batchDelivery _ => none
  | .resolve _ _ _ _ => none
  | .resolvePoison _ _ _ => none
  | .list _ _ => none
  | .pageRepairTimeout _ _ _ _ => none
  | .accessAtHome _ => none
  | .accessResponse _ => none
  | .ptsTick => none
  | .pageReclassification _ _ => none
  | .invalidation _ _ _ => none
  | .delegation _ _ => none
  | .delegationRecall _ => none
  | .tlbInvalidation _ _ _ => none
  | .atsResponse _ _ => none
  | .priResponse _ _ _ _ => none
  | .hostAccess _ _ _ _ => none
  | .peerRequest _ _ _ _ _ _ _ => none
  | .svcReply _ _ => none
  | .alloc _ _ => none
  | .free _ => none
  | .hostcall _ _ _ => none
  | .migrate _ _ _ => none
  | .pairGrant _ => none
  | .leaseExpiry _ => none
  | .matrixStep _ => none
  | .attnBlock _ => none
  | .accRun _ => none
  | .copyChunk _ _ => none
  | .copyFailure _ => none
  | .tsetDescriptorArrival _ => none
  | .distCompletion _ => none
  | .windowCompletion _ => none
  | .barrierUpdate _ => none
  | .bwaitRelease _ _ _ => none
  | .bwaittDeadline _ _ _ => none
  | .sleepExpiry _ _ _ => none
  | .watchdogCheck _ => none
  | .coreFailure _ => none
  | .combError _ _ => none
  | .sliceFailure _ _ _ => none
  | .uncorrectableError _ => none
  | .peerReset _ => none
  | .gidonFlitError _ _ => none
  | .gidonNak _ _ => none
  | .gidonLaneFailure _ => none
  | .preronFailure _ => none
  | .hostLinkDown => none
  | .hostLinkLost => none
  | .throttle _ _ => none
  | .overTemperature _ _ => none
  | .powerRemoval _ => none
  | .boot => none
  | .mgmtRegisterWrite _ _ => none
  | .ctxnew _ => none
  | .ctxend _ => none
  | .qcfg _ _ _ _ _ => none
  | .pagemap _ _ _ _ _ => none
  | .hwin _ _ _ _ => none
  | .peerbind _ _ _ _ => none
  | .ckpt _ _ => none
  | .resume _ => none
  | .dbgatt _ => none
  | .dbgdet _ => none
  | .dbghalt _ _ _ => none
  | .dbgrun _ _ _ => none
  | .dbglist _ _ => none
  | .attest _ _ => none
  | .fwload _ => none
  | .illegalInstruction => none
  | .hostLinkRetrain _ _ => none
  | .gidonPortRetrain _ => none

end Sys2Proof
end

