-- ==== Sys2Proof/Config.lean ====
section
/-! DEFINITION. What one module fixes, and the free values: opaque constants without a body, so that nothing can be
proved about the value they give. Log entries 3 and 4. -/

namespace Sys2Proof.Config

/-- Free value: the byte that the `n`-th read of an unwritten byte yields (R31, R268, R282). -/
opaque freeByte : Nat → BitVec 8

/-- Free value: a word that the `n`-th open choice yields, for what a non-coherent or MMIO load returns. -/
opaque freeWord : Nat → BitVec 64

/-- Free value: a key or a team instance number that the on-die random source draws (R31, R266, R269). -/
opaque freeDraw : Nat → Nat

/-- Free value: the key that the on-die random source draws for a context, whose number it is given (R266, R269). -/
opaque freeKey : Nat → BitVec 512

/-- The SECDED check bits of 16 bytes (R361). -/
opaque secded : List (BitVec 8) → BitVec 9

/-- The 128-bit check of a flit's header fields and payload (R364). -/
opaque flitCheck : List Nat → List (BitVec 8) → BitVec 128

/-- SHA-256 of a byte string (R284, R286). -/
opaque sha256 : List (BitVec 8) → BitVec 256

/-- The SLH-DSA-SHA2-256s signature of a byte string under the module's identity key, 29,792 bytes (R286). -/
opaque identitySign : List (BitVec 8) → List (BitVec 8)

/-- The module's identity public key (R286). -/
opaque identityKey : BitVec 512

/-- The running firmware image with a security version (R284, R286). -/
opaque firmwareImage : Nat → List (BitVec 8)

/-- Dies of a module (R1). -/
def dies : Nat := 4

/-- Clusters of a module, four to a die (R2). -/
def clusters : Nat := 16

/-- Cores of one cluster (R2). -/
def coresPerCluster : Nat := 192

/-- Cores of a module (R1). -/
def cores : Nat := 3072

/-- Bytes of device HBM (R1, R358). -/
def hbmBytes : Nat := 384 * 2 ^ 30

/-- First byte of the firmware region (R358). -/
def firmwareBase : Nat := 0x5F00000000

/-- Entries of one capping store (R2). -/
def cappingEntries : Nat := 8192

/-- Entries of a cluster's TLB (R2). -/
def tlbEntries : Nat := 32768

/-- Lines of a core's 256 KiB L1 and of its 64 KiB instruction cache (R3). -/
def l1Lines : Nat := 2048
def codeLines : Nat := 512

/-- Accesses that one lane may have outstanding (R204). -/
def maxOutstanding : Nat := 32

/-- Lease length in ticks (R185). -/
def lease : Nat := 32

end Sys2Proof.Config
end

