-- ==== Sys2Proof/Machine/State.lean ====
section
/-! DEFINITION. The state of a Q880 module: everything that the manual names (R19 to R40 and the chapters after it), as
plain data. Registers and other things of many owners are sparse tables; an absent key has the value of R25. -/

namespace Sys2Proof.Machine

/-- A sparse table. -/
abbrev Tbl (κ α : Type) := List (κ × α)

/-- The entry of a key, or the default. -/
def Tbl.get {κ α : Type} [DecidableEq κ] (dflt : α) : Tbl κ α → κ → α
  | [], _ => dflt
  | (k, a) :: t, q => if k = q then a else Tbl.get dflt t q

/-- The entry of a key, if there is one. -/
def Tbl.find {κ α : Type} [DecidableEq κ] : Tbl κ α → κ → Option α
  | [], _ => none
  | (k, a) :: t, q => if k = q then some a else Tbl.find t q

/-- The table with an entry replaced or added. -/
def Tbl.set {κ α : Type} [DecidableEq κ] (q : κ) (x : α) : Tbl κ α → Tbl κ α
  | [] => [(q, x)]
  | (k, a) :: t => if k = q then (q, x) :: t else (k, a) :: Tbl.set q x t

/-- The table without the entries of a key. -/
def Tbl.del {κ α : Type} [DecidableEq κ] (q : κ) (t : Tbl κ α) : Tbl κ α := t.filter (fun e => e.1 ≠ q)

/-- Memory: bytes by location, sorted by location without repeats. An unlisted byte has not been written since its
owner received it, and reads as a free value (R31, R268). -/
abbrev Memory := List Host.Cell

/-- The canonical form of memory: locations strictly rise. -/
def Memory.wf : Memory → Bool
  | [] => true
  | [_] => true
  | a :: b :: t => a.1 < b.1 && Memory.wf (b :: t)

/-- A byte's place. HBM by physical address, host memory by PASID and address, a peer's memory by port and physical
address, scratchpad and accumulator storage by the placed team that holds them (R184). The firmware areas whose addresses
the manual does not give lie in spaces of their own (log entry 95): save images by team (R314), request rings by key id
(R281), the two copies of the launch journal (R323), the journals of the Preron cores by core (R328), and the spill areas
by key id (R293). -/
inductive Space where
  | hbm
  | host
  | peer
  | scratch
  | acc
  | save
  | ring
  | journal
  | preron
  | spill
  deriving DecidableEq, Repr

/-- The register classes (R23). -/
inductive RegClass where
  | v
  | s
  | p
  | d
  | w
  deriving DecidableEq, Repr

/-- One register of one owner; an s register belongs to its group and has lane 0. -/
structure RId where
  team : Nat
  cls : RegClass
  group : Nat
  lane : Nat
  num : Nat
  deriving DecidableEq, Repr

/-- A distribution register: eight values with eight weights, the tag and the sorted bit (R142). -/
structure DVal where
  atoms : List (W32 × H16)
  tag : H16
  sorted : Bool
  deriving DecidableEq, Repr

/-- The point mass at +0 (R25). -/
def DVal.zero : DVal := ⟨List.replicate 8 (0, 4096), 0, true⟩

/-- The classes of a window value (R165). -/
inductive WClass where
  | zero
  | fin
  | inf
  | nan
  deriving DecidableEq, Repr

/-- A variable-precision register (R165): the value is ± sig · 2^(exp − len + 1) with len significand bits, of which
valid are known; cap is the capacity in limbs that WCFG gave it. -/
structure WVal where
  neg : Bool
  cls : WClass
  exp : Int
  len : Nat
  valid : Nat
  sig : Nat
  cap : Nat
  deriving DecidableEq, Repr

/-- The value of R25: class zero, capacity 0. -/
def WVal.zero : WVal := ⟨false, .zero, 0, 0, 0, 0, 0⟩

/-- Full/empty bit and poison mark of a register (R24, R307). -/
structure Mark where
  full : Bool
  poison : Bool
  deriving DecidableEq, Repr

/-- One register write of a lane; s writes go to the lane's group. -/
inductive RegW where
  | v (n : Nat) (x : W32)
  | s (n : Nat) (x : D64)
  | p (n : Nat) (x : Bool)
  | d (n : Nat) (x : DVal)
  | w (n : Nat) (x : WVal)
  deriving DecidableEq, Repr

/-- Where a lane goes when its word is done: a clause word, or the branch-target trap (R45). -/
inductive Next where
  | go (hdr : D64) (k prio : Nat)
  | bad (target : D64)
  deriving DecidableEq, Repr

/-- A wait that outlives the issue of its word: SLEEP, BWAIT, BWAITT, LAUNCH's answer, and the hold of a window word with
TE set (R169, R255, R260, R264). Every other wait of R238 is a condition on the state, and holds no data. -/
inductive Wait where
  | none
  | sleep (till : Nat) (next : Next)
  | barrier (addr : D64) (token : Nat) (next : Next)
  | timed (addr : D64) (token till p : Nat) (next : Next)
  | launch (next : Next)
  | te (next : Next)
  deriving DecidableEq, Repr

/-- A lane of a placed team. -/
structure LaneId where
  team : Nat
  group : Nat
  lane : Nat
  deriving DecidableEq, Repr

/-- The state of one lane (R22, R27, R47, R64, R239, R249). `arrive` is the operation count of the machine when the lane
reached its clause header (R46), `since` the CLOCK when it reached its word (R253); `after` holds accesses of senders whose
values it took, each with the operation count from which on the lane's own stand behind it (R254). `flag` and `why` are the
waiting flag and the wait reason of the last save of its team or group (R317); otherwise the waiting flag of R22 is
`State.waiting`. -/
structure Lane where
  live : Bool
  hdr : D64
  k : Nat
  prio : Nat
  mark : Bool
  wait : Wait
  inHandler : Bool
  arrive : Nat
  since : Nat
  pts : Nat
  stack : List D64
  mode : W32
  prec : W32
  dctl : W32
  tcause : W32
  tpc : D64
  tval : D64
  after : List (Nat × Nat)
  flag : Bool
  why : Nat
  deriving DecidableEq, Repr

/-- A lane that does not exist or has not started. -/
def Lane.none : Lane :=
  { live := false, hdr := 0, k := 0, prio := 0, mark := false, wait := .none, inHandler := false, arrive := 0, since := 0,
    pts := 0, stack := [], mode := 0, prec := 0x40, dctl := 0, tcause := 0, tpc := 0, tval := 0, after := [],
    flag := false, why := 0 }

/-- A group of a placed team (R19, R20, R241, R261, R283, R321). `dbg` says that the debugger halts it, `brk` that it does so at a
BRK, which stops the runs and copies of the whole team (R141, R224). `off` is the CLOCK of its off-core save, and `loading` says
that its image is being read back, so that replies to it are held (R318, R351). `issued` is the CLOCK of the last word it issued,
`svcSince` that from which on every live lane of it has waited on service. -/
structure Group where
  role : Nat
  idx : Nat
  part : Nat
  slot : Nat
  joins : List D64
  dbg : Bool
  brk : Bool
  off : Option Nat
  loading : Bool := false
  issued : Nat
  svcSince : Option Nat
  deriving DecidableEq, Repr

/-- Where a placed team stands (R312 to R320): `named` by a pre-emption request that has not reached its core, `halting`
when it has, then SAVING, SAVED and RESTORING of R315, the last with whether a request named it meanwhile (R320). -/
inductive Phase where
  | resident
  | named
  | halting
  | saving
  | saved
  | restoring (named : Bool)
  deriving DecidableEq, Repr

/-- A placed team (R29, R31, R315). `since` is the CLOCK of its last start or restore, `savedAt` of its last save; `saveCore` and
`savePart` are CORE and the partition word as they were at that save, which its image keeps (R315). -/
structure Team where
  key : Nat
  jn : Nat
  lin : Nat
  core : Nat
  slot : Nat
  base : Nat
  rows : Nat
  part0 : Nat
  inst : Nat
  phase : Phase
  since : Nat
  savedAt : Nat
  saveCore : Nat := 0
  savePart : Nat := 0
  deriving DecidableEq, Repr

/-- The kernel header after the roundings of R32. -/
structure Header where
  width : Nat
  coRes : Bool
  restart : Bool
  roles : Bool
  groupsA : Nat
  groupsB : Nat
  vregsA : Nat
  vregsB : Nat
  sregs : Nat
  dregs : Nat
  wlimbs : Nat
  tiles : Nat
  tensors : Nat
  scratch : Nat
  acc : Nat
  stack : Nat
  lease : Nat
  shBase : Nat
  shCount : Nat
  patches : Nat
  patchOff : Nat
  first : Nat
  trap : Nat
  deriving DecidableEq, Repr

/-- The launch record (R226). -/
structure Record where
  kernel : D64
  gx : Nat
  gy : Nat
  gz : Nat
  plen : Nat
  paddr : D64
  status : D64
  prio : Nat
  dep : Bool
  tag : W32
  deriving DecidableEq, Repr

/-- Where a journal entry stands (R323), with the terminal code (R228). -/
inductive JState where
  | accepted
  | placing
  | terminal (code : Nat)
  | written (code : Nat)
  deriving DecidableEq, Repr

/-- An accepted launch: its journal entry, what acceptance read, and how far its teams are (R227, R228, R230, R231). `snap`,
`keys` and `root` are the memory, the keys of its lines and the page-table root as of acceptance, which instruction fetch
reads (R198), and `draw` the name of the context that it was accepted for. -/
structure Launch where
  key : Nat
  queue : Nat
  index : Nat
  record : Record
  hdr : Header
  patch : List (Nat × H16)
  snap : Memory
  keys : Tbl Nat Nat
  root : Nat
  ts : Nat
  dispatched : Nat
  state : JState
  draw : Nat := 0
  deriving DecidableEq, Repr

/-- A hardware launch queue (R225). -/
structure Queue where
  enable : Bool
  owner : Nat
  base : D64
  size : Nat
  wr : W32
  rd : W32
  deriving DecidableEq, Repr

/-- Tile states (R215). -/
inductive TileState where
  | empty
  | filling
  | ready
  | draining
  deriving DecidableEq, Repr

/-- An entry of the tile table (R214, R217). `rel` is a release that waits for the readers (R221). -/
structure Tile where
  fmt : Nat
  acc : Bool
  off : Nat
  rows : Nat
  cols : Nat
  state : TileState
  readers : Nat
  progress : Nat
  ovf : Bool
  failed : Bool
  rel : Bool
  deriving DecidableEq, Repr

/-- A tensor descriptor (R218). -/
structure Desc where
  base : D64
  ext : List Nat
  str : List Int
  box : List Nat
  deriving DecidableEq, Repr

/-- A tensor id (R219). -/
inductive Tensor where
  | unset
  | pending
  | valid (d : Desc)
  | invalid
  deriving DecidableEq, Repr

/-- What an atomic access at a barrier's home does (R256 to R260, R223, R262); `leave` is EXIT's drop where X is set (R250). -/
inductive BarOp where
  | init (expected : Nat) (x : Bool) (e : Nat)
  | update (n k : Nat) (din dout : Int)
  | test
  | fail
  | leave
  deriving DecidableEq, Repr

/-- What an access does at its home. -/
inductive AccOp where
  /-- LD forms: fill v registers from `d` on. -/
  | ld (d : Nat) (signed : Bool)
  | sld (d : Nat)
  | dld (d : Nat)
  | wld (d : Nat)
  | st (data : Nat)
  | atom (d fn : Nat) (b c : Nat)
  | prf
  | xlq (d : Nat)
  | cwb
  | cinv
  | svc (d code : Nat) (args : List W32) (pts : Nat)
  | launch (d q : Nat)
  | tset (x : Nat)
  | bar (d : Nat) (op : BarOp)
  | fetch (hdr : D64)
  | chunk (copy chunk : Nat) (store : Bool)
  | attn (run line : Nat)
  | accept (q : Nat)
  deriving DecidableEq, Repr

/-- Where an access stands. `core`: it has left its word and is not yet translated; `ats`: it waits for the host's
translation (R273); `ready`: it may be performed; `parked`: PARKED or REPORTED in the capping store (R290), `spilled` in
the spill area (R293); `returned`: sent back to the core (R294); `done`: performed, its answer on its way (R203). -/
inductive Stage where
  | core
  | ats
  | ready
  | parked
  | spilled
  | returned
  | done
  deriving DecidableEq, Repr

/-- One memory access in flight, and the fields of its capping store entry (R289). `lanes` are the lanes in whose
program order it stands, `page` the page it parked on, `locs` the pieces that are not yet performed (location and length),
`bytes` what it has read, `ts` its timestamp, `atCore` the CORE of its team when it parked, and `ringAt` its place in the ring of its
context's spill share while it is spilled (R293). -/
structure Access where
  id : Nat
  key : Nat
  jn : Nat
  team : Nat
  group : Nat
  lanes : List Nat
  core : Nat
  kind : Nat
  op : AccOp
  va : D64
  size : Nat
  major : Nat
  fn : Nat
  ctl : W32
  stage : Stage
  page : D64
  locs : List (Nat × Nat)
  home : Nat
  port : Nat
  seq : Nat
  cause : Nat
  bytes : List Byte
  ts : Nat
  poison : Bool
  atCore : Nat := 0
  ringAt : Nat := 0
  deriving DecidableEq, Repr

/-- The matrix and accumulator runs (R120 to R137). -/
inductive RunKind where
  | mma
  | mloop
  | mloops
  | attn
  | hadq
  | qnt
  | accz
  | accrd
  | accwr
  deriving DecidableEq, Repr

/-- A run (R120): its tiles, flags and captured parameters. `pos` counts its completed steps of `total`. An attention run
keeps the key blocks asked for and consumed, the lines that have arrived, and its cause sets as bit masks; its sums are in
its workspace in accumulator storage (R135, R136). -/
structure Run where
  id : Nat
  team : Nat
  group : Nat
  kind : RunKind
  c : Nat
  a : Nat
  b : Nat
  f : Nat
  par : List D64
  pos : Nat
  total : Nat
  ts : Nat
  asked : List Nat
  eaten : List Nat
  lines : List (Nat × List Byte)
  causes : List Nat
  ovf : Bool
  deriving DecidableEq, Repr

/-- The data transfers of major 17 (R220). -/
inductive CopyKind where
  | inn
  | out
  | tt
  | gather
  deriving DecidableEq, Repr

/-- A copy (R220 to R224): the captured descriptor and quad, a gather's indices once read, the chunks sent and those
landed and counted, the bytes landed, and whether it is to fail. -/
structure Copy where
  id : Nat
  team : Nat
  group : Nat
  kind : CopyKind
  tile : Nat
  idx : Nat
  desc : Desc
  quad : List D64
  index : Option (List Nat)
  count : Bool
  rel : Bool
  ts : Nat
  sent : List Nat
  landed : List Nat
  done : Nat
  failed : Bool
  deriving DecidableEq, Repr

/-- A distribution or window word whose result is not yet written (R144, R170): its writes and the flags it merges into
DCTL and PREC (R86). `te` says that its lane is held at the word, and `trap` is then the TVAL of the trap 7 that the result
raises (R169). `word`, `prec` and `srcs` are then the word, the PREC that it captured and the values of its sources, which its team's
image records (R180). -/
structure Pend where
  id : Nat
  team : Nat
  group : Nat
  lane : Nat
  window : Bool
  writes : List RegW
  dflags : W32
  pflags : W32
  te : Bool := false
  trap : Option D64 := none
  word : W32 := 0
  prec : W32 := 0
  srcs : List RegW := []
  deriving DecidableEq, Repr

/-- A valid leaf, as the TLB holds it (R271, R272). `base` is the physical address of the 4 KiB that the key names. -/
structure Trans where
  home : Nat
  port : Nat
  base : Nat
  size : Nat
  perm : Perm
  deriving DecidableEq, Repr

/-- wts and rts (R185). -/
structure Stamp where
  wts : Nat
  rts : Nat
  deriving DecidableEq, Repr

/-- An L1 copy of one 4-byte word, with the key under which it was fetched (R185, R188, R191, R268). -/
structure L1Copy where
  stamp : Stamp
  version : Nat
  draw : Nat
  bytes : List Byte
  deriving DecidableEq, Repr

/-- The encodings of a line in a slice (R361), codes 0 to 5. -/
inductive LineEnc where
  | plain
  | zero
  | base64d8
  | base64d16
  | base64d24
  | base32d8
  deriving DecidableEq, Repr

/-- A tag of a slice (R361): the line that it names, the key id under which the slice holds it, its state (dirty or clean),
its encoding, the data entry and half that hold its stored bytes, none for an all-zero line, and the check bits that the
stored bytes carry, for every 16 of them. -/
structure L2Tag where
  line : Nat
  key : Nat
  dirty : Bool
  enc : LineEnc
  way : Option (Nat × Nat)
  check : List (BitVec 9)
  deriving DecidableEq, Repr

/-- One of the 384 sets of a slice: its tags, at most 32, and the tree bits of the pseudo-LRU choice among its 16 data
entries (R361). -/
structure L2Set where
  tags : List L2Tag
  plru : Nat
  deriving DecidableEq, Repr

/-- The classification of a page of device HBM (R189, R190). `cts` is the time of a private page's last access, and a floor under the
stamps of the words of any page to which a migration moved data (R197). -/
structure Page where
  owner : Option Nat
  shared : Bool
  cts : Nat
  version : Nat
  deriving DecidableEq, Repr

/-- A line in a core's instruction cache, tagged with its launch (R36). -/
structure ILine where
  core : Nat
  jn : Nat
  line : D64
  words : List W32
  deriving DecidableEq, Repr

/-- A page that a cluster has parked requests on (R295): in the open window, or delivered at a CLOCK. -/
structure PageKey where
  key : Nat
  page : D64
  reported : Bool
  seen : Nat
  deriving DecidableEq, Repr

/-- A cluster scheduler and its translation unit (R232, R233, R236, R289, R295). `asking` is the victim that its forager asks,
`shipped` what that victim sent, `round` how many victims it has asked in this round. -/
structure Cluster where
  tcbs : List (Nat × Nat)
  asking : Option Nat
  shipped : List (Nat × Nat)
  round : Nat
  retryAt : Nat
  parkSeq : Nat
  batchSeq : Nat
  window : Option Nat
  pages : List PageKey
  deriving DecidableEq, Repr

/-- A cluster with nothing to do. -/
def Cluster.idle : Cluster := ⟨[], none, [], 0, 0, 0, 0, none, []⟩

/-- A core (R127, R187, R241, R262, R324, R325). `hold` is the run that holds the matrix pair, with the steps of its lease;
`checked` is the last 1,024-cycle unit whose watchdog check was made. `aged` is the time that any lane of the core has reached by
ticks, however seldom it makes an access (R187). -/
structure Core where
  failed : Bool
  retired : List Nat
  ptrs : List Nat
  fifo : List Nat
  hold : Option (Nat × Nat)
  floor : Nat
  checked : Nat
  aged : Nat
  deriving DecidableEq, Repr

/-- A core after reset: the pointers name slot 0 (R241). -/
def Core.idle : Core := ⟨false, [], [0, 0, 0, 0], [], none, 0, 0, 0⟩

/-- A service request in a context's ring (R281), CORE of the issuing team among its fields; `reply` is firmware's answer,
not yet written. -/
structure Req where
  seq : Nat
  code : Nat
  team : Nat
  group : Nat
  lane : Nat
  d : Nat
  args : List W32
  pts : Nat
  core : Nat
  issued : Nat
  reply : Option (W32 × W32)
  ts : Nat
  deriving DecidableEq, Repr

/-- A context (R266). `hbmKey` is its key, a free value, and `draw` the model's name of it; `granted` are the ranges
that PAGEMAP granted, with the permissions of each, and `held` says that CKPT holds it (R354). -/
structure Ctx where
  key : Nat
  draw : Nat
  hbmKey : BitVec 512
  root : Nat
  pasid : Option Nat
  quota : Nat
  spill : Nat
  ring : Nat
  log : D64
  logCap : Nat
  logged : Nat
  dropped : Nat
  wins : List (D64 × Nat)
  peers : List (Nat × Nat × Nat)
  heap : List (Nat × Nat)
  granted : List (D64 × Nat × Perm)
  reqs : List Req
  nextSeq : Nat
  held : Bool
  dbg : Bool
  deriving DecidableEq, Repr

/-- A Gidon Link port (R327, R364). `nak` is the sequence number that the receiver lacks and has named in a NAK, `acked` the
number up to which the peer has acknowledged, `counted` the barriers on which copies of the peer have counted bytes of a phase
that is not complete (R327, R329). -/
structure Port where
  enabled : Bool
  up : Bool
  lanes : Nat
  sendSeq : Nat
  recvSeq : Nat
  replay : List Nat
  resend : List Nat
  nak : Option Nat
  acked : Nat
  counted : List Nat
  deriving DecidableEq, Repr

/-- A port after power-good: no lane trained, nothing in flight. -/
def Port.idle : Port := ⟨false, false, 0, 0, 0, [], [], none, 0, []⟩

/-- The state field of STATUS (R368). -/
inductive BoardState where
  | reset
  | recovery
  | ready
  | failed
  deriving DecidableEq, Repr

/-- The host link (R309, R363). -/
inductive Link where
  | up
  | down (since : Nat)
  | lost
  deriving DecidableEq, Repr

/-- What boot flash holds (R284 to R286): the image, the configuration record with its signature, whether the record's own
check passes, the units it enables (disabled ones are listed), and the certificate that binds the identity key to the
serial number. -/
structure Flash where
  image : FwImage
  confOk : Bool
  confVersion : Nat
  serial : D64
  sku : W32
  mhz : Nat
  coresOff : List Nat
  slicesOff : List Nat
  preronOff : List Nat
  portsOff : List Nat
  confSig : List Byte
  cert : List Byte
  deriving DecidableEq, Repr

/-- What a Preron core's rings have journalled under key id 0 (R328): the number of mailbox entries and of service requests that have
been served from them, by the core itself or by the one that took them over, and the cores whose rings it has taken over. -/
structure Preron where
  mailPos : Nat
  ringPos : Nat
  taken : List Nat
  deriving DecidableEq, Repr

/-- The board side of the module (R284, R305, R309, R326, R328, R365 to R370). `staged` is what was written to the mailbox while a
command is in service, `later` the ATTESTs that were submitted meanwhile, and `now` the one of these that is in service, while the
mailbox holds the answer before it. -/
structure Board where
  state : BoardState
  throttled : Bool
  degraded : Bool
  diesOn : List Nat
  temp : Nat
  power : Nat
  cap : Nat
  mhz : Nat
  mbdb : Bool
  mailbox : List (Nat × Byte)
  staged : List (Nat × Byte)
  later : List (List (Nat × Byte))
  now : Option (List (Nat × Byte))
  corrected : List Nat
  uncorrected : List Nat
  link : Link
  flash : Flash
  fused : Nat
  running : Nat
  preronFailed : List Nat
  prerons : Tbl Nat Preron
  sliceMap : List (Nat × Nat)
  clocksOff : Bool
  powered : Bool
  deriving DecidableEq, Repr

/-- What leaves the module: data for firmware rings, the host and the peers. -/
inductive Sent where
  | batch (preron : Nat) (bytes : List Byte)
  | listing (bytes : List Byte)
  | mmio (addr : Nat) (bytes : List Byte)
  | hostRead (bytes : List Byte)
  | hostOutside (addr : D64)
  | hostCall (key seq : Nat) (args : List W32)
  | priRequest (key : Nat) (page : D64)
  | peerAnswer (port : Nat) (bytes : List Byte)
  | peerRefused (port : Nat)
  | peerAway (port : Nat) (bar : D64)
  | peerCount (port : Nat) (bar : D64) (n : Nat)
  | peerFail (port : Nat) (bar : D64)
  | ignored (bytes : List Byte)
  | nak (port seq : Nat)
  | resent (port seq : Nat)
  | resetNotice (port : Nat)
  | report (bytes : List Byte)
  deriving DecidableEq, Repr

/-- A flit of a Gidon Link (R364): the sequence number, acknowledgement, virtual channel and type of its header, its 224 payload
bytes, and its check. -/
structure Flit where
  seq : Nat
  ack : Nat
  channel : Nat
  type : Nat
  payload : List Byte
  check : BitVec 128
  deriving DecidableEq, Repr

/-- One thing that the environment does next: a row of the opcode table happens; an agent outside the module writes host or
peer memory, coherently (`outside`) or as a non-coherent I/O agent (`bypass`, R212); time passes; firmware answers a cluster
through its mailbox, with the table writes it has made (R297); a flit comes in that asks for something (R364); a peer refuses an
access (R275) or answers that the slot which a copy counts on holds no team (R223); or an error is corrected: in HBM of a die (R362), of a line in an instruction cache (R303), of a copy in an L1
(R305). -/
inductive Act where
  | happen (i : Instr)
  | outside (cells : List Host.Cell)
  | bypass (cells : List Host.Cell)
  | pass (cycles : Nat)
  | mail (command : List Byte) (tables : List (Nat × D64))
  | flit (port : Nat) (f : Flit) (i : Instr)
  | refuse (acc : Nat)
  | gone (copy : Nat)
  | corrected (die : Nat)
  | codeError (core jn : Nat) (line : D64)
  | copyError (core word : Nat)
  deriving DecidableEq, Repr

/-- The issue opportunity that a word is executed for (R61, R238): the team and group, the lanes of the chosen entry,
its header address, the word's index k of N, the entry's priority, and the word itself. -/
structure Sel where
  team : Nat
  group : Nat
  lanes : List Nat
  hdr : D64
  k : Nat
  n : Nat
  prio : Nat
  word : W32
  deriving DecidableEq, Repr

/-- No issue opportunity. -/
def Sel.none : Sel := ⟨0, 0, [], 0, 0, 0, 0, 0⟩

/-- The machine. -/
structure State where
  -- registers
  v : Tbl RId W32
  s : Tbl RId D64
  p : Tbl RId Bool
  d : Tbl RId DVal
  w : Tbl RId WVal
  marks : Tbl RId Mark
  rstamps : Tbl RId Stamp
  sent : Tbl RId (LaneId × List Nat)
  -- lanes, groups, teams
  lanes : Tbl LaneId Lane
  groups : Tbl (Nat × Nat) Group
  teams : Tbl Nat Team
  tiles : Tbl (Nat × Nat) Tile
  tensors : Tbl (Nat × Nat) Tensor
  watch : Tbl Nat (List D64)
  -- work in flight
  accs : List Access
  runs : List Run
  copies : List Copy
  pend : List Pend
  delayed : List Access
  -- memory
  mem : Memory
  lineKey : Tbl Nat Nat
  poison : List Nat
  stamps : Tbl Nat Stamp
  copies1 : Tbl (Nat × Nat) L1Copy
  pages : Tbl Nat Page
  deleg : Tbl Nat Nat
  dirty : Tbl Nat (Nat × D64 × Nat)
  proxy : Tbl Nat Memory
  absent : Tbl Nat Nat
  l2 : Tbl (Nat × Nat) L2Set
  invals : List (Nat × Nat × Nat)
  floors : Tbl Nat Nat
  tlb : Tbl (Nat × Nat × D64) Trans
  ats : Tbl (Nat × D64) Perm
  pri : List (Nat × Nat × D64)
  icache : List ILine
  -- launching
  queues : Tbl Nat Queue
  levels : Tbl Nat Nat
  launches : Tbl Nat Launch
  clusters : Tbl Nat Cluster
  cores : Tbl Nat Core
  -- contexts
  ctxs : Tbl Nat Ctx
  -- the board
  board : Board
  ports : Tbl Nat Port
  clock : Nat
  ticks : Nat
  -- the model's own
  sel : Sel
  agenda : List Act
  turn : Nat
  fresh : Nat
  nextId : Nat
  maxTs : Nat
  outbox : List Sent
  deriving DecidableEq, Repr

/-- A queue at reset (R225). -/
def Queue.idle : Queue := ⟨false, 0, 0, 0, 0, 0⟩

/-- The board after power-good (R367, R368): STATUS 0. Log entry 7 names the values that the manual does not give. -/
def Board.reset : Board :=
  { state := .reset, throttled := false, degraded := false, diesOn := [], temp := 0, power := 0, cap := 1800, mhz := 1000,
    mbdb := false, mailbox := [], staged := [], later := [], now := none, corrected := [0, 0, 0, 0], uncorrected := [0, 0, 0, 0], link := .up,
    flash := { image := ⟨0, true, false⟩, confOk := true, confVersion := 0, serial := 0, sku := 0, mhz := 1000,
               coresOff := [], slicesOff := [], preronOff := [], portsOff := [], confSig := [], cert := [] },
    fused := 0, running := 0, preronFailed := [], prerons := [], sliceMap := [], clocksOff := false, powered := true }

/-- The machine right after power-good: no context, no launch, no team, every queue disabled, no page or line held, and
every table empty, so that a register that is named later holds the value of R25. -/
def State.reset : State :=
  { v := [], s := [], p := [], d := [], w := [], marks := [], rstamps := [], sent := [],
    lanes := [], groups := [], teams := [], tiles := [], tensors := [], watch := [],
    accs := [], runs := [], copies := [], pend := [], delayed := [],
    mem := [], lineKey := [], poison := [], stamps := [], copies1 := [], pages := [], deleg := [], dirty := [],
    proxy := [], absent := [], l2 := [], invals := [], floors := [], tlb := [], ats := [], pri := [], icache := [],
    queues := [], levels := [], launches := [], clusters := [], cores := [], ctxs := [],
    board := Board.reset, ports := [], clock := 0, ticks := 0,
    sel := Sel.none, agenda := [], turn := 0, fresh := 0, nextId := 0, maxTs := 0, outbox := [] }

/-- Why the machine would stop. No rule of the manual stops the machine: a lane that cannot go on traps, a context that
cannot go on ends, and the module runs on (R63, R267). Nothing raises this; it is kept so that the type is closed. -/
inductive Fault where
  /-- Raised by no meaning: compute power is off, and a step was asked of the compute dies (R366). Safe. -/
  | noPower
  deriving DecidableEq, Repr

/-- Why an instruction has no meaning. -/
inductive Refusal where
  /-- Raised by the dispatch for an instruction that the model does not give a meaning: safe, nothing is claimed of it. -/
  | notModelled (mnemonic : String)
  deriving DecidableEq, Repr

end Sys2Proof.Machine
end

