-- ==== Sys2Proof/Machine/Bits.lean ====
section
/-! DEFINITION. Byte and bit helpers: little-endian bytes (R12), sign extension, field reads, small list helpers. -/

namespace Sys2Proof.Machine

/-- The `n` little-endian bytes of a number (R12). -/
def leBytes : Nat → Nat → List Byte
  | 0, _ => []
  | n + 1, x => BitVec.ofNat 8 x :: leBytes n (x / 256)

/-- The number that little-endian bytes hold (R12). -/
def ofLe : List Byte → Nat
  | [] => 0
  | b :: t => b.toNat + 256 * ofLe t

/-- `n` bits of `x` from bit `lo` on. -/
def bits (x lo n : Nat) : Nat := x / 2 ^ lo % 2 ^ n

/-- Bit `i` of a number. -/
def bitOf (x i : Nat) : Bool := x.testBit i

/-- The number whose bit is set when `b`. -/
def b2n (b : Bool) : Nat := if b then 1 else 0

/-- The integer that `n` bits denote in two's complement. -/
def sext (n x : Nat) : Int := if 2 * (x % 2 ^ n) ≥ 2 ^ n then (x % 2 ^ n : Int) - 2 ^ n else (x % 2 ^ n : Int)

/-- An integer as `n` bits of two's complement. -/
def wrapTo (n : Nat) (x : Int) : Nat := (x % 2 ^ n).toNat

/-- The 4-byte piece of a byte list at `off`, as a number. -/
def leAt (b : List Byte) (off n : Nat) : Nat := ofLe ((b.drop off).take n)

/-- `x` rounded up to a multiple of `m`. -/
def roundUp (x m : Nat) : Nat := (x + m - 1) / m * m

/-- The set bits below `n` of a number, ascending. -/
def bitList (n x : Nat) : List Nat := (List.range n).filter (fun i => x.testBit i)

/-- The mask with the named bits set. -/
def maskOf (l : List Nat) : Nat := l.foldl (fun m i => m ||| 2 ^ i) 0

/-- The least element of a list by a key, the first of equals. -/
def minBy {α : Type} (f : α → Nat) : List α → Option α
  | [] => none
  | a :: t =>
    match minBy f t with
    | none => some a
    | some b => if f b < f a then some b else some a

/-- Insertion by a strict order, after equals. -/
def insertBy {α : Type} (lt : α → α → Bool) (x : α) : List α → List α
  | [] => [x]
  | a :: t => if lt x a then x :: a :: t else a :: insertBy lt x t

/-- A list sorted by a strict order, stable. -/
def sortBy {α : Type} (lt : α → α → Bool) (l : List α) : List α :=
  l.foldl (fun acc x => insertBy lt x acc) []

/-- A list without later repeats. -/
def nub {α : Type} [DecidableEq α] (l : List α) : List α :=
  l.foldl (fun acc x => if x ∈ acc then acc else acc ++ [x]) []

end Sys2Proof.Machine
end

