-- ==== Sys2Proof/Machine/Mem.lean ====
section
/-! DEFINITION. Memory as bytes by location (R12, R184, R268), and the walk of a context's page tables (R270, R271). -/

namespace Sys2Proof.Machine

/-- The byte at a location, if one was written. -/
def Memory.get : Memory → Nat → Option Byte
  | [], _ => none
  | (a, b) :: t, q => if a = q then some b else if q < a then none else Memory.get t q

/-- The memory with one byte written; the list stays sorted. -/
def Memory.put : Memory → Nat → Byte → Memory
  | [], q, x => [(q, x)]
  | (a, b) :: t, q, x =>
    if a = q then (q, x) :: t else if q < a then (q, x) :: (a, b) :: t else (a, b) :: Memory.put t q x

/-- Consecutive bytes written from a location on. -/
def Memory.putN : Memory → Nat → List Byte → Memory
  | m, _, [] => m
  | m, q, x :: t => Memory.putN (m.put q x) (q + 1) t

/-- A run of bytes in place of all that a stretch of locations held. -/
def Memory.splice (m : Memory) (q : Nat) (bs : List Byte) : Memory :=
  m.filter (fun c => c.1 < q) ++ bs.mapIdx (fun i b => (q + i, b)) ++ m.filter (fun c => q + bs.length ≤ c.1)

/-- The memory without the bytes of the locations that `drop` names. -/
def Memory.forget (m : Memory) (drop : Nat → Bool) : Memory := m.filter (fun c => !drop c.1)

/-- The number of a space. -/
def Space.tag : Space → Nat
  | .hbm => 0
  | .host => 1
  | .peer => 2
  | .scratch => 3
  | .acc => 4
  | .save => 5
  | .ring => 6
  | .journal => 7
  | .preron => 8
  | .spill => 9

/-- The location of byte `off` of a space; `sub` is the PASID, the port or the placed team, 0 for HBM. -/
def loc (sp : Space) (sub off : Nat) : Nat := (sp.tag * 2 ^ 40 + sub) * 2 ^ 64 + off

/-- The location of an HBM byte is its physical address. -/
def hbmLoc (pa : Nat) : Nat := loc .hbm 0 pa

/-- Whether a location lies in device HBM. -/
def isHbm (a : Nat) : Bool := a < 2 ^ 64

/-- Whether a location lies in a space. -/
def inSpace (sp : Space) (a : Nat) : Bool := a / 2 ^ 104 = sp.tag

/-- The line, the word and the page frame of a location (R183, R188, R270). -/
def lineOf (a : Nat) : Nat := a / 128
def wordOf (a : Nat) : Nat := a / 4
def frameOf (a : Nat) : Nat := a / 4096

/-- A page-table entry: 8 bytes of the firmware region, zero where nothing is written (R270). -/
def pteAt (m : Memory) (pa : Nat) : Nat := ofLe ((List.range 8).map (fun i => (m.get (hbmLoc (pa + i))).getD 0))

/-- The fields that a valid entry must have (R271): V set, reserved bits clear. -/
def pteSane (e : Nat) : Bool := bitOf e 0 && bits e 60 4 = 0 && bits e 10 2 = 0 && bits e 7 1 = 0

/-- The address field of an entry. -/
def pteAddr (e : Nat) : Nat := bits e 12 44 * 4096

/-- A table entry: leaf, home, port, size and permissions zero. Tables lie in the firmware region, where no address of a program
leads (R270, R358); an entry that names another place leads to no table (log entry 106). -/
def pteTable (e : Nat) : Bool :=
  pteSane e && bits e 4 1 = 0 && bits e 8 2 = 0 && bits e 56 4 = 0 && bits e 1 3 = 0 && bits e 5 2 = 0 &&
    Config.firmwareBase ≤ pteAddr e && pteAddr e + 4096 ≤ Config.hbmBytes

/-- A leaf of a page of `lg` bits: legal home and port, no address bits below the page size, none at all for home 1, and
for home 0 no page of the firmware region, which no context is given (R271, R358). -/
def pteLeaf (e lg : Nat) : Bool :=
  pteSane e && bits e 4 1 = 1 &&
    (if bits e 8 2 = 2 then bits e 56 4 ≤ 11 else bits e 56 4 = 0) &&
    (if bits e 8 2 = 1 then pteAddr e = 0 else pteAddr e % 2 ^ lg = 0) &&
    (bits e 8 2 ≠ 0 || pteAddr e + 2 ^ lg ≤ Config.firmwareBase)

/-- Whether the sixteen entries of a 64 KiB page, which lie aligned in one table, agree (R270). -/
def sixteenAgree (m : Memory) (table va : Nat) : Bool :=
  let first := table + 8 * (bits va 16 5 * 16)
  (List.range 16).all (fun i => pteAt m (first + 8 * i) = pteAt m first)

/-- The translation that a leaf of a page of `lg` bits gives for the 4 KiB that hold `va`. -/
def leafTrans (e lg szc va : Nat) : Trans :=
  { home := bits e 8 2, port := bits e 56 4,
    base := if bits e 8 2 = 1 then va / 4096 * 4096 else pteAddr e + va % 2 ^ lg / 4096 * 4096,
    size := szc,
    perm := { r := bitOf e 1, w := bitOf e 2, x := bitOf e 3 } }

/-- The walk of R270 over the tables in `m`, for an ordinary virtual address; none is cause bit 0 of R287. -/
def walk (m : Memory) (root : Nat) (a : D64) : Option Trans :=
  let va := a.toNat
  let e3 := pteAt m (root + 8 * bits va 39 17)
  if !pteTable e3 then none else
  let e2 := pteAt m (pteAddr e3 + 8 * bits va 30 9)
  if bits e2 4 1 = 1 then (if pteLeaf e2 30 && bits e2 5 2 = 0 then some (leafTrans e2 30 3 va) else none)
  else if !pteTable e2 then none else
  let e1 := pteAt m (pteAddr e2 + 8 * bits va 21 9)
  if bits e1 4 1 = 1 then (if pteLeaf e1 21 && bits e1 5 2 = 0 then some (leafTrans e1 21 2 va) else none)
  else if !pteTable e1 then none else
  let e0 := pteAt m (pteAddr e1 + 8 * bits va 12 9)
  if bits e0 5 2 = 0 then (if pteLeaf e0 12 then some (leafTrans e0 12 0 va) else none)
  else if bits e0 5 2 = 1 then
    (if pteLeaf e0 16 && sixteenAgree m (pteAddr e1) va then some (leafTrans e0 16 1 va) else none)
  else none

/-- The physical addresses of the entries of a table of `n` entries that are written and valid: V stands in their first byte. -/
def entriesIn (m : Memory) (base n : Nat) : List Nat :=
  (m.filter (fun x => base ≤ x.1 && x.1 < base + 8 * n && (x.1 - base) % 8 = 0)).map (·.1)

/-- The tables that the valid table entries among some entries name. -/
def tablesAt (m : Memory) (es : List Nat) : List Nat :=
  es.filterMap (fun x => if pteTable (pteAt m x) then some (pteAddr (pteAt m x)) else none)

/-- The tables of levels 2, 1 and 0 under a root. -/
def levelTables (m : Memory) (root : Nat) : List Nat × List Nat × List Nat :=
  let l2 := tablesAt m (entriesIn m root 131072)
  let l1 := tablesAt m (l2.flatMap (fun b => entriesIn m b 512))
  (l2, l1, tablesAt m (l1.flatMap (fun b => entriesIn m b 512)))

/-- The run of device page frames that a leaf of a page of `lg` bits maps, if it is a home-0 leaf. -/
def leafRun (m : Memory) (lg szc pa : Nat) : Option (Nat × Nat) :=
  let e := pteAt m pa
  if pteLeaf e lg && bits e 5 2 = szc && bits e 8 2 = 0 then some (pteAddr e / 4096, 2 ^ lg / 4096) else none

/-- The runs of device page frames, as first frame and number, that the tables under a root map. -/
def mappedRuns (m : Memory) (root : Nat) : List (Nat × Nat) :=
  let ts := levelTables m root
  (ts.1.flatMap (fun b => entriesIn m b 512)).filterMap (leafRun m 30 0) ++
    (ts.2.1.flatMap (fun b => entriesIn m b 512)).filterMap (leafRun m 21 0) ++
    (ts.2.2.flatMap (fun b => entriesIn m b 512)).filterMap (leafRun m 12 0) ++
    (ts.2.2.flatMap (fun b => entriesIn m b 512)).filterMap (leafRun m 16 1)

/-- Whether a frame lies in one of the runs, and whether two lists of runs have a frame in common. -/
def inRuns (l : List (Nat × Nat)) (f : Nat) : Bool := l.any (fun r => r.1 ≤ f && f < r.1 + r.2)
def runsMeet (l k : List (Nat × Nat)) : Bool := l.any (fun r => k.any (fun q => r.1 < q.1 + q.2 && q.1 < r.1 + r.2))

/-- Table entries written by firmware, each 8 bytes at a physical address of the firmware region (R270). -/
def writeTables (m : Memory) (ws : List (Nat × D64)) : Memory :=
  ws.foldl (fun m w => m.putN (hbmLoc w.1) (leBytes 8 w.2.toNat)) m

/-- The virtual spaces of R37. -/
inductive VSpace where
  | ordinary
  | own
  | cluster
  | regs
  | reserved
  deriving DecidableEq, Repr

/-- The space that an address decodes to (R37). -/
def vspace (a : D64) : VSpace :=
  let h := bits a.toNat 48 16
  if h ≤ 0xFF then .ordinary
  else if h = 0xFF00 then .own
  else if h = 0xFF01 then .cluster
  else if h = 0xFF02 then .regs
  else .reserved

/-- The 4 KiB page that holds an address. -/
def pageOf (a : D64) : D64 := BitVec.ofNat 64 (a.toNat / 4096 * 4096)

/-- The pages that `n` bytes from `a` touch. -/
def pagesOf (a : D64) (n : Nat) : List D64 :=
  let l := pageOf a
  let h := pageOf (a + BitVec.ofNat 64 (n - 1))
  if l = h then [l] else [l, h]

end Sys2Proof.Machine
end

