-- ==== Sys2Proof/Machine/Regs.lean ====
section
/-! DEFINITION. Reads and writes of registers, lanes, groups and teams: the one place where p0, the shared range and the
full and poison marks are treated (R20, R23 to R26, R307). -/

namespace Sys2Proof.Machine

/-- A header with nothing declared, for a team without a launch. -/
def Header.none : Header :=
  { width := 8, coRes := false, restart := false, roles := false, groupsA := 1, groupsB := 0, vregsA := 0, vregsB := 0,
    sregs := 0, dregs := 0, wlimbs := 0, tiles := 0, tensors := 0, scratch := 0, acc := 0, stack := 0, lease := 256,
    shBase := 0, shCount := 0, patches := 0, patchOff := 0, first := 64, trap := 0 }

/-- A team that is not placed. -/
def Team.none : Team :=
  { key := 0, jn := 0, lin := 0, core := 0, slot := 0, base := 0, rows := 0, part0 := 0, inst := 0, phase := .saved,
    since := 0, savedAt := 0, saveCore := 0, savePart := 0 }

/-- A group that is not placed. -/
def Group.none : Group :=
  { role := 0, idx := 0, part := 0, slot := 0, joins := [], dbg := false, brk := false, off := Option.none, loading := false,
    issued := 0, svcSince := Option.none }

/-- Whether lanes, runs and copies of a team go on: it is resident, and no pre-emption request has reached its core (R244). -/
def Team.runs (t : Team) : Bool := t.phase = .resident || t.phase = .named

/-- The team with a number. -/
def State.team (s : State) (t : Nat) : Team := s.teams.get Team.none t

/-- The group with an ordinal in a team. -/
def State.group (s : State) (t g : Nat) : Group := s.groups.get Group.none (t, g)

/-- A lane. -/
def State.lane (s : State) (L : LaneId) : Lane := s.lanes.get Lane.none L

/-- The state with one lane replaced. -/
def State.setLane (s : State) (L : LaneId) (x : Lane) : State := { s with lanes := s.lanes.set L x }

/-- The state with one group replaced. -/
def State.setGroup (s : State) (t g : Nat) (x : Group) : State := { s with groups := s.groups.set (t, g) x }

/-- The state with one team replaced. -/
def State.setTeam (s : State) (t : Nat) (x : Team) : State := { s with teams := s.teams.set t x }

/-- The kernel header of a team's launch. -/
def State.hdr (s : State) (t : Nat) : Header :=
  match s.launches.find (s.team t).jn with
  | some l => l.hdr
  | none => Header.none

/-- Groups of a team, both roles (R20). -/
def Header.groups (h : Header) : Nat := h.groupsA + h.groupsB

/-- Whether a group ordinal is a consumer's (R20). -/
def Header.consumer (h : Header) (g : Nat) : Bool := h.roles && h.groupsA ≤ g

/-- Usable v registers of a group (R23, R33). -/
def Header.vregs (h : Header) (g : Nat) : Nat := if h.consumer g then h.vregsB else h.vregsA

/-- Whether a v register number lies in the shared range (R26). -/
def Header.shared (h : Header) (n : Nat) : Bool := h.roles && h.shBase ≤ n && n < h.shBase + h.shCount

/-- Usable registers of a class for a group (R23, R165: all w registers may be named). -/
def Header.count (h : Header) (g : Nat) : RegClass → Nat
  | .v => h.vregs g
  | .s => h.sregs
  | .p => 8
  | .d => h.dregs
  | .w => 32

/-- The register that a number names for a lane: a group's one s file, and the producer's register in the shared
range (R26). -/
def State.rid (s : State) (L : LaneId) (c : RegClass) (n : Nat) : RId :=
  match c with
  | .s => { team := L.team, cls := .s, group := L.group, lane := 0, num := n }
  | .v =>
    let h := s.hdr L.team
    if h.shared n && h.consumer L.group then
      { team := L.team, cls := .v, group := (L.group - h.groupsA) % h.groupsA, lane := L.lane, num := n }
    else { team := L.team, cls := .v, group := L.group, lane := L.lane, num := n }
  | c => { team := L.team, cls := c, group := L.group, lane := L.lane, num := n }

/-- The marks of a register: full and not poisoned unless the table says otherwise; p0 always so (R24, R25). -/
def State.mark (s : State) (r : RId) : Mark :=
  if r.cls = .p ∧ r.num = 0 then ⟨true, false⟩ else s.marks.get ⟨true, false⟩ r

/-- The state with a register's marks set. -/
def State.setMark (s : State) (r : RId) (m : Mark) : State := { s with marks := s.marks.set r m }

/-- The value of a v register. -/
def State.getV (s : State) (L : LaneId) (n : Nat) : W32 := s.v.get 0 (s.rid L .v n)

/-- The value of an s register. -/
def State.getS (s : State) (L : LaneId) (n : Nat) : D64 := s.s.get 0 (s.rid L .s n)

/-- The value of a p register; p0 reads true (R23). -/
def State.getP (s : State) (L : LaneId) (n : Nat) : Bool := if n = 0 then true else s.p.get false (s.rid L .p n)

/-- The value of a d register. -/
def State.getD (s : State) (L : LaneId) (n : Nat) : DVal := s.d.get DVal.zero (s.rid L .d n)

/-- The value of a w register. -/
def State.getW (s : State) (L : LaneId) (n : Nat) : WVal := s.w.get WVal.zero (s.rid L .w n)

/-- The 64-bit value of a pair of v registers (R23). -/
def State.getV2 (s : State) (L : LaneId) (n : Nat) : D64 := pair (s.getV L n) (s.getV L (n + 1))

/-- The class and number that a register write names. -/
def RegW.cls : RegW → RegClass
  | .v .. => .v
  | .s .. => .s
  | .p .. => .p
  | .d .. => .d
  | .w .. => .w
def RegW.num : RegW → Nat
  | .v n _ => n
  | .s n _ => n
  | .p n _ => n
  | .d n _ => n
  | .w n _ => n

/-- The value part of a register write; a write to p0 is discarded (R23). -/
def State.put (s : State) (L : LaneId) : RegW → State
  | .v n x => { s with v := s.v.set (s.rid L .v n) x }
  | .s n x => { s with s := s.s.set (s.rid L .s n) x }
  | .p n x => if n = 0 then s else { s with p := s.p.set (s.rid L .p n) x }
  | .d n x => { s with d := s.d.set (s.rid L .d n) x }
  | .w n x => { s with w := s.w.set (s.rid L .w n) x }

/-- A whole-register write by a lane's word: the register is full and carries no poison (R91, R307). -/
def State.write (s : State) (L : LaneId) (x : RegW) : State :=
  (s.put L x).setMark (s.rid L x.cls x.num) ⟨true, false⟩

/-- Several register writes, in order. -/
def State.writes (s : State) (L : LaneId) (xs : List RegW) : State := xs.foldl (fun s x => s.write L x) s

/-- The two halves of a 64-bit value for a pair of v registers. -/
def v2 (n : Nat) (x : D64) : List RegW := [.v n (lo32 x), .v (n + 1) (hi32 x)]

/-- A destination marked empty at issue (R24, R203). A poisoned register is full, so an empty one is not poisoned (R307). -/
def State.empty (s : State) (L : LaneId) (c : RegClass) (n : Nat) : State :=
  if c = .p ∧ n = 0 then s else s.setMark (s.rid L c n) ⟨false, false⟩

/-- The lanes of a group that are live, ascending (R21). -/
def State.liveLanes (s : State) (t g : Nat) : List Nat :=
  (List.range (s.hdr t).width).filter (fun i => (s.lane ⟨t, g, i⟩).live)

/-- A group has ended when none of its lanes is live (R21). -/
def State.groupLive (s : State) (t g : Nat) : Bool := (s.liveLanes t g).isEmpty = false

/-- A team has ended when none of its groups is live (R21). -/
def State.teamLive (s : State) (t : Nat) : Bool := (List.range (s.hdr t).groups).any (fun g => s.groupLive t g)

/-- The router of a die that serves a core of the model's number 768·die + 192·cluster + core, and its place among the three
cores of that router (R359): the inverse of `coreAt`. -/
def routerOf (core : Nat) : Nat :=
  let q := core % 192 / 3
  16 * (8 * (core / 192 % 4 / 2) + q / 8) + 8 * (core / 192 % 2) + q % 8

/-- The core that stands in place `j` of router `r` of a die, which is the die's core 3r + j (R359). -/
def coreAt (die r j : Nat) : Nat :=
  768 * die + 192 * (2 * b2n (8 ≤ r / 16) + b2n (8 ≤ r % 16)) + 3 * (8 * (r / 16 % 8) + r % 16 % 8) + j

/-- CORE of a team (R28): slot, die, cluster and core from the module's core number 768·die + 192·cluster + core. -/
def coreReg (core slot : Nat) : Nat := slot * 4096 + core / 768 * 1024 + core / 192 % 4 * 256 + core % 192

/-- CORE of a team (R28). -/
def State.coreOf (s : State) (t : Nat) : Nat := coreReg (s.team t).core (s.team t).slot

/-- The cluster of a core, 4·die + cluster. -/
def clusterOf (core : Nat) : Nat := core / 192

/-- The context with a key id. -/
def State.ctx (s : State) (k : Nat) : Option Ctx := s.ctxs.find k

/-- The state with a context replaced. -/
def State.setCtx (s : State) (c : Ctx) : State := { s with ctxs := s.ctxs.set c.key c }

/-- A core's state. -/
def State.core (s : State) (c : Nat) : Core := s.cores.get Core.idle c

/-- A cluster's state. -/
def State.cluster (s : State) (c : Nat) : Cluster := s.clusters.get Cluster.idle c

/-- The state with a core replaced. -/
def State.setCore (s : State) (c : Nat) (x : Core) : State := { s with cores := s.cores.set c x }

/-- The state with a cluster replaced. -/
def State.setCluster (s : State) (c : Nat) (x : Cluster) : State := { s with clusters := s.clusters.set c x }

/-- Whether a core is there: its die is on and boot flash enables it, and it has not failed (R285, R324). -/
def State.coreOn (s : State) (c : Nat) : Bool :=
  c < Config.cores && (c / 768) ∈ s.board.diesOn && !(c ∈ s.board.flash.coresOff) && !(s.core c).failed

/-- Clusters that have an enabled core, ascending. -/
def State.clustersOn (s : State) : List Nat :=
  (List.range Config.clusters).filter (fun c => (List.range 192).any (fun i => s.coreOn (192 * c + i)))

/-- The placed team on a core's slot, if any. -/
def State.teamAt (s : State) (core slot : Nat) : Option Nat :=
  (s.teams.find? (fun e => e.2.core = core && e.2.slot = slot && e.2.phase ≠ .saved && s.teamLive e.1)).map (fun e => e.1)

/-- The next unspecified bytes: `n` free values, and the counter past them (log entry 3). -/
def State.freeBytes (s : State) (n : Nat) : List Byte := (List.range n).map (fun i => Config.freeByte (s.fresh + i))

/-- The counter of free values past `n` uses. -/
def State.tick (s : State) (n : Nat) : State := { s with fresh := s.fresh + n }

end Sys2Proof.Machine
end

