-- ==== Sys2Proof/Machine/Slice.lean ====
section
/-! DEFINITION. Where lines lie (R358, R359), the device's copies of host lines (R184, R212), bytes under their keys (R268),
and what a slice holds: sets, tags, encodings and replacement (R361). -/

namespace Sys2Proof.Machine

/-! ### Dies, slices and sets (R326, R358, R359) -/

/-- The die beside whose stacks an HBM byte lies (R358). -/
def dieOfPa (pa : Nat) : Nat := bits pa 12 3 / 2

/-- The slice of a line's address, 512·die + slice, before any remapping (R358). A host line's proxy slice is the one that
the same formula gives for its host address (R184; log entry 89). -/
def sliceOf (pa : Nat) : Nat :=
  512 * dieOfPa pa + 256 * bits pa 12 1 + 8 * ((bits pa 7 5) ^^^ (bits pa 16 5)) + bits pa 21 3

/-- The set of a line's address within its slice (R358). -/
def setOf (pa : Nat) : Nat := bits pa 24 15 % 384

/-- The cluster of a slice, 4·die + cluster, by its router (R359). -/
def sliceCluster (n : Nat) : Nat :=
  let r := n % 512 / 2
  4 * (n / 512) + 2 * b2n (8 ≤ r / 16) + b2n (8 ≤ r % 16)

/-- The slice that serves a range now (R326). The range of a slice that boot flash disables stays with that slice, which the
manual does not say (log entry 89). -/
def State.sliceNow (s : State) (n : Nat) : Nat := Tbl.get n s.board.sliceMap n

/-- Whether a slice works: enabled and not failed. -/
def State.sliceOn (s : State) (n : Nat) : Bool := !(s.board.flash.slicesOff.contains n) && s.sliceNow n = n

/-- Where the range of a failed slice goes: the other slice of its router, or the lowest enabled one of its cluster. -/
def State.sliceHeir (s : State) (n : Nat) : Nat :=
  if s.sliceOn (n ^^^ 1) then n ^^^ 1
  else ((List.range 2048).find? (fun m => m ≠ n && sliceCluster m = sliceCluster n && s.sliceOn m)).getD n

/-! ### Bytes under keys, and host lines that the device holds -/

/-- The bytes of a line. -/
def Memory.line (m : Memory) (line : Nat) : Memory := m.filter (fun c => lineOf c.1 = line)

/-- The words of a host line that CINV took from the device while it held others of them, as a mask (R212). -/
def State.absentMask (s : State) (line : Nat) : Nat := s.absent.get 0 line

/-- Whether the word of a location is none of a mask of absent words. -/
def hasWord (absent a : Nat) : Bool := !bitOf absent (a / 4 % 32)

/-- The device's own copy of a byte's line, where it holds the byte's word (R184, R212). -/
def State.ownLine (s : State) (a : Nat) : Option Memory :=
  if hasWord (s.absentMask (lineOf a)) a then s.proxy.find (lineOf a) else none

/-- The byte that the device sees at a location, if one was written: of a host word that it holds, that of its own copy, whatever a
non-coherent agent has written to the host's memory meanwhile (R212). -/
def State.cell (s : State) (a : Nat) : Option Byte :=
  if inSpace .host a then
    match s.ownLine a with
    | some m => m.get a
    | none => s.mem.get a
  else s.mem.get a

/-- The byte at a location under a key draw: unwritten bytes, and HBM lines last written under another key, read as a
free value (R31, R268). -/
def State.byteAt (s : State) (draw a i : Nat) : Byte :=
  if isHbm a && s.lineKey.get 0 (lineOf a) ≠ draw then Config.freeByte (s.fresh + i)
  else (s.cell a).getD (Config.freeByte (s.fresh + i))

/-- The locations of the bytes of a segment list. -/
def segBytes (segs : List (Nat × Nat)) : List Nat := segs.flatMap (fun g => (List.range g.2).map (g.1 + ·))

/-- The bytes of segments under a key draw. -/
def State.readSegs (s : State) (draw : Nat) (segs : List (Nat × Nat)) : List Byte :=
  (segBytes segs).mapIdx (fun i a => s.byteAt draw a i)

/-- The bytes of a host line once the words that the device lacks have been fetched from the host. -/
def State.refetched (s : State) (line : Nat) : Memory :=
  match s.proxy.find line with
  | some m => ((s.mem.line line).filter (fun c => !hasWord (s.absentMask line) c.1)).foldl (fun m c => m.put c.1 c.2)
      (m.filter (fun c => hasWord (s.absentMask line) c.1))
  | none => s.mem.line line

/-- A host line brought to its proxy slice, or the words of it that the device lacks (R184, R212). -/
def State.holdLine (s : State) (l : Nat) : State :=
  if inSpace .host l && ((s.proxy.find (lineOf l)).isNone || s.absentMask (lineOf l) ≠ 0) then
    { s with proxy := s.proxy.set (lineOf l) (s.refetched (lineOf l)), absent := s.absent.del (lineOf l) }
  else s

/-- One byte stored under a key draw; the first store to an HBM line under another key drops what it held (R268), and a store
to a host line changes the device's copy of it (R184). -/
def State.storeByte (s : State) (draw a : Nat) (b : Byte) : State :=
  if inSpace .host a then
    { s with proxy := s.proxy.set (lineOf a) (((s.proxy.find (lineOf a)).getD (s.mem.line (lineOf a))).put a b) }
  else if isHbm a && s.lineKey.get 0 (lineOf a) ≠ draw then
    { s with mem := (s.mem.forget (fun q => lineOf q = lineOf a)).put a b, lineKey := s.lineKey.set (lineOf a) draw }
  else { s with mem := s.mem.put a b }

/-- Bytes stored to the bytes of segments under a key draw. -/
def State.storeSegs (s : State) (draw : Nat) (segs : List (Nat × Nat)) (bs : List Byte) : State :=
  ((segBytes segs).zip bs).foldl (fun s x => s.storeByte draw x.1 x.2) s

/-- The tags that a test finds are gone from every slice, and the tags of a line clean. -/
def State.untag (s : State) (bad : L2Tag → Bool) : State :=
  { s with l2 := s.l2.map (fun e => (e.1, { e.2 with tags := e.2.tags.filter (fun t => !bad t) })) }
def State.cleanTags (s : State) (line : Nat) : State :=
  { s with l2 := s.l2.map (fun e => (e.1, { e.2 with tags := e.2.tags.map (fun t =>
      if t.line = line then { t with dirty := false } else t) })) }

/-- The dirty words of a host line, as a mask (R309). -/
def State.dirtyMask (s : State) (line : Nat) : Nat := (s.dirty.get (0, 0, 0) line).2.2

/-- The dirty words of a host line written to the host, and the line clean (R212). -/
def State.cleanLine (s : State) (line : Nat) : State :=
  let mask := s.dirtyMask line
  let cells := ((s.proxy.find line).getD []).filter (fun c => bitOf mask (c.1 / 4 % 32) && hasWord (s.absentMask line) c.1)
  { s.cleanTags line with mem := cells.foldl (fun m c => m.put c.1 c.2) s.mem, dirty := s.dirty.del line }

/-- A host line given up by the device: its dirty words are written to the host first (R195, R361). -/
def State.giveUpLine (s : State) (line : Nat) : State :=
  let t := (s.cleanLine line).untag (fun x => x.line = line)
  { t with proxy := t.proxy.del line, absent := t.absent.del line }

/-- The clean words of a host line that the device holds are discarded, and fetched again by the next access to the line; dirty ones
stay (R212). -/
def State.dropClean (s : State) (line : Nat) : State :=
  let mask := s.dirtyMask line
  if mask = 0 then { s with proxy := s.proxy.del line, absent := s.absent.del line }
  else
    { s with proxy := s.proxy.set line (((s.proxy.find line).getD []).filter (fun c => bitOf mask (c.1 / 4 % 32))),
             absent := s.absent.set line (2 ^ 32 - 1 - mask % 2 ^ 32) }

/-! ### Encodings (R361) -/

/-- The code of an encoding, and the bytes that it stores. -/
def LineEnc.code : LineEnc → Nat
  | .plain => 0
  | .zero => 1
  | .base64d8 => 2
  | .base64d16 => 3
  | .base64d24 => 4
  | .base32d8 => 5
def LineEnc.bytes : LineEnc → Nat
  | .plain => 128
  | .zero => 0
  | .base64d8 => 24
  | .base64d16 => 40
  | .base64d24 => 56
  | .base32d8 => 36

/-- Whether an encoding takes one half of a data entry. -/
def LineEnc.half : LineEnc → Bool
  | .plain | .zero => false
  | .base64d8 | .base64d16 | .base64d24 | .base32d8 => true

/-- The `n`-byte values of a line. -/
def lineVals (n : Nat) (b : List Byte) : List Nat := (List.range (128 / n)).map (fun i => leAt b (n * i) n)

/-- Whether all values of `n` bits lie within signed `w`-bit deltas of one base, with sums modulo 2^n (log entry 89). -/
def nearBase (n w : Nat) (xs : List Nat) : Bool := xs.any (fun m => xs.all (fun x => (x + 2 ^ n - m) % 2 ^ n < 2 ^ w))

/-- Whether an encoding holds a line. -/
def LineEnc.holds (b : List Byte) : LineEnc → Bool
  | .plain => true
  | .zero => b.all (· = 0)
  | .base64d8 => nearBase 64 8 (lineVals 8 b)
  | .base64d16 => nearBase 64 16 (lineVals 8 b)
  | .base64d24 => nearBase 64 24 (lineVals 8 b)
  | .base32d8 => nearBase 32 8 (lineVals 4 b)

/-- The smallest encoding that holds a line, the lower code where two are as small. -/
def encodingOf (b : List Byte) : LineEnc :=
  (minBy LineEnc.bytes ([LineEnc.plain, .zero, .base64d8, .base64d16, .base64d24, .base32d8].filter (·.holds b))).getD .plain

/-- The bytes that an encoding stores for a line, base first; the base is the least value from which all others follow upward,
raised to the middle of the deltas' range (log entry 89). -/
def storedForm (b : List Byte) (e : LineEnc) : List Byte :=
  let form := fun (n w : Nat) =>
    let xs := lineVals (n / 8) b
    let m := (xs.find? (fun m => xs.all (fun x => (x + 2 ^ n - m) % 2 ^ n < 2 ^ w))).getD 0
    let base := (m + 2 ^ (w - 1)) % 2 ^ n
    leBytes (n / 8) base ++ xs.flatMap (fun x => leBytes (w / 8) ((x + 2 ^ n - base) % 2 ^ n))
  match e with
  | .plain => b
  | .zero => []
  | .base64d8 => form 64 8
  | .base64d16 => form 64 16
  | .base64d24 => form 64 24
  | .base32d8 => form 32 8

/-- The check bits of stored bytes, for every 16 of them. -/
def checkBits (b : List Byte) : List (BitVec 9) :=
  (List.range ((b.length + 15) / 16)).map (fun i => Config.secded ((b.drop (16 * i)).take 16))

/-! ### Sets: tags, halves and replacement (R361) -/

/-- A bit of a number set or cleared. -/
def putBit (x i : Nat) (b : Bool) : Nat := if x.testBit i = b then x else if b then x + 2 ^ i else x - 2 ^ i

/-- The tree bits after a use of data entry `e`: on the way to it every node points to its other side. -/
def plruUse (p e : Nat) : Nat :=
  ((List.range 4).foldl (fun (x : Nat × Nat) k =>
    let b := e.testBit (3 - k)
    (putBit x.1 x.2 (!b), 2 * x.2 + b2n b)) (p, 1)).1

/-- The data entry that the tree bits name for replacement. -/
def plruVictim (p : Nat) : Nat := (List.range 4).foldl (fun n _ => 2 * n + b2n (p.testBit n)) 1 - 16

/-- A set without its tags in a data entry, and those tags. -/
def L2Set.clear (x : L2Set) (e : Nat) : L2Set × List L2Tag :=
  let mine := fun (t : L2Tag) => match t.way with | some w => w.1 = e | none => false
  ({ x with tags := x.tags.filter (fun t => !mine t) }, x.tags.filter mine)

/-- Whether a half of a data entry is free: no tag holds it, nor a whole entry. -/
def L2Set.freeHalf (x : L2Set) (e h : Nat) : Bool :=
  x.tags.all (fun t => match t.way with
    | some w => w.1 ≠ e || (w.2 ≠ h && t.enc.half)
    | none => true)

/-- A place for a line of an encoding: for half a line the free half of a shared entry, else a free entry, else the entry
that replacement names, whose lines are given up. -/
def L2Set.place (x : L2Set) (enc : LineEnc) : Option (Nat × Nat) × L2Set × List L2Tag :=
  let es := List.range 16
  let pairs := es.flatMap (fun e => [(e, 0), (e, 1)])
  let shared := pairs.find? (fun w => x.freeHalf w.1 w.2 && !(x.freeHalf w.1 (1 - w.2)))
  let whole := es.find? (fun e => x.freeHalf e 0 && x.freeHalf e 1)
  if enc = .zero then (none, x, [])
  else match (if enc.half then shared else none), whole with
    | some w, _ => (some w, x, [])
    | none, some e => (some (e, 0), x, [])
    | none, none =>
      let v := plruVictim x.plru
      let y := x.clear v
      (some (v, 0), y.1, y.2)

/-- A set with room for one more tag: with 32 tags those of the entry that replacement names go, or the oldest tag where that
entry holds none (log entry 89). -/
def L2Set.room (x : L2Set) : L2Set × List L2Tag :=
  if x.tags.length < 32 then (x, [])
  else
    let y := x.clear (plruVictim x.plru)
    if y.2.isEmpty then ({ x with tags := x.tags.drop 1 }, x.tags.take 1) else y

/-- A set after an access to a line under a key id, with the line's encoding now: the tag that it holds stays in place while its
encoding takes the same room, and moves otherwise. The tags that made way are given too. -/
def L2Set.access (x : L2Set) (line key : Nat) (write : Bool) (b : List Byte) : L2Set × List L2Tag :=
  let enc := encodingOf b
  let check := checkBits (storedForm b enc)
  let old := x.tags.find? (fun t => t.line = line && t.key = key)
  let dirty := write || (old.map (·.dirty)).getD false
  let rest : L2Set := { x with tags := x.tags.filter (fun t => !(t.line = line && t.key = key)) }
  let same : Bool := match old with
    | some t => t.enc.half == enc.half && (decide (t.enc = .zero) == decide (enc = .zero))
    | none => false
  let r := rest.room
  let p := if same then (old.bind (·.way), rest, []) else
    let q := r.1.place enc
    (q.1, q.2.1, r.2 ++ q.2.2)
  let plru := match p.1 with | some w => plruUse x.plru w.1 | none => x.plru
  ({ tags := p.2.1.tags ++ [⟨line, key, dirty, enc, p.1, check⟩], plru := plru }, p.2.2)

/-- What the slice that serves a line does with an access to it under a key id and draw: the line's tag, and the lines that
make way; a host line among them of which no tag is left is given up. -/
def State.touchSlice (s : State) (key draw l : Nat) (write : Bool) : State :=
  let line := lineOf l
  let pa := 128 * line % 2 ^ 64
  let at' := (s.sliceNow (sliceOf pa), setOf pa)
  let r := (s.l2.get ⟨[], 0⟩ at').access line key write (s.readSegs draw [(128 * line, 128)])
  r.2.foldl (fun s t =>
    if inSpace .host (128 * t.line) && !(r.1.tags.any (fun x => x.line = t.line)) then s.giveUpLine t.line else s)
    { s with l2 := s.l2.set at' r.1 }

/-! ### Stores of limited size (R2, R3) -/

/-- A list without the first element that a test finds. -/
def dropFirst {α : Type} (p : α → Bool) : List α → List α
  | [] => []
  | a :: t => if p a then t else a :: dropFirst p t

/-- A list in which at most `n` elements meet a test: the oldest goes where there is one more. -/
def keepNewest {α : Type} (n : Nat) (p : α → Bool) (l : List α) : List α :=
  if (l.filter p).length ≤ n then l else dropFirst p l

end Sys2Proof.Machine
end

