-- ==== Sys2Proof/Machine/Incident.lean ====
section
/-! DEFINITION. Stores and reads at a home, stores made for a context by firmware and the launch unit, the incident log, terminal
status words, and the end of a context (R228, R267, R268, R322). -/

namespace Sys2Proof.Machine

/-! ### Stores at their home (R184, R185, R189) -/

/-- The stamps that a piece uses: one for each 4-byte word, one for a 128-byte block of scratchpad (R184, R188). -/
def stampKeys (l n : Nat) : List Nat :=
  if inSpace .scratch l then [l / 128 * 32] else (List.range ((l + n - 1) / 4 - l / 4 + 1)).map (fun i => l / 4 + i)

/-- Homes whose lines cores may keep copies of (R184). -/
def copyable (l : Nat) : Bool := isHbm l || inSpace .host l

/-- The classification of a page frame. -/
def State.page (s : State) (f : Nat) : Page := s.pages.get ⟨none, false, 0, 0⟩ f

/-- What a word's slice has issued for a host line at least, since a failed predecessor of it was replaced (R326). -/
def State.sliceFloor (s : State) (l : Nat) : Nat := if inSpace .host l then s.floors.get 0 (sliceOf (l % 2 ^ 64)) else 0

/-- The timestamps of a word or block: those of its own accesses, raised by the stamp that its page had when it was
private, or that a migration gave it (R190, R197), and for a host line by what its slice's failed predecessor had issued (R326). -/
def State.stampAt (s : State) (k : Nat) : Stamp :=
  let x := s.stamps.get ⟨0, 0⟩ k
  let low := max (s.page (frameOf (4 * k))).cts (s.sliceFloor (4 * k))
  if copyable (4 * k) then ⟨max x.wts low, max x.rts low⟩ else x

/-- The greatest wts and rts of a list of stamps. -/
def State.maxWts (s : State) (ks : List Nat) : Nat := ks.foldl (fun m k => max m (s.stampAt k).wts) 0
def State.maxRts (s : State) (ks : List Nat) : Nat := ks.foldl (fun m k => max m (s.stampAt k).rts) 0

/-- Stamps changed one by one. -/
def State.mapStamps (s : State) (ks : List Nat) (f : Stamp → Stamp) : State :=
  ks.foldl (fun s k => { s with stamps := s.stamps.set k (f (s.stampAt k)) }) s

/-- Uncached pages: MMIO and non-coherent I/O (R195). -/
def isMmio (l : Nat) : Bool := inSpace .peer l && l / 2 ^ 64 % 2 ^ 40 = 1027

/-- Whether a page is private to a core, and to another core (R189, R190). -/
def State.privateTo (s : State) (l core : Nat) : Bool :=
  isHbm l && !(s.page (frameOf l)).shared && (s.page (frameOf l)).owner = some core
def State.foreignPage (s : State) (l core : Nat) : Bool :=
  isHbm l && !(s.page (frameOf l)).shared && (s.page (frameOf l)).owner.isSome && (s.page (frameOf l)).owner ≠ some core

/-- The first touch of an HBM page makes it private to the core (R189). -/
def State.touch (s : State) (l core : Nat) : State :=
  let p := s.page (frameOf l)
  if isHbm l && !p.shared && p.owner = none then { s with pages := s.pages.set (frameOf l) { p with owner := some core } } else s

/-- The key id of a draw's context; 0 for firmware's (R268). -/
def State.keyOf (s : State) (draw : Nat) : Nat := ((s.ctxs.find? (fun e => e.2.draw = draw)).map (·.1)).getD 0

/-- A store or atomic performed (R185, R189): `bs` is none when nothing is written. Its timestamp. A line that has its home at
a slice is touched there (R184, R361). -/
def State.homeWrite (s : State) (core : Option Nat) (draw p l n : Nat) (bs : Option (List Byte)) : State × Nat :=
  if isMmio l then ({ s with outbox := s.outbox ++ [.mmio (l % 2 ^ 64) (bs.getD [])] }, p) else
  let s := match core with | some c => (s.holdLine l).touch l c | none => s.holdLine l
  let ks := stampKeys l n
  let pg := s.page (frameOf l)
  let put := fun (s : State) => match bs with | some b => s.storeSegs draw [(l, n)] b | none => s
  if isHbm l && !pg.shared then
    let ts := max p (pg.cts + 1)
    (put { s with pages := s.pages.set (frameOf l) { pg with cts := ts } }, ts)
  else
    let ts := max p (s.maxRts ks + 1)
    let s := put (s.mapStamps ks (fun _ => ⟨ts, ts⟩))
    (if copyable l then s.touchSlice (s.keyOf draw) draw l bs.isSome else s, ts)

/-- The location that a translated byte has: HBM by physical address, host memory by PASID, a peer by port. -/
def transLoc (c : Ctx) (t : Trans) (va : D64) : Nat :=
  let off := t.base + va.toNat % 4096
  if t.home = 0 then hbmLoc off
  else if t.home = 1 then loc .host (c.pasid.getD 0) off
  else if t.home = 2 then loc .peer t.port off
  else loc .peer (1024 + t.home) off

/-- The bytes from `va` on cut at page ends: each piece's address and length, at most two for up to 4 KiB. -/
def pageSplit (va : D64) (n : Nat) : List (D64 × Nat) :=
  let r := 4096 - va.toNat % 4096
  if n ≤ r then [(va, n)] else [(va, r), (va + BitVec.ofNat 64 r, n - r)]

/-- Bytes written to the host's own memory as well, where the device holds the line: firmware's and the launch unit's stores to
host memory leave no dirty line (log entry 12). -/
def State.putThrough (s : State) (l : Nat) (bs : List Byte) : State :=
  if inSpace .host l then { s with mem := s.mem.putN l bs } else s

/-- A store made for a context through its page tables, without permissions asked: a log record or a status word. A
piece that has no translation is not written, and it is answered whether all were (log entry 12). It takes a time after every
access so far. -/
def State.ctxPut (s : State) (c : Ctx) (va : D64) (bs : List Byte) : State × Bool :=
  if vspace va ≠ .ordinary then (s, false) else
  let r := (pageSplit va bs.length).foldl
    (fun (acc : State × List Byte × Bool) p =>
      match walk acc.1.mem c.root p.1 with
      | some t =>
        let l := transLoc c t p.1
        let b := acc.2.1.take p.2
        let w := acc.1.homeWrite none c.draw acc.1.maxTs l p.2 (some b)
        ({ w.1.putThrough l b with maxTs := max w.1.maxTs w.2 }, acc.2.1.drop p.2, acc.2.2)
      | none => (acc.1, acc.2.1.drop p.2, false))
    (s, bs, true)
  (r.1, r.2.2)
def State.ctxStore (s : State) (c : Ctx) (va : D64) (bs : List Byte) : State := (s.ctxPut c va bs).1

/-- 64 bytes laid out from (offset, size, value) fields, the rest zero. -/
def record64 (fields : List (Nat × Nat × Nat)) : List Byte :=
  leBytes 64 (fields.foldl (fun x f => x ||| (f.2.2 % 2 ^ (8 * f.2.1)) * 2 ^ (8 * f.1)) 0)

/-- A record written to a context's incident log, or counted as dropped at the capacity (R322). -/
def State.logRecord (s : State) (key : Nat) (bs : List Byte) : State :=
  match s.ctx key with
  | none => s
  | some c =>
    let fits := c.logged < c.logCap
    let c' := if fits then { c with logged := c.logged + 1 } else { c with dropped := c.dropped + 1 }
    let s := if fits then s.ctxStore c (c.log + BitVec.ofNat 64 (64 + 64 * c.logged)) bs else s
    let s := s.ctxStore c c.log (leBytes 8 c'.logged ++ leBytes 4 c'.logCap ++ leBytes 4 c'.dropped ++ List.replicate 48 0)
    s.setCtx c'

/-- Whether a launch has reached a terminal status. -/
def JState.over : JState → Bool
  | .terminal _ => true
  | .written _ => true
  | _ => false

/-- The status word of R228. -/
def statusWord (tag : W32) (code : Nat) : Nat := tag.toNat * 2 ^ 32 + code

/-- The code of a journal state, and the terminal code that it holds. -/
def JState.codes : JState → Nat × Nat
  | .accepted => (0, 0)
  | .placing => (1, 0)
  | .terminal c => (2, c)
  | .written c => (3, c)

/-- The bytes of a launch's journal entry, in a form of the model's own (log entry 95): state, terminal code, key id, queue, the
record's index, its tag, and the teams that were dispatched. -/
def Launch.entry (l : Launch) : List Byte :=
  leBytes 1 l.state.codes.1 ++ leBytes 1 l.state.codes.2 ++ leBytes 1 l.key ++ leBytes 1 l.queue ++ leBytes 4 l.index ++
    leBytes 8 l.record.tag.toNat ++ leBytes 8 l.dispatched

/-- A launch's journal entry replaced, in both copies of the journal under key id 0 (R323). -/
def State.setLaunch (s : State) (jn : Nat) (l : Launch) : State :=
  { s with launches := s.launches.set jn l,
           mem := (s.mem.putN (loc .journal 0 (32 * jn)) l.entry).putN (loc .journal 1 (32 * jn)) l.entry }

/-- The status store of a launch that is TERMINAL, and STATUS-WRITTEN once it is performed (R228, R323). Where the status page
has no translation the store is not performed and the entry stays TERMINAL (log entry 12). -/
def State.storeStatus (s : State) (jn : Nat) : State :=
  match s.launches.find jn with
  | none => s
  | some l =>
    match l.state with
    | .terminal code =>
      if l.record.status = 0 then s.setLaunch jn { l with state := .written code }
      else match s.ctx l.key with
        | some c =>
          let r := s.ctxPut c l.record.status (leBytes 8 (statusWord l.record.tag code))
          if r.2 then r.1.setLaunch jn { l with state := .written code } else r.1
        | none => s
    | _ => s

/-- The terminal code is journalled, then the status word is stored once, then the entry is STATUS-WRITTEN (R228,
R323). -/
def State.terminate (s : State) (jn code : Nat) : State :=
  match s.launches.find jn with
  | none => s
  | some l => if l.state.over then s else (s.setLaunch jn { l with state := .terminal code }).storeStatus jn

/-- Whether a location belongs to the scratchpad or accumulator storage of one of the teams, and whether to its save image. -/
def ofTeams (ts : List Nat) (a : Nat) : Bool :=
  (inSpace .scratch a || inSpace .acc a) && (a / 2 ^ 64 % 2 ^ 40) ∈ ts
def imageOf (ts : List Nat) (a : Nat) : Bool := inSpace .save a && (a / 2 ^ 64 % 2 ^ 40) ∈ ts

/-- Teams taken away with everything that is theirs on the device: lanes, groups, tables, work in flight, Comb contents. A
team's registers stay in the tables under its number, which no later team has, so nothing can reach them. -/
def State.dropTeams (s : State) (ts : List Nat) : State :=
  { s with
    teams := s.teams.filter (fun e => !(e.1 ∈ ts)),
    groups := s.groups.filter (fun e => !(e.1.1 ∈ ts)),
    lanes := s.lanes.filter (fun e => !(e.1.team ∈ ts)),
    tiles := s.tiles.filter (fun e => !(e.1.1 ∈ ts)),
    tensors := s.tensors.filter (fun e => !(e.1.1 ∈ ts)),
    watch := s.watch.filter (fun e => !(e.1 ∈ ts)),
    runs := s.runs.filter (fun r => !(r.team ∈ ts)),
    copies := s.copies.filter (fun c => !(c.team ∈ ts)),
    pend := s.pend.filter (fun p => !(p.team ∈ ts)),
    delayed := s.delayed.filter (fun a => !(a.team ∈ ts)),
    mem := s.mem.forget (fun a => ofTeams ts a || imageOf ts a),
    cores := s.cores.map (fun e =>
      (e.1, { e.2 with
        fifo := e.2.fifo.filter (fun r => !(s.runs.any (fun x => x.id = r && x.team ∈ ts))),
        hold := e.2.hold.filter (fun h => !(s.runs.any (fun x => x.id = h.1 && x.team ∈ ts))) })) }

/-- Frames of a page of a size code (R213). -/
def sizeFrames (c : Nat) : Nat := if c = 0 then 1 else if c = 1 then 16 else if c = 2 then 512 else 262144

/-- Page frames that are mapped anew, unmapped or migrated: unclassified again (R189, R190), their stamps kept as a floor, the lines
of them that slices hold discarded (R268), and delegations of their words over. The version rises here too, so that no copy from before hits afterwards; the manual, which raises
it at a reclassification, does not say (log entry 101). -/
def State.unmapIf (s : State) (p : Nat → Bool) : State :=
  { s with
    pages := s.pages.map (fun e =>
      if p e.1 then
        let top := s.stamps.foldl (fun (m : Nat) x => if frameOf (4 * x.1) = e.1 then max m x.2.rts else m) e.2.cts
        (e.1, { owner := none, shared := false, cts := top, version := (e.2.version + 1) % 2 ^ 32 })
      else e),
    l2 := (s.untag (fun t => isHbm (128 * t.line) && p (frameOf (128 * t.line)))).l2,
    deleg := s.deleg.filter (fun e => !(isHbm (4 * e.1) && p (frameOf (4 * e.1)))) }

/-- Whether a line is a host line of a context that goes with it: it holds its dirty bytes, or it is a clean line of its PASID. -/
def State.hostLineOf (s : State) (c : Ctx) (line : Nat) : Bool :=
  inSpace .host (128 * line) &&
    (match s.dirty.find line with
      | some d => d.1 = c.key
      | none => c.pasid.isSome && 128 * line / 2 ^ 64 % 2 ^ 40 = c.pasid.getD 0)

/-- The end of a context (R267): `code` is the terminal status of its unfinished launches. Its lanes halt and its queues
are disabled, with nothing left in them for a later context of its key id (R266); its lines, without write-back, entries, key and
pages are gone, and the translations of a PASID that no other context has. -/
def State.endContext (s : State) (key code : Nat) : State :=
  match s.ctx key with
  | none => s
  | some c =>
    let jns := (s.launches.filter (fun e => e.2.key = key)).map (fun e => e.1)
    let s := jns.foldl (fun s jn => s.terminate jn code) s
    let ts := (s.teams.filter (fun e => e.2.key = key)).map (fun e => e.1)
    let s := s.dropTeams ts
    let s := s.unmapIf (inRuns (mappedRuns s.mem c.root))
    let gone := fun a => (isHbm a && s.lineKey.get 0 (lineOf a) = c.draw) ||
      ((inSpace .ring a || inSpace .spill a) && a / 2 ^ 64 % 2 ^ 40 = key)
    let alone := !(s.ctxs.any (fun e => e.1 ≠ key && e.2.pasid = c.pasid))
    { s with
      queues := s.queues.map (fun e => if e.2.owner = key then (e.1, Queue.idle) else e),
      accs := s.accs.filter (fun a => a.key ≠ key),
      delayed := s.delayed.filter (fun a => a.key ≠ key),
      clusters := s.clusters.map (fun e =>
        (e.1, { e.2 with
          tcbs := e.2.tcbs.filter (fun t => !(t.1 ∈ jns)),
          shipped := e.2.shipped.filter (fun t => !(t.1 ∈ jns)),
          window := if e.2.pages.any (fun p => !p.reported && p.key ≠ key) then e.2.window else none,
          pages := e.2.pages.filter (fun p => p.key ≠ key) })),
      copies1 := s.copies1.filter (fun e => e.2.draw ≠ c.draw),
      proxy := s.proxy.filter (fun e => !s.hostLineOf c e.1),
      absent := s.absent.filter (fun e => !s.hostLineOf c e.1),
      poison := s.poison.filter (fun l => !s.hostLineOf c l),
      dirty := s.dirty.filter (fun e => e.2.1 ≠ key),
      l2 := (s.untag (fun t => t.key = key)).l2,
      tlb := s.tlb.filter (fun e => e.1.2.1 ≠ key),
      ats := s.ats.filter (fun e => !(alone && some e.1.1 = c.pasid)),
      pri := s.pri.filter (fun e => e.2.1 ≠ key),
      mem := s.mem.forget gone,
      lineKey := s.lineKey.filter (fun e => e.2 ≠ c.draw),
      ctxs := s.ctxs.del key }

/-- A context ended by an incident: the record first, then the end (R65, R263, R288, R300). -/
def State.incident (s : State) (key code : Nat) (bs : List Byte) : State := (s.logRecord key bs).endContext key code

/-- Whether an access is a check of BWAIT or BWAITT, which is one lane's own load: the others of major 18 are made once for an entry
(R258, R260, R304). -/
def Access.isCheck (a : Access) : Bool := a.major = 18 && (a.fn = 3 || a.fn = 4)

/-- The kind-16 record of an unrepairable access (R304). -/
def State.record16 (s : State) (a : Access) (reason : Nat) : List Byte :=
  let t := s.team a.team
  record64 [(0, 1, 16), (1, 1, a.key), (4, 4, if a.group = 255 then 0 else s.coreOf a.team), (8, 8, a.va.toNat),
    (0x10, 1, a.group), (0x11, 1, match a.op with
      | .ld .. | .dld _ | .wld _ | .atom .. | .launch .. => a.lanes.headD 0
      | .st _ => if a.major = 13 ∧ a.fn = 5 then 255 else a.lanes.headD 0
      | _ => if a.isCheck then a.lanes.headD 0 else 255),
    (0x12, 1, a.kind), (0x13, 1, reason),
    (0x14, 4, match s.launches.find a.jn with | some l => l.record.tag.toNat | none => 0),
    (0x18, 4, t.lin), (0x1C, 4, t.lin / 2 ^ 32 % 2 ^ 16), (0x20, 8, s.clock)]

/-- The kind-17 record of a page that is not repaired (R304); it counts the entries of the context that are discarded. -/
def State.record17 (s : State) (key cluster : Nat) (page : D64) (cause reason : Nat) : List Byte :=
  record64 [(0, 1, 17), (1, 1, key), (4, 4, cluster), (8, 8, page.toNat), (0x10, 1, cause), (0x11, 1, reason),
    (0x14, 4, (s.accs.filter (fun a => a.key = key && (a.stage = .parked || a.stage = .spilled))).length),
    (0x20, 8, s.clock)]

/-- An unrepairable access: never performed, its context ends (R288). -/
def State.unrepairable (s : State) (a : Access) (reason : Nat) : State := s.incident a.key 3 (s.record16 a reason)

end Sys2Proof.Machine
end

