-- ==== Sys2Proof/Machine/Operands.lean ====
section
/-! DEFINITION. The registers, tiles and tensor ids that each word names, as the format chapters and the instruction
chapters bind them (R48 to R55, R88, R92, R203, R209, R220). The checks of R61 are made from these lists. -/

namespace Sys2Proof
open Machine

/-- How a word uses a register: as a source with its T bit, as a destination, or only within a run that must exist. -/
inductive UseMode where
  | src (t : Bool)
  | dst
  | range
  deriving DecidableEq, Repr

/-- One register operand: `cnt` registers from `num` on, `algn` 1 for a single register, 2 for a pair, 4 for a quad. -/
structure RegUse where
  cls : RegClass
  num : Nat
  cnt : Nat
  algn : Nat
  mode : UseMode
  deriving DecidableEq, Repr

/-- The registers of an operand. -/
def RegUse.nums (u : RegUse) : List Nat := (List.range u.cnt).map (u.num + ·)

/-- The parameter quad of a copy: without count its upper pair is not read, though the quad is named (R220). -/
def copyUses (sp : Nat) (count : Bool) : List RegUse :=
  if count then [⟨.s, sp, 4, 4, .src false⟩] else [⟨.s, sp, 4, 4, .range⟩, ⟨.s, sp, 2, 2, .src false⟩]

/-- Base and offset registers of format M: with base 31 the address is a v pair (R51). -/
def memUses (base off : Nat) : List RegUse :=
  if base = 31 then [⟨.v, off, 2, 2, .src false⟩] else [⟨.s, base, 1, 1, .src false⟩, ⟨.v, off, 1, 1, .src false⟩]

/-- Base, stride and offset registers of WLDS and WSTS (R177). -/
def stridedUses (base off : Nat) : List RegUse := [⟨.s, base, 2, 1, .src false⟩, ⟨.v, off, 1, 1, .src false⟩]

/-- The v operand of WFROM and WTO under a selector (R174). -/
def selUse (f v : Nat) (m : UseMode) : List RegUse :=
  if f = 1 ∨ f = 4 ∨ f = 5 then [⟨.v, v, 2, 2, m⟩] else [⟨.v, v, 1, 1, m⟩]

/-- The register that WAITF names (R251). -/
def waitUse (c r : Nat) : List RegUse :=
  match c with
  | 0 => [⟨.v, r, 1, 1, .dst⟩]
  | 1 => [⟨.s, r, 1, 1, .dst⟩]
  | 2 => [⟨.p, r, 1, 1, .dst⟩]
  | 3 => [⟨.d, r, 1, 1, .dst⟩]
  | _ => [⟨.w, r, 1, 1, .dst⟩]

/-- v registers that a special register takes: 2 for the 64-bit ones (R27). -/
def sregWidth (n : Nat) : Nat := if n = 0x00A ∨ n = 0x018 ∨ n = 0x021 ∨ n = 0x022 then 2 else 1

/-- Registers of WABS. -/
def usesWabs (d : BitVec 5) (a : BitVec 5) (t : Bool) : List RegUse :=
  [⟨.w, d.toNat, 1, 1, .dst⟩, ⟨.w, a.toNat, 1, 1, .src t⟩]
/-- Registers of WCMP. -/
def usesWcmp (a : BitVec 5) (b : BitVec 5) (v : BitVec 6) (t : Bool) : List RegUse :=
  [⟨.v, v.toNat, 1, 1, .dst⟩, ⟨.w, a.toNat, 1, 1, .src t⟩, ⟨.w, b.toNat, 1, 1, .src t⟩]
/-- Registers of WRND. -/
def usesWrnd (d : BitVec 5) (a : BitVec 5) (t : Bool) : List RegUse :=
  [⟨.w, d.toNat, 1, 1, .dst⟩, ⟨.w, a.toNat, 1, 1, .src t⟩]
/-- Registers of WLDEXP. -/
def usesWldexp (d : BitVec 5) (a : BitVec 5) (v : BitVec 6) (t : Bool) : List RegUse :=
  [⟨.w, d.toNat, 1, 1, .dst⟩, ⟨.w, a.toNat, 1, 1, .src t⟩, ⟨.v, v.toNat, 1, 1, .src t⟩]
/-- Registers of WFROM. -/
def usesWfrom (d : BitVec 5) (f : BitVec 5) (v : BitVec 6) (t : Bool) : List RegUse :=
  [⟨.w, d.toNat, 1, 1, .dst⟩] ++ selUse f.toNat v.toNat (.src t)
/-- Registers of WTO. -/
def usesWto (a : BitVec 5) (f : BitVec 5) (v : BitVec 6) (t : Bool) : List RegUse :=
  selUse f.toNat v.toNat .dst ++ [⟨.w, a.toNat, 1, 1, .src t⟩]
/-- Registers of WMOV. -/
def usesWmov (d : BitVec 5) (a : BitVec 5) (t : Bool) : List RegUse :=
  [⟨.w, d.toNat, 1, 1, .dst⟩, ⟨.w, a.toNat, 1, 1, .src t⟩]
/-- Registers of WCFG. -/
def usesWcfg (sb : BitVec 5) (t : Bool) : List RegUse :=
  [⟨.s, sb.toNat, 2, 2, .src t⟩]
/-- Registers of WGETL. -/
def usesWgetl (a : BitVec 5) (v : BitVec 6) (t : Bool) : List RegUse :=
  [⟨.v, v.toNat, 1, 1, .dst⟩, ⟨.w, a.toNat, 1, 1, .src t⟩]
/-- Registers of WSETL. -/
def usesWsetl (d : BitVec 5) (a : BitVec 5) (v : BitVec 6) (t : Bool) : List RegUse :=
  [⟨.w, d.toNat, 1, 1, .dst⟩, ⟨.w, a.toNat, 1, 1, .src t⟩, ⟨.v, v.toNat, 1, 1, .src t⟩]
/-- Registers of WINFO. R170 makes a word of major 22 wait while its destination is empty, and R175 says that WINFO never waits on
anything but wa: the model takes R170, so that WINFO waits for an empty vd or vd+1, which is its choice (log entry 93). -/
def usesWinfo (a : BitVec 5) (v : BitVec 6) (t : Bool) : List RegUse :=
  [⟨.v, v.toNat, 2, 2, .dst⟩, ⟨.w, a.toNat, 1, 1, .src t⟩]
/-- Registers of BRC. -/
def usesBrc (p : BitVec 3) : List RegUse :=
  [⟨.p, p.toNat, 1, 1, .src false⟩]
/-- Registers of BRS. -/
def usesBrs (sb : BitVec 5) : List RegUse :=
  [⟨.s, sb.toNat, 1, 1, .src false⟩]
/-- Registers of BRX. -/
def usesBrx (v : BitVec 6) : List RegUse :=
  [⟨.v, v.toNat, 1, 1, .src false⟩]
/-- Registers of CALL. -/
def usesCall (p : BitVec 3) : List RegUse :=
  [⟨.p, p.toNat, 1, 1, .src false⟩]
/-- Registers of CALLX. -/
def usesCallx (v : BitVec 6) : List RegUse :=
  [⟨.v, v.toNat, 1, 1, .src false⟩]
/-- Registers of RET. -/
def usesRet (p : BitVec 3) : List RegUse :=
  [⟨.p, p.toNat, 1, 1, .src false⟩]
/-- Registers of EXIT. -/
def usesExit (p : BitVec 3) : List RegUse :=
  [⟨.p, p.toNat, 1, 1, .src false⟩]
/-- Registers of WAITF. -/
def usesWaitf (r : BitVec 6) (c : BitVec 3) : List RegUse :=
  waitUse c.toNat r.toNat
/-- Registers of SETE. -/
def usesSete (d : BitVec 6) : List RegUse :=
  [⟨.v, d.toNat, 1, 1, .range⟩]
/-- Registers of SHSEND. -/
def usesShsend (d : BitVec 6) (a : BitVec 6) : List RegUse :=
  [⟨.v, d.toNat, 1, 1, .range⟩, ⟨.v, a.toNat, 1, 1, .src false⟩]
/-- Registers of SHTAKE. -/
def usesShtake (d : BitVec 6) (a : BitVec 6) : List RegUse :=
  [⟨.v, d.toNat, 1, 1, .dst⟩, ⟨.v, a.toNat, 1, 1, .src false⟩]
/-- Registers of LAUNCH. -/
def usesLaunch (d : BitVec 6) (a : BitVec 6) : List RegUse :=
  [⟨.v, d.toNat, 2, 2, .dst⟩, ⟨.v, a.toNat, 2, 2, .src false⟩]
/-- Registers of LSTAT. -/
def usesLstat (d : BitVec 6) : List RegUse :=
  [⟨.v, d.toNat, 2, 2, .dst⟩]
/-- Registers of SVC. -/
def usesSvc (d : BitVec 6) (a : BitVec 6) : List RegUse :=
  [⟨.v, d.toNat, 2, 2, .dst⟩, ⟨.v, a.toNat, 4, 4, .src false⟩]
/-- Registers of SREAD. -/
def usesSread (d : BitVec 6) (r : BitVec 10) : List RegUse :=
  [⟨.v, d.toNat, sregWidth r.toNat, sregWidth r.toNat, .dst⟩]
/-- Registers of SWRITE. -/
def usesSwrite (a : BitVec 6) (r : BitVec 10) : List RegUse :=
  [⟨.v, a.toNat, sregWidth r.toNat, sregWidth r.toNat, .src false⟩]

/-- The register operands of each word, in the order of its assembler text. -/
def Instr.uses : Instr → List RegUse
  | .iadd o | .isub o | .imul o | .imulhS o | .imulhZ o | .iminS o | .iminZ o | .imaxS o | .imaxZ o | .iabsdS o
  | .and o | .or o | .xor o | .andn o | .shl o | .shrZ o | .shrS o | .rotl o | .bfxS o | .bfxZ o | .prmt o
  | .iaddsatS o | .fadd o | .fsub o | .fmul o | .fmin o | .fmax o | .fminn o | .fmaxn o | .fcpys o | .fldexp o
  | .hadd2 o | .hsub2 o | .hmul2 o | .hmin2 o | .hmax2 o | .badd2 o | .bsub2 o | .bmul2 o | .bmin2 o | .bmax2 o
  | .fdiv o | .shflIdx o | .shflUp o | .shflDown o | .shflXor o =>
    [⟨.v, o.d.toNat, 1, 1, .dst⟩, ⟨.v, o.a.toNat, 1, 1, .src o.ta⟩, ⟨.v, o.b.toNat, 1, 1, .src o.tb⟩]
  | .popc o | .clz o | .brev o | .fabs o | .fneg o | .frint o | .ffloor o | .fceil o | .ftrunc o | .fexpo o
  | .fclass o | .cvtF32S32 o | .cvtF32Z32 o | .cvtS32F32 o | .cvtZ32F32 o | .cvtF32F16 o | .cvtF16F32 o
  | .cvtF32B16 o | .cvtB16F32 o | .frcp o | .frsq o | .fsqrt o | .fexp2 o | .flog2 o | .fsinpi o | .fcospi o
  | .ftanh o | .gredAdd o | .gredMaxS o | .gredFadd o | .gscanAdd o =>
    [⟨.v, o.d.toNat, 1, 1, .dst⟩, ⟨.v, o.a.toNat, 1, 1, .src o.ta⟩]
  | .iadd64 o | .isub64 o | .faddF64 o | .fsubF64 o | .fmulF64 o | .fminF64 o | .fmaxF64 o | .fdivF64 o =>
    [⟨.v, o.d.toNat, 2, 2, .dst⟩, ⟨.v, o.a.toNat, 2, 2, .src o.ta⟩, ⟨.v, o.b.toNat, 2, 2, .src o.tb⟩]
  | .shl64 o | .shr64Z o | .shr64S o =>
    [⟨.v, o.d.toNat, 2, 2, .dst⟩, ⟨.v, o.a.toNat, 2, 2, .src o.ta⟩, ⟨.v, o.b.toNat, 1, 1, .src o.tb⟩]
  | .iaddi o | .imuli o | .andi o | .ori o | .xori o | .shli o | .shriZ o | .shriS o | .iminiS o | .imaxiS o =>
    [⟨.v, o.d.toNat, 1, 1, .dst⟩, ⟨.v, o.a.toNat, 1, 1, .src false⟩]
  | .fabsF64 o | .fnegF64 o | .fsqrtF64 o | .cvtF64S64 o | .cvtS64F64 o =>
    [⟨.v, o.d.toNat, 2, 2, .dst⟩, ⟨.v, o.a.toNat, 2, 2, .src o.ta⟩]
  | .fma o | .fms o | .fnma o | .hfma2 o | .bfma2 o | .imad o | .bfi o =>
    [⟨.v, o.d.toNat, 1, 1, .dst⟩, ⟨.v, o.a.toNat, 1, 1, .src false⟩, ⟨.v, o.b.toNat, 1, 1, .src false⟩, ⟨.v, o.c.toNat, 1, 1, .src false⟩]
  | .fmaF64 o =>
    [⟨.v, o.d.toNat, 2, 2, .dst⟩, ⟨.v, o.a.toNat, 2, 2, .src false⟩, ⟨.v, o.b.toNat, 2, 2, .src false⟩, ⟨.v, o.c.toNat, 2, 2, .src false⟩]
  | .cvtF64F32 o => [⟨.v, o.d.toNat, 2, 2, .dst⟩, ⟨.v, o.a.toNat, 1, 1, .src o.ta⟩]
  | .cvtF32F64 o | .packF16 o | .packB16 o => [⟨.v, o.d.toNat, 1, 1, .dst⟩, ⟨.v, o.a.toNat, 2, 2, .src o.ta⟩]
  | .fset o | .iset o =>
    [⟨.p, o.p.toNat, 1, 1, .dst⟩, ⟨.v, o.a.toNat, 1, 1, .src o.ta⟩, ⟨.v, o.b.toNat, 1, 1, .src o.tb⟩]
  | .fsetF64 o | .iset64 o =>
    [⟨.p, o.p.toNat, 1, 1, .dst⟩, ⟨.v, o.a.toNat, 2, 2, .src o.ta⟩, ⟨.v, o.b.toNat, 2, 2, .src o.tb⟩]
  | .plop o => [⟨.p, o.pd.toNat, 1, 1, .dst⟩, ⟨.p, o.pa.toNat, 1, 1, .src o.ta⟩, ⟨.p, o.pb.toNat, 1, 1, .src o.tb⟩]
  | .sel o =>
    [⟨.v, o.d.toNat, 1, 1, .dst⟩, ⟨.v, o.a.toNat, 1, 1, .src false⟩, ⟨.v, o.b.toNat, 1, 1, .src false⟩, ⟨.p, o.p.toNat, 1, 1, .src false⟩]
  | .movlo o => [⟨.v, o.d.toNat, 1, 1, .dst⟩]
  | .movhi o => [⟨.v, o.d.toNat, 1, 1, .dst⟩, ⟨.v, o.d.toNat, 1, 1, .src false⟩]
  | .smovlo o => [⟨.s, o.d.toNat, 1, 1, .dst⟩]
  | .smovhi o | .smovh2 o | .smovh3 o => [⟨.s, o.d.toNat, 1, 1, .dst⟩, ⟨.s, o.d.toNat, 1, 1, .src false⟩]
  | .bcast o => [⟨.v, o.d.toNat, 1, 1, .dst⟩, ⟨.s, o.s.toNat, 1, 1, .src false⟩]
  | .laneget o => [⟨.s, o.d.toNat, 1, 1, .dst⟩, ⟨.v, o.a.toNat, 1, 1, .range⟩]
  | .voteAny o | .voteAll o => [⟨.p, o.pd.toNat, 1, 1, .dst⟩, ⟨.p, o.pa.toNat, 1, 1, .src o.ta⟩]
  | .ballot o => [⟨.v, o.d.toNat, 2, 2, .dst⟩, ⟨.p, o.pa.toNat, 1, 1, .src o.ta⟩]
  | .sadd o | .ssub o | .smul o | .sand o | .sor o | .sxor o | .sshl o | .sshrZ o | .sshrS o | .sminS o
  | .smaxS o | .sseteq o | .ssetltS o | .ssetltZ o =>
    [⟨.s, o.d.toNat, 1, 1, .dst⟩, ⟨.s, o.a.toNat, 1, 1, .src o.ta⟩, ⟨.s, o.b.toNat, 1, 1, .src o.tb⟩]
  | .saddi o => [⟨.s, o.d.toNat, 1, 1, .dst⟩, ⟨.s, o.a.toNat, 1, 1, .src false⟩]
  | .ldS8 o | .ldZ8 o | .ldS16 o | .ldZ16 o | .ldB32 o =>
    [⟨.v, o.d.toNat, 1, 1, .dst⟩] ++ memUses o.base.toNat o.off.toNat
  | .ldB64 o | .xlq o => [⟨.v, o.d.toNat, 2, 2, .dst⟩] ++ memUses o.base.toNat o.off.toNat
  | .ldB128 o => [⟨.v, o.d.toNat, 4, 4, .dst⟩] ++ memUses o.base.toNat o.off.toNat
  | .sldB64 o => [⟨.s, o.d.toNat, 1, 1, .dst⟩, ⟨.s, o.base.toNat, 1, 1, .src false⟩]
  | .dld o => [⟨.d, o.d.toNat, 1, 1, .dst⟩] ++ memUses o.base.toNat o.off.toNat
  | .wld o => [⟨.w, o.d.toNat, 1, 1, .dst⟩] ++ memUses o.base.toNat o.off.toNat
  | .wlds o => [⟨.w, o.d.toNat, 1, 1, .dst⟩] ++ stridedUses o.base.toNat o.off.toNat
  | .prf o | .cwb o | .cinv o => memUses o.base.toNat o.off.toNat
  | .stB8 o | .stB16 o | .stB32 o => [⟨.v, o.d.toNat, 1, 1, .src o.t⟩] ++ memUses o.base.toNat o.off.toNat
  | .stB64 o => [⟨.v, o.d.toNat, 2, 2, .src o.t⟩] ++ memUses o.base.toNat o.off.toNat
  | .stB128 o => [⟨.v, o.d.toNat, 4, 4, .src o.t⟩] ++ memUses o.base.toNat o.off.toNat
  | .sstB64 o => [⟨.s, o.d.toNat, 1, 1, .src o.t⟩, ⟨.s, o.base.toNat, 1, 1, .src false⟩]
  | .dst o => [⟨.d, o.d.toNat, 1, 1, .src o.t⟩] ++ memUses o.base.toNat o.off.toNat
  | .wst o => [⟨.w, o.d.toNat, 1, 1, .src o.t⟩] ++ memUses o.base.toNat o.off.toNat
  | .wsts o => [⟨.w, o.d.toNat, 1, 1, .src o.t⟩] ++ stridedUses o.base.toNat o.off.toNat
  | .atomAddB32 o | .atomFaddF32 o | .atomMinS32 o | .atomMaxS32 o | .atomMinZ32 o | .atomMaxZ32 o
  | .atomAndB32 o | .atomOrB32 o | .atomXorB32 o | .atomExchB32 o | .atomIncZ32 o =>
    [⟨.v, o.d.toNat, 2, 2, .range⟩, ⟨.v, o.d.toNat, 1, 1, .dst⟩, ⟨.v, (o.d.toNat + 1), 1, 1, .src o.t⟩] ++ memUses o.base.toNat o.off.toNat
  | .atomAddB64 o | .atomExchB64 o =>
    [⟨.v, o.d.toNat, 4, 4, .range⟩, ⟨.v, o.d.toNat, 2, 1, .dst⟩, ⟨.v, (o.d.toNat + 2), 2, 1, .src o.t⟩] ++ memUses o.base.toNat o.off.toNat
  | .atomCasB32 o =>
    [⟨.v, o.d.toNat, 4, 4, .range⟩, ⟨.v, o.d.toNat, 1, 1, .dst⟩, ⟨.v, (o.d.toNat + 1), 2, 1, .src o.t⟩] ++ memUses o.base.toNat o.off.toNat
  | .atomCasB64 o =>
    [⟨.v, o.d.toNat, 8, 4, .range⟩, ⟨.v, o.d.toNat, 2, 1, .dst⟩, ⟨.v, (o.d.toNat + 2), 4, 1, .src o.t⟩] ++ memUses o.base.toNat o.off.toNat
  | .fenceHost | .fenceSys | .mrel | .waitfAll | .yield | .nop | .illeg => []
  | .mma _ _ _ sp | .mloop _ _ _ sp | .mloops _ _ _ sp => [⟨.s, sp.toNat, 2, 2, .src false⟩]
  | .attn _ _ _ sp _ => [⟨.s, sp.toNat, 4, 4, .src false⟩]
  | .copyGather _ _ _ sp bar => copyUses sp.toNat bar
  | .hadq _ _ _ | .accrd _ _ _ => []
  | .qnt _ _ | .accwr _ _ => []
  | .accz _ | .tdrop _ | .trel _ | .bra _ | .sleep _ | .trap _ | .brk _ => []
  | .copyIn _ _ sp bar => copyUses sp.toNat bar
  | .copyOut _ _ sp _ bar => copyUses sp.toNat bar
  | .copyTt _ sp _ bar => copyUses sp.toNat bar
  | .tdef _ sp => [⟨.s, sp.toNat, 2, 2, .src false⟩]
  | .tset _ sp => [⟨.s, sp.toNat, 1, 2, .src false⟩]
  | .tstat _ sp => [⟨.s, sp.toNat, 1, 2, .dst⟩]
  | .binit sb _ | .barv sb _ | .bdrop sb _ => [⟨.s, sb.toNat, 1, 1, .src false⟩]
  | .binitReg sb v | .bwait sb v => [⟨.s, sb.toNat, 1, 1, .src false⟩, ⟨.v, v.toNat, 1, 1, .src false⟩]
  | .barvb sb v _ _ => [⟨.s, sb.toNat, 1, 1, .src false⟩, ⟨.v, v.toNat, 1, 1, .src false⟩]
  | .bwaitt sb v p => [⟨.p, p.toNat, 1, 1, .dst⟩, ⟨.v, v.toNat, 2, 2, .src false⟩, ⟨.s, sb.toNat, 1, 1, .src false⟩]
  | .btst sb v => [⟨.v, v.toNat, 1, 1, .dst⟩, ⟨.s, sb.toNat, 1, 1, .src false⟩]
  | .bjoin sb | .bleave sb => [⟨.s, sb.toNat, 1, 1, .src false⟩]
  | .dadd d a b | .dsub d a b | .dmul d a b | .dmax d a b | .dmin d a b =>
    [⟨.d, d.toNat, 1, 1, .dst⟩, ⟨.d, a.toNat, 1, 1, .src false⟩, ⟨.d, b.toNat, 1, 1, .src false⟩]
  | .dmix d a b v =>
    [⟨.d, d.toNat, 1, 1, .dst⟩, ⟨.d, a.toNat, 1, 1, .src false⟩, ⟨.d, b.toNat, 1, 1, .src false⟩, ⟨.v, v.toNat, 1, 1, .src false⟩]
  | .dneg d a | .drelu d a | .dexp2 d a | .dmov d a => [⟨.d, d.toNat, 1, 1, .dst⟩, ⟨.d, a.toNat, 1, 1, .src false⟩]
  | .daff d a v => [⟨.d, d.toNat, 1, 1, .dst⟩, ⟨.d, a.toNat, 1, 1, .src false⟩, ⟨.v, v.toNat, 2, 2, .src false⟩]
  | .dpnt d v => [⟨.d, d.toNat, 1, 1, .dst⟩, ⟨.v, v.toNat, 1, 1, .src false⟩]
  | .dfroms d v _ => [⟨.d, d.toNat, 1, 1, .dst⟩, ⟨.v, v.toNat, 8, 1, .src false⟩]
  | .dnorm d v _ => [⟨.d, d.toNat, 1, 1, .dst⟩, ⟨.v, v.toNat, 2, 2, .src false⟩]
  | .dmom a v _ => [⟨.v, v.toNat, 1, 1, .dst⟩, ⟨.d, a.toNat, 1, 1, .src false⟩]
  | .dqnt a v | .dprb a v =>
    [⟨.v, v.toNat, 1, 1, .dst⟩, ⟨.v, v.toNat, 1, 1, .src false⟩, ⟨.d, a.toNat, 1, 1, .src false⟩]
  | .dtag d a v => [⟨.d, d.toNat, 1, 1, .dst⟩, ⟨.d, a.toNat, 1, 1, .src false⟩, ⟨.v, v.toNat, 1, 1, .src false⟩]
  | .dtgr a v => [⟨.v, v.toNat, 1, 1, .dst⟩, ⟨.d, a.toNat, 1, 1, .src false⟩]
  | .datom a v _ => [⟨.v, v.toNat, 2, 2, .dst⟩, ⟨.d, a.toNat, 1, 1, .src false⟩]
  | .wadd d a b t | .wsub d a b t | .wmul d a b t | .wdiv d a b t =>
    [⟨.w, d.toNat, 1, 1, .dst⟩, ⟨.w, a.toNat, 1, 1, .src t⟩, ⟨.w, b.toNat, 1, 1, .src t⟩]
  | .wsqrt d a t | .wneg d a t => [⟨.w, d.toNat, 1, 1, .dst⟩, ⟨.w, a.toNat, 1, 1, .src t⟩]
  | .wfma d a b t =>
    [⟨.w, d.toNat, 1, 1, .dst⟩, ⟨.w, a.toNat, 1, 1, .src t⟩, ⟨.w, b.toNat, 1, 1, .src t⟩, ⟨.w, d.toNat, 1, 1, .src t⟩]
  | .wabs d a t => usesWabs d a t
  | .wcmp a b v t => usesWcmp a b v t
  | .wrnd d a t => usesWrnd d a t
  | .wldexp d a v t => usesWldexp d a v t
  | .wfrom d f v t => usesWfrom d f v t
  | .wto a f v t => usesWto a f v t
  | .wmov d a t => usesWmov d a t
  | .wcfg sb t => usesWcfg sb t
  | .wgetl a v t => usesWgetl a v t
  | .wsetl d a v t => usesWsetl d a v t
  | .winfo a v t => usesWinfo a v t
  | .brc p _ _ => usesBrc p
  | .brs sb _ _ => usesBrs sb
  | .brx v => usesBrx v
  | .call p _ _ => usesCall p
  | .callx v => usesCallx v
  | .ret p _ => usesRet p
  | .exit p _ => usesExit p
  | .waitf r c => usesWaitf r c
  | .sete d => usesSete d
  | .shsend d a => usesShsend d a
  | .shtake d a => usesShtake d a
  | .launch d a _ => usesLaunch d a
  | .lstat d _ => usesLstat d
  | .svc d a _ => usesSvc d a
  | .sread d r => usesSread d r
  | .swrite a r => usesSwrite a r
  | _ => []

/-- The tiles (false) and tensor ids (true) that a word names, in the order tc, ta, tb (R61 check 3). -/
def Instr.tileIds : Instr → List (Nat × Bool)
  | .mma c a b _ | .mloop c a b _ | .mloops c a b _ => [(c.toNat, false), (a.toNat, false), (b.toNat, false)]
  | .attn c a b _ _ => [(c.toNat, false), (a.toNat, false), (b.toNat, false)]
  | .hadq c a _ | .accrd c a _ => [(c.toNat, false), (a.toNat, false)]
  | .qnt c a | .accwr c a => [(c.toNat, false), (a.toNat, false)]
  | .accz c | .tdrop c | .trel c => [(c.toNat, false)]
  | .copyIn c x _ _ => [(c.toNat, false), (x.toNat, true)]
  | .copyOut c x _ _ _ => [(c.toNat, false), (x.toNat, true)]
  | .copyTt c _ _ _ => [(c.toNat, false)]
  | .copyGather c x b _ _ => [(c.toNat, false), (x.toNat, true), (b.toNat, false)]
  | .tdef c _ | .tstat c _ => [(c.toNat, false)]
  | .tset x _ => [(x.toNat, true)]
  | _ => []

/-- Whether a word is of class MAT (R42), which every live lane of its group must execute (R61 check 4). -/
def Instr.isMat : Instr → Bool
  | .mma _ _ _ _
  | .mloop _ _ _ _
  | .mloops _ _ _ _
  | .attn _ _ _ _ _
  | .hadq _ _ _
  | .qnt _ _
  | .accz _
  | .accrd _ _ _
  | .accwr _ _
  | .mrel
  | .copyIn _ _ _ _
  | .copyOut _ _ _ _ _
  | .copyTt _ _ _ _
  | .copyGather _ _ _ _ _
  | .tdef _ _
  | .tdrop _
  | .tset _ _
  | .tstat _ _
  | .trel _ => true
  | _ => false

/-- Whether a word is cross-lane, acting once over its whole entry (R107). -/
def Instr.isXlane : Instr → Bool
  | .shflIdx _ | .shflUp _ | .shflDown _ | .shflXor _ | .voteAny _ | .voteAll _ | .ballot _ | .gredAdd _ | .gredMaxS _ | .gredFadd _ | .gscanAdd _ => true
  | _ => false

end Sys2Proof
end

