-- ==== Sys2Proof/Machine/Ops.lean ====
section
/-! DEFINITION. The shared operations of issue: code and clause headers, program counters, taking an exception and leaving
its handler, accesses leaving a word, and the checks of R61 on registers. -/

namespace Sys2Proof.Machine

/-! ### Code (R16, R36, R41 to R45, R198) -/

/-- Address of a kernel's first clause. -/
def Launch.firstAddr (l : Launch) : D64 := l.record.kernel + BitVec.ofNat 64 l.hdr.first

/-- A fetched word with its patch: the named 16 bits stand in imm16 (R36). -/
def Launch.patched (l : Launch) (addr : D64) (w : W32) : W32 :=
  match l.patch.find? (fun p => addr = l.firstAddr + BitVec.ofNat 64 (4 * p.1)) with
  | some p => (w &&& 0xFFFF0000#32) ||| p.2.zeroExtend 32
  | none => w

/-- The 128-byte line that holds an address. -/
def lineAddr (a : D64) : D64 := BitVec.ofNat 64 (a.toNat / 128 * 128)

/-- Memory as the device sees it: the words of host lines that it holds stand in it. -/
def State.view (s : State) : Memory :=
  s.proxy.foldl (fun m e => (e.2.filter (fun c => hasWord (s.absentMask e.1) c.1)).foldl (fun m c => m.put c.1 c.2) m)
    (s.mem.forget (fun a => inSpace .host a && (s.ownLine a).isSome))

/-- A byte of code at a location, from the memory and the line keys of some time: an HBM line that was last written under
another key gives a free value, as a load would (R198, R268). -/
def State.codeByte (s : State) (draw : Nat) (m : Memory) (keys : Tbl Nat Nat) (a i : Nat) : Byte :=
  if isHbm a && keys.get 0 (lineOf a) ≠ draw then Config.freeByte (s.fresh + i)
  else (m.get a).getD (Config.freeByte (s.fresh + i))

/-- The words of a code line as of the launch's acceptance: its bytes at the translation of then, or at the present one
where none stood then (R198). -/
def State.codeLine (s : State) (l : Launch) (line : D64) : Option (List W32) :=
  match s.ctx l.key with
  | none => none
  | some c =>
    let src := match walk l.snap l.root line with
      | some t => some (l.snap, l.keys, t)
      | none => (walk s.mem c.root line).map (fun t => (s.view, s.lineKey, t))
    src.map (fun mt =>
      (List.range 32).map (fun i =>
        let a := line + BitVec.ofNat 64 (4 * i)
        let q := transLoc c mt.2.2 a
        l.patched a (BitVec.ofNat 32 (ofLe ((List.range 4).map
          (fun j => s.codeByte c.draw mt.1 mt.2.1 (q + j) (4 * i + j)))))))

/-- Whether an address can be a word's: words are 4-byte aligned (R41). -/
def codeAligned (a : D64) : Bool := a.toNat % 4 = 0

/-- The word at an address in a core's instruction cache, under a launch's tag (R36). -/
def State.wordAt (s : State) (core jn : Nat) (a : D64) : Option W32 :=
  if !codeAligned a then none
  else match s.icache.find? (fun e => e.core = core && e.jn = jn && e.line = lineAddr a) with
  | some e => e.words[a.toNat % 128 / 4]?
  | none => none

/-- Whether a word is a clause header (R41). -/
def isHeader (w : W32) : Bool := majorOf w = 30

/-- The instruction count and the priority of a header (R41). -/
def headerN (w : W32) : Nat := (fld 4 23 w).toNat
def headerP (w : W32) : Nat := (fld 8 8 w).toNat
def headerClass (w : W32) : Nat := (fld 3 20 w).toNat
def headerMask (w : W32) : Nat := (fld 4 16 w).toNat

/-- The class of a major (R42); none for majors 27 to 31. -/
def classOf (major : Nat) : Option Nat :=
  if major ≤ 11 then some 0
  else if major ≤ 15 then some 1
  else if major ≤ 17 then some 2
  else if major = 18 then some 5
  else if major ≤ 20 then some 3
  else if major ≤ 22 then some 4
  else if major ≤ 25 then some 5
  else if major = 26 then some 6
  else none

/-- The first body word, from index `i` on, that a test finds. -/
def scanBody (bad : Nat → W32 → Bool) : Nat → List W32 → Option (Nat × W32)
  | _, [] => none
  | i, w :: t => if bad i w then some (i, w) else scanBody bad (i + 1) t

/-- The fault of a clause, if it has one: reason, index and word, reasons in ascending order (R44). -/
def clauseFault (h : W32) (body : List W32) : Option (Nat × Nat × W32) :=
  if headerN h = 0 then some (0, 0, h)
  else if headerClass h = 7 then some (1, 0, h)
  else if fld 7 0 h ≠ 0 then some (2, 0, h)
  else if headerP h = 255 then some (3, 0, h)
  else match scanBody (fun _ w => majorOf w = 30) 1 body with
    | some (i, w) => some (4, i, w)
    | none =>
      match scanBody (fun i w =>
          match classOf (majorOf w) with
          | none => false
          | some c => c ≠ headerClass h && !(majorOf w = 23 && i = headerN h)) 1 body with
      | some (i, w) => some (5, i, w)
      | none => none

/-- The clause at a header address in a core's instruction cache: the header and its N body words. -/
def State.clauseAt (s : State) (core jn : Nat) (a : D64) : Option (W32 × List W32) :=
  match s.wordAt core jn a with
  | none => none
  | some h =>
    let body := (List.range (headerN h)).filterMap (fun i => s.wordAt core jn (a + BitVec.ofNat 64 (4 * (i + 1))))
    if body.length = headerN h then some (h, body) else none

/-! ### Program counters (R16, R45 to R48) -/

/-- The word at an address that a lane of a team may go to: from the instruction cache, or for a line that is not there as the
fetch of it would give (R198). None where the line has no translation, so that nothing can say whether it is a header. -/
def State.headAt (s : State) (core jn : Nat) (a : D64) : Option W32 :=
  match s.wordAt core jn a with
  | some w => some w
  | none =>
    match s.launches.find jn with
    | some l => if codeAligned a then (s.codeLine l (lineAddr a)).bind (fun ws => ws[a.toNat % 128 / 4]?) else none
    | none => none

/-- Where a lane goes that enters the clause at `a`; none while nothing can say whether a header stands there. A
misaligned address is no header (R41, R45; log 15). -/
def State.enterAt (s : State) (t : Nat) (a : D64) : Option Next :=
  let tm := s.team t
  if !codeAligned a then some (.bad a)
  else match s.headAt tm.core tm.jn a with
  | none => none
  | some w => if isHeader w then some (.go a 1 (headerP w)) else some (.bad a)

/-- The word after the clause of the issue opportunity. -/
def Sel.after (x : Sel) : D64 := x.hdr + BitVec.ofNat 64 (4 * (x.n + 1))

/-- The next word of the program, with the fall-through of R16. -/
def State.fall (s : State) : Option Next :=
  if s.sel.k < s.sel.n then some (.go s.sel.hdr (s.sel.k + 1) s.sel.prio) else s.enterAt s.sel.team s.sel.after

/-- The address of the word being issued. -/
def Sel.addr (x : Sel) : D64 := x.hdr + BitVec.ofNat 64 (4 * x.k)

/-- A lane of the issue opportunity. -/
def Sel.lane (x : Sel) (i : Nat) : LaneId := ⟨x.team, x.group, i⟩

/-! ### Taking an exception, and leaving its handler (R62 to R65) -/

/-- TPC: header address in [55:0], k in [59:56] (R27). -/
def tpcOf (hdr : D64) (k : Nat) : D64 := BitVec.ofNat 64 (hdr.toNat % 2 ^ 56 + k % 16 * 2 ^ 56)

/-- Address of the trap-handler clause of a team's launch. -/
def State.handler (s : State) (t : Nat) : D64 :=
  match s.launches.find (s.team t).jn with
  | some l => l.record.kernel + BitVec.ofNat 64 l.hdr.trap
  | none => 0

/-- Whether the handler clause's word is known not to be a header (R64). -/
def State.handlerBad (s : State) (t : Nat) : Bool :=
  match s.launches.find (s.team t).jn with
  | none => true
  | some l =>
    match s.codeLine l (lineAddr (s.handler t)) with
    | none => false
    | some ws =>
      match ws[(s.handler t).toNat % 128 / 4]? with
      | some w => !isHeader w
      | none => false

/-- Why no trap can be taken (R64, R65): 0 no handler clause, 1 already in the handler, 2 the handler is no header. -/
def State.trapBar (s : State) (L : LaneId) : Option Nat :=
  if (s.lane L).inHandler then some 1
  else if (s.hdr L.team).trap = 0 then some 0
  else if s.handlerBad L.team then some 2
  else none

/-- The kind-24 record of a trap that came at a CLOCK (R65). -/
def State.record24At (s : State) (clock : Nat) (L : LaneId) (reason cause : Nat) (tpc tval : D64) : List Byte :=
  let t := s.team L.team
  record64 [(0, 1, 24), (1, 1, t.key), (2, 1, reason), (3, 1, cause), (4, 4, s.coreOf L.team), (8, 8, tpc.toNat),
    (0x10, 8, tval.toNat), (0x18, 1, L.group), (0x19, 1, L.lane), (0x1A, 2, t.lin / 2 ^ 32), (0x1C, 4, t.lin),
    (0x20, 4, match s.launches.find t.jn with | some l => l.record.tag.toNat | none => 0), (0x24, 4, t.jn), (0x28, 8, clock)]

/-- The record of a trap that comes now. -/
def State.record24 (s : State) (L : LaneId) (reason cause : Nat) (tpc tval : D64) : List Byte :=
  s.record24At s.clock L reason cause tpc tval

/-- A lane takes a trap at the word with index `k` of the clause at `hdr` (R62, R63): TCAUSE, TPC and TVAL are written and
the lane enters the handler clause with k = 1 at priority 255. Where no trap can be taken the context ends (R64, R65). -/
def State.takeTrap (s : State) (L : LaneId) (cause : Nat) (tval hdr : D64) (k : Nat) : State :=
  if (s.teams.find L.team).isNone then s else
  match s.trapBar L with
  | some r => s.incident (s.team L.team).key 3 (s.record24 L r cause (tpcOf hdr k) tval)
  | none =>
    s.setLane L { s.lane L with
      tcause := BitVec.ofNat 32 cause, tpc := tpcOf hdr k, tval := tval, inHandler := true,
      hdr := s.handler L.team, k := 1, prio := 255, wait := .none, arrive := s.nextId, since := s.clock }

/-- Leaving the handler state: what SWRITE of 0 to TCAUSE does (R64, R279). -/
def Lane.leaveHandler (l : Lane) : Lane := { l with inHandler := false }

/-- A lane goes where its word sends it; reaching a header takes its arrival count (R46), and reaching any word its time (R253). -/
def State.goTo (s : State) (L : LaneId) : Next → State
  | .go h k p =>
    s.setLane L { s.lane L with hdr := h, k := k, prio := p, since := s.clock,
                                arrive := if k = 1 then s.nextId else (s.lane L).arrive }
  | .bad a => s.takeTrap L 3 a (s.lane L).hdr (s.lane L).k

/-! ### The checks of R61 on registers -/

/-- The code of a register class in TVAL (R62). -/
def RegClass.code : RegClass → Nat
  | .v => 0
  | .s => 1
  | .p => 2
  | .d => 3
  | .w => 4

/-- TVAL of a register trap: number, class, reason (R62). -/
def regTval (c : RegClass) (n reason : Nat) : D64 := BitVec.ofNat 64 (n % 256 + c.code * 256 + reason * 2048)

/-- The range failure of one operand (R23): beyond the count, misaligned, or reaching past the count. -/
def rangeFault (h : Header) (g : Nat) (u : RegUse) : Option D64 :=
  let n := h.count g u.cls
  if n ≤ u.num then some (regTval u.cls u.num 0)
  else if u.num % u.algn ≠ 0 then
    some (regTval u.cls u.num (if u.algn = 2 ∨ (u.cls = .s ∧ u.num % 2 = 1) then 1 else 2))
  else if n < u.num + u.cnt then some (regTval u.cls n 0)
  else none

/-- Check 2 of R61: the first range failure in operand order. -/
def rangeCheck (h : Header) (g : Nat) : List RegUse → Option D64
  | [] => none
  | u :: t =>
    match rangeFault h g u with
    | some v => some v
    | none => rangeCheck h g t

/-- The first register of an operand list that a test finds, with its class. -/
def findReg (test : RegClass → Nat → Bool) : List RegUse → Option (RegClass × Nat)
  | [] => none
  | u :: t =>
    match u.nums.find? (test u.cls) with
    | some n => some (u.cls, n)
    | none => findReg test t

/-- Whether a register of a lane is full, and whether it is poisoned. -/
def State.isFull (s : State) (L : LaneId) (c : RegClass) (n : Nat) : Bool := (s.mark (s.rid L c n)).full
def State.isPoisoned (s : State) (L : LaneId) (c : RegClass) (n : Nat) : Bool := (s.mark (s.rid L c n)).poison

/-- The sources of a word, and those with their T bit set. -/
def srcUses (us : List RegUse) : List RegUse := us.filter (fun u => match u.mode with | .src _ => true | _ => false)
def trapUses (us : List RegUse) : List RegUse := us.filter (fun u => u.mode = .src true)
def dstUses (us : List RegUse) : List RegUse := us.filter (fun u => u.mode = .dst)

/-- Whether any source or destination of a word is empty for a lane (R24, R61 check 5, R90). -/
def State.regWait (s : State) (L : LaneId) (us : List RegUse) : Bool :=
  us.any (fun u => u.mode ≠ .range && u.nums.any (fun n => !s.isFull L u.cls n))

/-- What check 5 of R61 and the poison test of check 6 say of a lane. -/
inductive Verdict where
  | pass
  | wait
  | trap (cause : Nat) (tval : D64)
  deriving DecidableEq, Repr

/-- Check 5 of R61 and its poison test, for the registers that a word names. A word that has an empty destination and a full but
poisoned source waits for the destination first, and takes its trap then: the manual does not order the two (R61, R90; log entry
107). -/
def State.regCheck (s : State) (L : LaneId) (us : List RegUse) : Verdict :=
  match findReg (fun c n => !s.isFull L c n) (trapUses us) with
  | some (c, n) => .trap 5 (regTval c n 0)
  | none =>
    if s.regWait L us then .wait
    else match findReg (fun c n => s.isPoisoned L c n) (srcUses us) with
      | some (c, n) => .trap 12 (regTval c n 0)
      | none => .pass

/-! ### Accesses leaving a word (R200 to R204, R289) -/

/-- What a word asks of memory, for the named lanes; for the lane or entry at hand when none is named. -/
structure Ask where
  op : AccOp
  va : D64
  size : Nat
  kind : Nat
  ctl : W32 := 0
  lanes : List Nat := []
  deriving DecidableEq, Repr

/-- An access created by the word of the issue opportunity. -/
def State.ask (s : State) (own : List Nat) (q : Ask) : State :=
  let t := s.team s.sel.team
  let major := if s.sel.word = 0 then 0 else majorOf s.sel.word
  { s with
    nextId := s.nextId + 1,
    accs := s.accs ++ [{
      id := s.nextId, key := t.key, jn := t.jn, team := s.sel.team, group := s.sel.group,
      lanes := if q.lanes.isEmpty then own else q.lanes,
      core := t.core, kind := q.kind, op := q.op, va := q.va, size := q.size, major := major,
      fn := (if major = 12 ∨ major = 13 ∨ major = 14 ∨ major = 15 then (fld 4 23 s.sel.word).toNat
             else (fld 5 22 s.sel.word).toNat),
      ctl := q.ctl, stage := .core, page := 0, locs := [], home := 0, port := 0, seq := 0, cause := 0,
      bytes := [], ts := 0, poison := false }] }

/-- The effective address of format M (R51). -/
def State.effAddr (s : State) (L : LaneId) (base off : Nat) (disp : Nat) : D64 :=
  if base = 31 then s.getV2 L off + BitVec.ofNat 64 disp
  else s.getS L base + (s.getV L off).zeroExtend 64 + BitVec.ofNat 64 disp

/-- Whether an access has been performed. -/
def Access.performed (a : Access) : Bool := a.stage = .done

/-- Whether an access is XLQ's, which counts as outstanding until it is answered (R204). -/
def Access.isXlq (a : Access) : Bool := match a.op with | .xlq _ => true | _ => false

/-- Accesses of a lane that are not yet performed, and those outstanding in the sense of R204. -/
def State.laneAccs (s : State) (L : LaneId) : List Access :=
  s.accs.filter (fun a => a.team = L.team && a.group = L.group && a.lanes.contains L.lane)
def State.outstanding (s : State) (L : LaneId) : Nat :=
  ((s.laneAccs L).filter (fun a => !a.performed || a.isXlq)).length

/-- Whether an access is in flight and not yet performed. -/
def State.pendingAcc (s : State) (id : Nat) : Bool := s.accs.any (fun b => b.id = id && !b.performed)

/-- The accesses after which a lane's later ones stand: its own that are not yet performed, and those that stand before a
value that it took (R181, R254). -/
def State.standing (s : State) (L : LaneId) : List Nat :=
  ((s.laneAccs L).filter (fun a => !a.performed)).map (·.id) ++ ((s.lane L).after.map (·.1)).filter s.pendingAcc

/-- Whether what a lane issues with number `id` stands behind an access of a sender whose value it took (R254). -/
def State.behindSender (s : State) (L : LaneId) (id : Nat) : Bool :=
  (s.lane L).after.any (fun x => x.2 ≤ id && s.pendingAcc x.1)

end Sys2Proof.Machine
end

