-- ==== Sys2Proof/Machine/Tiles.lean ====
section
/-! DEFINITION. The tile table: sizes, layouts, the checks of R123, R214 and R220 on tiles and parameters, and the tile states
that a word waits for (R120, R215). -/

namespace Sys2Proof.Machine

/-- The tile with a number, if it is defined. -/
def State.tile (s : State) (t n : Nat) : Option Tile := s.tiles.find (t, n)

/-- The state with a tile entry written. -/
def State.setTile (s : State) (t n : Nat) (x : Tile) : State := { s with tiles := s.tiles.set (t, n) x }

/-- Bytes of 64 packed elements of RX8, RX6 and RX4 (R117). -/
def elemBytes (fmt : Nat) : Nat := if fmt = 1 then 64 else if fmt = 2 then 48 else 32

/-- Whether a format is RX8, RX6 or RX4. -/
def isRx (fmt : Nat) : Bool := fmt = 1 || fmt = 2 || fmt = 3

/-- Bytes of a tile (R214). -/
def tileBytes (fmt rows cols : Nat) : Nat :=
  if isRx fmt then cols / 64 * (rows * elemBytes fmt + 2 * rows)
  else if fmt = 4 ∨ fmt = 7 then 4 * rows * cols
  else if fmt = 5 then 2 * rows * cols
  else if fmt = 6 then 2 * cols
  else rows * cols

/-- Bytes of a tile entry. -/
def Tile.bytes (x : Tile) : Nat := tileBytes x.fmt x.rows x.cols

/-- Bytes of one step block of `lines` lines, dense (R117) or sparse (R118). -/
def stepBytes (fmt lines : Nat) (sparse : Bool) : Nat :=
  if sparse then lines * (elemBytes fmt / 2 + 8) + 2 * lines else lines * elemBytes fmt + 2 * lines

/-- TVAL of the tile-or-tensor misuse trap (R62). -/
def tileTval (n : Nat) (tensor : Bool) (reason : Nat) : D64 := BitVec.ofNat 64 (n % 32 + b2n tensor * 32 + reason * 256)

/-- The first failure in a list of checks. -/
def firstFault : List (Option D64) → Option D64
  | [] => none
  | some v :: _ => some v
  | none :: t => firstFault t

/-- A failure when the condition does not hold. -/
def need (ok : Bool) (v : D64) : Option D64 := if ok then none else some v

/-- One tile against reasons 1, 2, 4 and its own shape rule, reason 3 (R123 step 2). -/
def State.tileOk (s : State) (t n : Nat) (fmts : List Nat) (acc : Bool) (shape : Tile → Bool) : Option D64 :=
  match s.tile t n with
  | none => some (tileTval n false 1)
  | some x =>
    if !fmts.contains x.fmt then some (tileTval n false 2)
    else if x.acc ≠ acc then some (tileTval n false 4)
    else if !shape x then some (tileTval n false 3)
    else none

/-- A rule that relates two tiles (R123 step 3), reported with a number. -/
def State.tilesFit (s : State) (t x y : Nat) (rel : Tile → Tile → Bool) (n : Nat) : Option D64 :=
  match s.tile t x, s.tile t y with
  | some a, some b => need (rel a b) (tileTval n false 3)
  | _, _ => none

/-- A tile number that fills two roles (R123 step 1). -/
def twoRoles : List Nat → Option D64
  | [] => none
  | n :: t => if n ∈ t then some (tileTval n false 5) else twoRoles t

/-- Whether step block `kb` of an operand lies within the scratchpad (R124). -/
def blockIn (off : Nat) (adv : Int) (kb len scratch : Nat) : Bool :=
  let a := (off : Int) + kb * adv
  0 ≤ a && a + len ≤ scratch

/-- The two advances of a block product's parameters (R124). -/
def advA (q : D64) : Int := (lo32 q).toInt
def advB (q : D64) : Int := (hi32 q).toInt

/-- The parameter checks of MMA, MLOOP and MLOOPS (R124); `one` for MMA. -/
def State.blockParams (s : State) (t a b sp : Nat) (p0 p1 : D64) (one sparse : Bool) : Option D64 :=
  let bad := some (tileTval sp false 6)
  let n := if one then 1 else bits p0.toNat 0 16
  if bits p0.toNat 16 4 ≥ 8 then bad
  else if !one && (bits p0.toNat 21 43 ≠ 0 || n = 0 || bitOf p1.toNat 0 || bitOf p1.toNat 32) then bad
  else match s.tile t a, s.tile t b with
    | some x, some y =>
      let sc := (s.hdr t).scratch
      let la := stepBytes x.fmt x.rows false
      let lb := stepBytes y.fmt y.rows sparse
      let da := if one then 0 else advA p1
      let db := if one then 0 else advB p1
      need (blockIn x.off da 0 la sc && blockIn x.off da (n - 1) la sc && blockIn y.off db 0 lb sc &&
        blockIn y.off db (n - 1) lb sc) (tileTval sp false 6)
    | _, _ => bad

/-- The checks of a block product (R123, R124). -/
def State.blockFault (s : State) (t c a b sp : Nat) (p0 p1 : D64) (one sparse : Bool) : Option D64 :=
  firstFault [
    twoRoles [c, a, b],
    s.tileOk t c [4] true (fun _ => true),
    s.tileOk t a [1, 2, 3] false (fun x => x.rows ≤ 128),
    s.tileOk t b [1, 2, 3] false (fun x => x.rows ≤ 64),
    s.tilesFit t c a (fun x y => x.rows = y.rows) c,
    s.tilesFit t c b (fun x y => x.cols = y.rows) c,
    s.blockParams t a b sp p0 p1 one sparse]

/-- Bytes of a key block (R133). -/
def keyBlockBytes (fmt : Nat) : Nat := 64 * elemBytes fmt + 64

/-- The parameter checks of ATTN (R132). -/
def State.attnParams (s : State) (t c sp f : Nat) (q : List D64) : Option D64 :=
  let p := fun i => (q.getD i 0).toNat
  match s.tile t c with
  | none => none
  | some x =>
    need (bits (p 0) 17 15 = 0 && 1 ≤ bits (p 0) 0 16 && bits (p 0) 0 16 ≤ 4096 && bits (p 1) 32 32 = 0 &&
      p 1 % 128 = 0 && keyBlockBytes (f + 1) ≤ p 1 && p 2 < 2 ^ 56 && p 2 % 128 = 0 &&
      x.off + 256 * x.rows + 1040 * x.rows ≤ (s.hdr t).acc) (tileTval sp false 6)

/-- The checks of ATTN (R123, R132). -/
def State.attnFault (s : State) (t c a b sp f : Nat) (q : List D64) : Option D64 :=
  firstFault [
    twoRoles [c, a, b],
    s.tileOk t c [4] true (fun x => x.cols = 64),
    s.tileOk t a [1, 2, 3] false (fun x => x.rows ≤ 128 && x.cols = 64),
    s.tileOk t b [6] false (fun x => x.rows = 1 && x.cols = 64),
    s.tilesFit t c a (fun x y => x.rows = y.rows) c,
    s.attnParams t c sp f q]

/-- The checks of HADQ and QNT (R123, R130). -/
def State.quantFault (s : State) (t c a : Nat) : Option D64 :=
  firstFault [
    twoRoles [c, a],
    s.tileOk t c [1, 2, 3] false (fun _ => true),
    s.tileOk t a [4, 5] false (fun x => x.rows ≤ 128 && x.cols % 64 = 0 && x.cols ≤ 4096),
    s.tilesFit t c a (fun x y => x.rows = y.rows && x.cols = y.cols) c]

/-- The checks of ACCRD and ACCWR (R123, R137): formats and spaces of tc and ta. -/
def State.accFault (s : State) (t c a : Nat) (cf : Nat) (cacc aacc : Bool) : Option D64 :=
  firstFault [
    twoRoles [c, a],
    s.tileOk t c [cf] cacc (fun _ => true),
    s.tileOk t a [4] aacc (fun _ => true),
    s.tilesFit t c a (fun x y => x.rows = y.rows && x.cols = y.cols) a]

/-- The shape rule of a format (R214). -/
def shapeOk (fmt rows cols : Nat) : Bool := if isRx fmt then cols % 64 = 0 else if fmt = 6 then rows = 1 else true

/-- The checks of TDEF (R214). -/
def State.tdefFault (s : State) (t c sp : Nat) (p0 p1 : D64) : Option D64 :=
  let x := p0.toNat
  let fmt := bits x 32 4
  let rows := bits p1.toNat 0 16
  let cols := bits p1.toNat 16 16
  let acc := bitOf x 36
  let off := bits x 0 32
  let lim := if acc then (s.hdr t).acc else (s.hdr t).scratch
  firstFault [
    need (fmt > 7 || shapeOk fmt rows cols) (tileTval c false 3),
    need (!acc || fmt = 4 || fmt > 7) (tileTval c false 4),
    need (bits x 37 27 = 0 && bits p1.toNat 32 32 = 0 && fmt ≤ 7 && off % 128 = 0 && 1 ≤ rows && rows ≤ 4096 &&
      1 ≤ cols && off + tileBytes fmt rows cols ≤ lim) (tileTval sp false 6)]

/-- Byte count of a descriptor's box (R218). -/
def Desc.boxBytes (d : Desc) : Nat := d.box.foldl (· * ·) 1

/-- The tensor id with a number. -/
def State.tensor (s : State) (t x : Nat) : Tensor := s.tensors.get .unset (t, x)

/-- Steps 3 and 4 of R220. -/
def State.tensorFault (s : State) (t c x : Nat) : Option D64 :=
  match s.tensor t x with
  | .unset => some (tileTval x true 7)
  | .invalid => some (tileTval x true 8)
  | .pending => none
  | .valid d =>
    match s.tile t c with
    | some tl => need (d.boxBytes = tl.bytes) (tileTval c false 3)
    | none => none

/-- Step 5 of R220, for gather. -/
def State.gatherFault (s : State) (t x b sp : Nat) : Option D64 :=
  match s.tile t b with
  | none => some (tileTval b false 1)
  | some y =>
    if y.fmt ≠ 7 then some (tileTval b false 2)
    else match s.tensor t x with
      | .valid d =>
        need (d.box.getD 2 0 = 1 && d.box.getD 3 0 = 1 && d.box.getD 1 0 ≤ y.rows * y.cols) (tileTval sp false 6)
      | _ => none

/-- The own-scratchpad barrier address of R220. -/
def ownBarrier (scratch : Nat) (a : D64) : Bool :=
  vspace a = .own && a.toNat % 16 = 0 && bits a.toNat 0 48 + 16 ≤ scratch

/-- The inbound barrier designator of R220. -/
def designatorOk (scratch : Nat) (a : D64) : Bool :=
  let x := a.toNat
  if x = 0 then true
  else if bits x 48 16 = 0xFF00 then ownBarrier scratch a
  else if bits x 48 16 = 0xFF01 then bits x 20 16 = 0 && bits x 0 20 % 16 = 0
  else if bits x 48 16 = 0xFF03 then bits x 20 12 = 0 && bits x 0 20 % 16 = 0
  else false

/-- Step 6 of R220: the parameter quad of each copy. -/
def State.copyParams (s : State) (t sp : Nat) (k : CopyKind) (count : Bool) (q : List D64) : Option D64 :=
  let sc := (s.hdr t).scratch
  let p := fun i => q.getD i 0
  let dest := match k with
    | .tt => (vspace (p 0) = .own || vspace (p 0) = .cluster) && p 1 = 0
    | _ => true
  let inb := match k with
    | .inn | .gather => p 3 = 0
    | _ => designatorOk sc (p 3)
  need (dest && (!count || (ownBarrier sc (p 2) && inb))) (tileTval sp false 6)

/-- The checks of a copy, in the order of R220. -/
def State.copyFault (s : State) (t : Nat) (k : CopyKind) (c x b sp : Nat) (count : Bool) (q : List D64) : Option D64 :=
  firstFault [
    (if k = .gather then twoRoles [c, b] else none),
    (match s.tile t c with
      | none => some (tileTval c false 1)
      | some tl => need (!tl.acc) (tileTval c false 4)),
    (if k = .tt then none else s.tensorFault t c x),
    (if k = .gather then s.gatherFault t x b sp else none),
    s.copyParams t sp k count q]

/-! ### Tile states that a word waits for -/

/-- A source is READY (R120). -/
def State.srcReady (s : State) (t n : Nat) : Bool :=
  match s.tile t n with
  | some x => x.state = .ready
  | none => true

/-- READY with no reader. -/
def State.idleReady (s : State) (t n : Nat) : Bool :=
  match s.tile t n with
  | some x => x.state = .ready && x.readers = 0
  | none => true

/-- EMPTY, or READY with no reader: what an overwriting destination, a fill, TDEF, TREL and TDROP need (R120, R214 to
R216). -/
def State.fillable (s : State) (t n : Nat) : Bool :=
  match s.tile t n with
  | some x => x.state = .empty || (x.state = .ready && x.readers = 0)
  | none => true

/-- The s registers of a parameter base (R52, R220). -/
def State.params (s : State) (L : LaneId) (sp n : Nat) : List D64 := (List.range n).map (fun i => s.getS L (sp + i))

/-- The tile-or-tensor misuse of a word, by its own checks (R61 check 6.7). -/
def State.misuse (s : State) (L : LaneId) : Instr → Option D64
  | .mma c a b sp => s.blockFault L.team c.toNat a.toNat b.toNat sp.toNat (s.getS L sp.toNat) (s.getS L (sp.toNat + 1)) true false
  | .mloop c a b sp =>
    s.blockFault L.team c.toNat a.toNat b.toNat sp.toNat (s.getS L sp.toNat) (s.getS L (sp.toNat + 1)) false false
  | .mloops c a b sp =>
    s.blockFault L.team c.toNat a.toNat b.toNat sp.toNat (s.getS L sp.toNat) (s.getS L (sp.toNat + 1)) false true
  | .attn c a b sp f => s.attnFault L.team c.toNat a.toNat b.toNat sp.toNat f.toNat (s.params L sp.toNat 4)
  | .hadq c a _ => s.quantFault L.team c.toNat a.toNat
  | .qnt c a => s.quantFault L.team c.toNat a.toNat
  | .accz c => s.tileOk L.team c.toNat [4] true (fun _ => true)
  | .accrd c a b16 => s.accFault L.team c.toNat a.toNat (if b16 then 5 else 4) false true
  | .accwr c a => s.accFault L.team c.toNat a.toNat 4 true false
  | .tdef c sp => s.tdefFault L.team c.toNat sp.toNat (s.getS L sp.toNat) (s.getS L (sp.toNat + 1))
  | .tdrop c => s.tileOk L.team c.toNat [0, 1, 2, 3, 4, 5, 6, 7] (((s.tile L.team c.toNat).map (·.acc)).getD false) (fun _ => true)
  | .trel c => s.tileOk L.team c.toNat [0, 1, 2, 3, 4, 5, 6, 7] (((s.tile L.team c.toNat).map (·.acc)).getD false) (fun _ => true)
  | .copyIn c x sp bar => s.copyFault L.team .inn c.toNat x.toNat 0 sp.toNat bar (s.params L sp.toNat 4)
  | .copyOut c x sp _ bar => s.copyFault L.team .out c.toNat x.toNat 0 sp.toNat bar (s.params L sp.toNat 4)
  | .copyTt c sp _ bar => s.copyFault L.team .tt c.toNat 0 0 sp.toNat bar (s.params L sp.toNat 4)
  | .copyGather c x b sp bar => s.copyFault L.team .gather c.toNat x.toNat b.toNat sp.toNat bar (s.params L sp.toNat 4)
  | _ => none

/-- Whether a copy waits for its tensor id's descriptor (R220). -/
def State.tensorWait (s : State) (t : Nat) : Instr → Bool
  | .copyIn _ x _ _ => s.tensor t x.toNat = .pending
  | .copyOut _ x _ _ _ => s.tensor t x.toNat = .pending
  | .copyGather _ x _ _ _ => s.tensor t x.toNat = .pending
  | _ => false

/-- Whether a word that passes its checks waits for tile states (R120 step 3, R214 to R216). -/
def State.tileWait (s : State) (L : LaneId) (i : Instr) : Bool :=
  let t := L.team
  let ovw := bitOf (match i with
    | .mma _ _ _ sp => (s.getS L sp.toNat).toNat
    | .mloop _ _ _ sp => (s.getS L sp.toNat).toNat
    | .mloops _ _ _ sp => (s.getS L sp.toNat).toNat
    | _ => 0) 20
  match i with
  | .mma c a b _ | .mloop c a b _ | .mloops c a b _ =>
    !((if ovw then s.fillable t c.toNat else s.idleReady t c.toNat) && s.srcReady t a.toNat && s.srcReady t b.toNat)
  | .attn c a b _ _ => !(s.fillable t c.toNat && s.srcReady t a.toNat && s.srcReady t b.toNat)
  | .hadq c a _ => !(s.fillable t c.toNat && s.srcReady t a.toNat)
  | .qnt c a => !(s.fillable t c.toNat && s.srcReady t a.toNat)
  | .accz c => !s.fillable t c.toNat
  | .accrd c a _ => !(s.fillable t c.toNat && s.srcReady t a.toNat)
  | .accwr c a => !(s.fillable t c.toNat && s.srcReady t a.toNat)
  | .tdef c _ => !s.fillable t c.toNat
  | .tdrop c => !s.fillable t c.toNat
  | .trel c => !s.fillable t c.toNat
  | .copyIn c _ _ _ => !s.fillable t c.toNat
  | .copyGather c _ b _ _ => !(s.fillable t c.toNat && s.srcReady t b.toNat)
  | .copyOut c _ _ _ _ => !s.srcReady t c.toNat
  | .copyTt c _ _ _ => !s.srcReady t c.toNat
  | _ => false

end Sys2Proof.Machine
end

