-- ==== Sys2Proof/Machine/Pipe.lean ====
section
/-! DEFINITION. How a word issues: what else it waits for, the order of checks of R61, and the ways of acting: per lane, once
for the entry, across the lanes (R88, R107). Every result is computed from the state at issue and then applied (R91). -/

namespace Sys2Proof.Machine

/-- What marks the accesses of one word: requests of SVC and LAUNCH act in lane order (R264, R280). -/
def State.wordTag (s : State) : W32 := BitVec.ofNat 32 s.nextId

/-- Whether an access of a lane is a window or distribution load whose flags are still to come (R86). -/
def Access.isWld (a : Access) : Bool := match a.op with | .wld _ => true | _ => false
def Access.isDld (a : Access) : Bool := match a.op with | .dld _ => true | _ => false

/-- Distribution or window operations of a lane that have not merged their flags (R86). -/
def State.distPending (s : State) (L : LaneId) : Bool :=
  s.pend.any (fun p => p.team = L.team && p.group = L.group && p.lane = L.lane && !p.window) ||
    (s.laneAccs L).any Access.isDld
def State.windowPending (s : State) (L : LaneId) : Bool :=
  s.pend.any (fun p => p.team = L.team && p.group = L.group && p.lane = L.lane && p.window) ||
    (s.laneAccs L).any Access.isWld

/-- Whether a lane has the full 32 accesses outstanding (R204). -/
def State.laneFull (s : State) (L : LaneId) : Bool := Config.maxOutstanding ≤ s.outstanding L

/-- Accesses held behind a parked one in a cluster's lane order queue (R291). -/
def State.heldCount (s : State) (cluster : Nat) : Nat :=
  (s.accs.filter (fun a => clusterOf a.core = cluster && a.stage = .core &&
    s.accs.any (fun b => b.team = a.team && b.group = a.group && b.lanes.any (fun l => a.lanes.contains l) && b.id < a.id &&
      (b.stage = .parked || b.stage = .spilled || b.stage = .returned)))).length

/-- Whether a lane's next access joins a chain: an older one of it is parked (R291). -/
def State.chained (s : State) (L : LaneId) : Bool :=
  (s.laneAccs L).any (fun a => a.stage = .parked || a.stage = .spilled || a.stage = .returned)

/-- Whether the next access of a lane must be held and the lane order queue has no room for it, after those of lower lanes of
the same word (R291). -/
def State.queueFull (s : State) (L : LaneId) : Bool :=
  s.chained L && 16384 ≤ s.heldCount (clusterOf (s.team L.team).core) +
    (s.sel.lanes.filter (fun l => l < L.lane && s.chained ⟨L.team, L.group, l⟩)).length

/-- Whether a lane has to wait before it makes an access: it has 32 outstanding, or the access must be held and cannot be
(R204, R291). -/
def State.asksWait (s : State) (L : LaneId) : Bool := s.laneFull L || s.queueFull L

/-- The hold of R294: a returned request of the context in the cluster. -/
def State.heldBack (s : State) (t : Nat) : Bool :=
  s.accs.any (fun a => a.key = (s.team t).key && a.stage = .returned && clusterOf a.core = clusterOf (s.team t).core)

/-- Entries of a context's request ring that firmware has not answered (R280, R281). -/
def Ctx.ringFull (c : Ctx) (extra : Nat) : Bool := c.ring ≤ (c.reqs.filter (fun r => r.reply = none)).length + extra

/-- Position of a lane among the lanes of the issue opportunity. -/
def rankIn (l : List Nat) (x : Nat) : Nat := (l.filter (· < x)).length

/-- SVC requests of a context that have left their words and are not yet in the ring. -/
def State.svcInFlight (s : State) (key : Nat) : Nat :=
  (s.accs.filter (fun a => a.key = key && match a.op with | .svc .. => true | _ => false)).length

/-- Registers of every class that a lane has, and its group's s registers (R252). -/
def allUses (h : Header) (g : Nat) : List RegUse :=
  [⟨.v, 0, h.vregs g, 1, .src false⟩, ⟨.s, 0, h.sregs, 1, .src false⟩, ⟨.p, 0, 8, 1, .src false⟩,
   ⟨.d, 0, h.dregs, 1, .src false⟩, ⟨.w, 0, 32, 1, .src false⟩]

/-- A memory word: it makes an access and counts toward R204. -/
def isAccess : Instr → Bool
  | .ldS8 _ | .ldZ8 _ | .ldS16 _ | .ldZ16 _ | .ldB32 _ | .ldB64 _ | .ldB128 _ | .sldB64 _ | .dld _ | .wld _ | .wlds _
  | .prf _ | .stB8 _ | .stB16 _ | .stB32 _ | .stB64 _ | .stB128 _ | .sstB64 _ | .dst _ | .wst _ | .wsts _
  | .atomAddB32 _ | .atomAddB64 _ | .atomFaddF32 _ | .atomMinS32 _ | .atomMaxS32 _ | .atomMinZ32 _ | .atomMaxZ32 _
  | .atomAndB32 _ | .atomOrB32 _ | .atomXorB32 _ | .atomExchB32 _ | .atomExchB64 _ | .atomCasB32 _ | .atomCasB64 _
  | .atomIncZ32 _ | .cwb _ | .cinv _ | .xlq _ => true
  | _ => false

/-- SREAD and SWRITE of DCTL and PREC wait for the flags of earlier operations (R86). -/
def State.flagWait (s : State) (r : Nat) (L : LaneId) : Bool :=
  (r = 0x012 && s.distPending L) || (r = 0x011 && s.windowPending L)

/-- WCFG waits for every earlier window word and record load (R166). -/
def State.wcfgWait (s : State) (L : LaneId) : Bool :=
  s.windowPending L || (List.range 32).any (fun n => !s.isFull L .w n)

/-- SETE waits while the register is empty, SHSEND while it is full (R253). -/
def State.seteWait (s : State) (d : Nat) (L : LaneId) : Bool := !s.isFull L .v d
def State.shsendWait (s : State) (d : Nat) (L : LaneId) : Bool := s.isFull L .v d

/-- The shared register that a word takes: SETE's or SHTAKE's (R57, R253). -/
def takesShared (w : W32) : Option Nat :=
  if majorOf w ≠ 24 then none
  else match (fld 5 22 w).toNat with
    | 1 => some (fld 6 16 w).toNat
    | 3 => some (fld 6 10 w).toNat
    | _ => none

/-- Whether another lane waits at the same shared register that reached it first, or in the same cycle with a lower group
ordinal (R253). -/
def State.behindTaker (s : State) (n : Nat) (L : LaneId) : Bool :=
  (List.range (s.hdr L.team).groups).any (fun g =>
    let M : LaneId := ⟨L.team, g, L.lane⟩
    let l := s.lane M
    let tm := s.team L.team
    g ≠ L.group && l.live && l.wait = .none &&
      (l.since < (s.lane L).since || (l.since = (s.lane L).since && g < L.group)) &&
      match (s.wordAt tm.core tm.jn (l.hdr + BitVec.ofNat 64 (4 * l.k))).bind takesShared with
      | some m => s.rid M .v m = s.rid L .v n
      | none => false)

/-- SVC waits while its context's request ring is full (R280). -/
def State.svcWait (s : State) (L : LaneId) : Bool :=
  match s.ctx (s.team L.team).key with
  | some c => c.ringFull (s.svcInFlight c.key + rankIn s.sel.lanes L.lane)
  | none => false

/-- LANEGET waits while the named lane is live and its register is empty (R106). -/
def State.lanegetWait (s : State) (lane a : Nat) (L : LaneId) : Bool :=
  let M : LaneId := ⟨L.team, L.group, lane⟩
  lane < (s.hdr L.team).width && (s.lane M).live && !s.isFull M .v a

/-- Whether two lanes stand in one entry. -/
def sameEntry (a b : Lane) : Bool := a.prio = b.prio && a.hdr = b.hdr && a.k = b.k && a.mark = b.mark

/-- A cross-lane word waits while any lane of its entry waits for a register that the word names, a source (R61, R107) or a
destination (R90, log 14). -/
def State.crossWait (s : State) (L : LaneId) (us : List RegUse) : Bool :=
  (s.liveLanes L.team L.group).any (fun j =>
    let M : LaneId := ⟨L.team, L.group, j⟩
    sameEntry (s.lane L) (s.lane M) && s.regCheck M us = .wait)

/-- Whether an access may go to host memory, MMIO or non-coherent I/O: it is one to ordinary memory whose home is not known yet,
or is one of these (R195). -/
def Access.mayBeHost (a : Access) : Bool :=
  (match a.op with | .svc .. | .xlq _ | .bar .. => false | _ => true) && vspace a.va = .ordinary &&
    (a.locs.isEmpty || a.home = 1 || a.home = 3 || a.locs.any (fun g => inSpace .host g.1))

/-- What a lane waits for beside the registers that its word names (R86, R106, R107, R166, R194, R195, R204, R252, R253, R280,
R291, R294). -/
def State.moreWait (s : State) (L : LaneId) : Instr → Bool
  | .fenceSys => (s.laneAccs L).any (fun a => !a.performed)
  | .fenceHost => (s.laneAccs L).any (fun a => !a.performed && a.mayBeHost)
  | .sread _ r => s.flagWait r.toNat L
  | .swrite _ r => s.flagWait r.toNat L
  | .wcfg _ _ => s.wcfgWait L
  | .waitfAll => s.regWait L (allUses (s.hdr L.team) L.group)
  | .laneget o => s.lanegetWait o.lane.toNat o.a.toNat L
  | .sete d => s.seteWait d.toNat L || s.behindTaker d.toNat L
  | .shsend d _ => s.shsendWait d.toNat L
  | .shtake _ a => s.behindTaker a.toNat L
  | .svc _ _ _ => s.svcWait L || s.asksWait L
  | .launch _ _ _ => s.asksWait L
  | .binit _ _ => s.asksWait L
  | .binitReg _ _ => s.asksWait L
  | .barv _ _ => s.asksWait L
  | .barvb _ _ _ _ => s.asksWait L
  | .btst _ _ => s.asksWait L
  | .bdrop _ _ => s.asksWait L
  | .shflIdx o => s.crossWait L (Instr.uses (.shflIdx o))
  | .shflUp o => s.crossWait L (Instr.uses (.shflUp o))
  | .shflDown o => s.crossWait L (Instr.uses (.shflDown o))
  | .shflXor o => s.crossWait L (Instr.uses (.shflXor o))
  | .voteAny o => s.crossWait L (Instr.uses (.voteAny o))
  | .voteAll o => s.crossWait L (Instr.uses (.voteAll o))
  | .ballot o => s.crossWait L (Instr.uses (.ballot o))
  | .gredAdd o => s.crossWait L (Instr.uses (.gredAdd o))
  | .gredMaxS o => s.crossWait L (Instr.uses (.gredMaxS o))
  | .gredFadd o => s.crossWait L (Instr.uses (.gredFadd o))
  | .gscanAdd o => s.crossWait L (Instr.uses (.gscanAdd o))
  | .tset _ _ => s.heldBack L.team || s.asksWait L
  | .copyIn .. | .copyOut .. | .copyTt .. | .copyGather .. | .tdef .. | .tdrop _ | .tstat .. | .trel _ =>
    s.heldBack L.team
  | i => isAccess i && s.asksWait L

/-- A poisoned source that is not the lane's own: the register that LANEGET names (R106, R307). -/
def State.farPoison (s : State) (L : LaneId) : Instr → Option D64
  | .laneget o =>
    let M : LaneId := ⟨L.team, L.group, o.lane.toNat⟩
    if (s.lane M).live && s.isPoisoned M .v o.a.toNat then some (regTval .v o.a.toNat 0) else none
  | _ => none

/-- Illegal uses that R60 judges against the header: SETE, SHSEND and SHTAKE outside the shared range (R253). -/
def State.illegalHere (s : State) (t : Nat) : Instr → Bool
  | .sete d => !(s.hdr t).shared d.toNat
  | .shsend d _ => !(s.hdr t).shared d.toNat
  | .shtake _ a => !(s.hdr t).shared a.toNat
  | .illeg => true
  | _ => false

/-- The first tile or tensor id at or beyond its declared count (R61 check 3). -/
def idCheck (h : Header) : List (Nat × Bool) → Option D64
  | [] => none
  | (n, x) :: t => if (if x then h.tensors else h.tiles) ≤ n then some (tileTval n x 0) else idCheck h t

/-- A wait that a word begins (R169, R255, R260, R264). -/
inductive Hold where
  | sleep (till : Nat)
  | barrier (addr : D64) (token : Nat)
  | timed (addr : D64) (token till p : Nat)
  | launch
  | te
  deriving DecidableEq, Repr

/-- Where a lane's word sends it: on (R16), nowhere because it has ended, to a checked clause start, or into a wait at its
word. -/
inductive Go where
  | fall
  | stop
  | at (n : Next)
  | hold (h : Hold)
  deriving DecidableEq, Repr

/-- What a word does for one lane: register writes, destinations marked empty, the lane's other state, requests to
memory, v registers that carry the lane's ordering (R254), the group's new join list (R261), an operation that completes later
(whether a window operation, its writes, its flags), one that holds its lane by TE (its writes, or the TVAL of its trap, and
its sources; R169, R180), and where the lane goes. -/
structure Eff where
  writes : List RegW := []
  empties : List (RegClass × Nat) := []
  lane : Option Lane := none
  asks : List Ask := []
  stamps : List Nat := []
  joins : Option (List D64) := none
  pend : Option (Bool × List RegW × W32 × W32) := none
  te : Option (List RegW × Option D64 × List RegW) := none
  go : Go := .fall
  deriving DecidableEq, Repr

/-- What becomes of a lane at a word. -/
inductive LaneOut where
  | wait
  | trap (cause : Nat) (tval : D64)
  | done (e : Eff)
  deriving DecidableEq, Repr

/-- Whether a lane passes. -/
def LaneOut.isDone : LaneOut → Bool
  | .done _ => true
  | .wait => false
  | .trap _ _ => false

/-- The outcome of writing registers and going on. -/
def putRegs (ws : List RegW) : LaneOut := .done { writes := ws }

/-- A taken branch (R248): it waits while its target cannot be read, and traps when the target is no header. -/
def State.branch (s : State) (a : D64) (e : Eff) : LaneOut :=
  match s.enterAt s.sel.team a with
  | none => .wait
  | some (.bad a) => .trap 3 a
  | some n => .done { e with go := .at n }

/-- The branch target of a relative form: the word's address + 4 · the signed offset (R54). -/
def Sel.relative (x : Sel) (n : Nat) (off : BitVec n) : D64 := x.addr + (off.signExtend 64) * 4

/-- The target of BRX and CALLX: an unsigned byte offset from the kernel's first clause (R54, R247). -/
def State.indexed (s : State) (L : LaneId) (v : Nat) : D64 :=
  match s.launches.find (s.team L.team).jn with
  | some l => l.firstAddr + (s.getV L v).zeroExtend 64
  | none => 0

/-- Whether a lane takes a predicated form (R247). -/
def State.taken (s : State) (L : LaneId) (p : BitVec 3) (neg : Bool) : Bool := s.getP L p.toNat != neg

/-- Where a lane's word branches to, when the lane takes it (R247 to R249). -/
def State.jumpTarget (s : State) (L : LaneId) : Instr → Option D64
  | .bra off => some (s.sel.relative 20 off)
  | .brc p neg off => if s.taken L p neg then some (s.sel.relative 20 off) else none
  | .brs r neg off => if (s.getS L r.toNat ≠ 0) != neg then some (s.sel.relative 18 off) else none
  | .brx v => some (s.indexed L v.toNat)
  | .call p neg off => if s.taken L p neg then some (s.sel.relative 20 off) else none
  | .callx v => some (s.indexed L v.toNat)
  | .ret p neg => if s.taken L p neg then (s.lane L).stack.head? else none
  | _ => none

/-- Whether a lane's word leads to no further word: it ends the lane (R249, R250) or traps. -/
def State.endsAt (s : State) (L : LaneId) : Instr → Bool
  | .exit p neg => s.taken L p neg
  | .ret p neg => s.taken L p neg && (s.lane L).stack.isEmpty
  | .trap _ => true
  | .brk _ => true
  | _ => false

/-- The code address that a word needs that goes on to the next word. -/
def State.nextCode (s : State) : Option D64 := if s.sel.k < s.sel.n then none else some s.sel.after

/-- The code address whose line a lane needs: none when it goes nowhere, its target, or the next word. -/
def State.codeFor (s : State) (ends : Bool) (target : Option D64) : Option D64 :=
  if ends then none
  else match target with
    | some a => some a
    | none => s.nextCode

/-- The code address whose line a lane needs before its word can send it on. -/
def State.wantCode (s : State) (L : LaneId) (i : Instr) : Option D64 := s.codeFor (s.endsAt L i) (s.jumpTarget L i)

/-- What issue tests of a word before it acts (R61): its registers, its tiles and tensor ids, whether it is of class MAT or
an illegal use; and for each lane what else it waits for, a poisoned source elsewhere, a tile or tensor misuse, the tiles it
waits for, and the code address it goes to. -/
structure Guard where
  uses : List RegUse
  ids : List (Nat × Bool)
  mat : Bool
  illegal : Bool
  more : LaneId → Bool
  far : LaneId → Option D64
  tensor : Bool
  misuse : LaneId → Option D64
  tile : LaneId → Bool
  code : LaneId → Option D64

/-- The tests of a word that names registers only. -/
def State.plain (s : State) (us : List RegUse) : Guard :=
  ⟨us, [], false, false, fun _ => false, fun _ => none, false, fun _ => none, fun _ => false, fun _ => s.nextCode⟩

/-- The same tests, with other code addresses, with a further wait, or as an illegal use. -/
def Guard.goes (g : Guard) (f : LaneId → Option D64) : Guard := { g with code := f }
def Guard.holding (g : Guard) (f : LaneId → Bool) : Guard := { g with more := f }
def Guard.barred (g : Guard) (b : Bool) : Guard := { g with illegal := b }

/-- The tests of every word. -/
def State.guard (s : State) (i : Instr) : Guard :=
  { uses := i.uses, ids := i.tileIds, mat := i.isMat, illegal := s.illegalHere s.sel.team i,
    more := fun L => s.moreWait L i, far := fun L => s.farPoison L i, tensor := s.tensorWait s.sel.team i,
    misuse := fun L => s.misuse L i, tile := fun L => s.tileWait L i, code := fun L => s.wantCode L i }

/-- Checks 1 to 4 of R61, the same for every lane of the entry: trap cause and TVAL. -/
def State.entryCheck (s : State) (g : Guard) : Option (Nat × D64) :=
  let t := s.sel.team
  let h := s.hdr t
  if g.illegal then some (1, s.sel.word.zeroExtend 64)
  else match rangeCheck h s.sel.group g.uses with
    | some v => some (4, v)
    | none =>
      match idCheck h g.ids with
      | some v => some (15, v)
      | none =>
        let out := (s.liveLanes t s.sel.group).filter (fun l => !s.sel.lanes.contains l)
        if g.mat && !out.isEmpty then some (6, BitVec.ofNat 64 (maskOf out)) else none

/-- Whether nothing can say what stands at the code address that a lane needs: its line is neither in the instruction cache nor
translated (log entry 9). -/
def State.codeWait (s : State) (L : LaneId) (want : Option D64) : Bool :=
  match want with
  | none => false
  | some a => codeAligned a && (s.headAt (s.team L.team).core (s.team L.team).jn a).isNone

/-- Where a word that goes on falls through to: a word whose next clause cannot be read waits (log entry 9). A last word that falls
through to a word that is no header takes trap 3, and so has no effect at all (R45, R63). -/
def State.onward (s : State) (f : Next → LaneOut) : LaneOut :=
  match s.fall with
  | none => .wait
  | some (.bad a) => .trap 3 a
  | some n => f n

/-- The outcome with the next word found. -/
def State.settle (s : State) : LaneOut → LaneOut
  | .done e =>
    match e.go with
    | .at _ => .done e
    | .stop => .done e
    | .fall => s.onward (fun n => .done { e with go := .at n })
    | .hold h => s.onward (fun _ => .done { e with go := .hold h })
  | o => o

/-- What a tile or tensor misuse gives: its trap, unless the word falls through to a word that is no header, which R61 puts first. -/
def State.misused (s : State) (v : D64) : LaneOut :=
  match s.fall with
  | some (.bad a) => .trap 3 a
  | _ => .trap 15 v

/-- Checks 5 and 6 of R61 for one lane, then the word's own part. -/
def State.laneOut (s : State) (g : Guard) (L : LaneId) (body : LaneId → LaneOut) : LaneOut :=
  match s.regCheck L g.uses with
  | .wait => .wait
  | .trap c v => if c = 12 && g.more L then .wait else .trap c v
  | .pass =>
    if g.more L || g.tensor then .wait
    else match g.far L with
      | some v => .trap 12 v
      | none => match g.misuse L with
        | some v => s.misused v
        | none => if g.tile L || s.codeWait L (g.code L) then .wait else s.settle (body L)

/-- Whether a demand fetch of the clause at an address is outstanding for a group: its lanes that need it are waiting lanes (R302). -/
def State.fetchFor (s : State) (t g : Nat) (a : D64) : Bool :=
  s.accs.any (fun x => x.team = t && x.group = g && x.op = .fetch a)

/-- The code address for which alone a lane cannot act: every other test of its word passes, and its line is neither in the instruction
cache nor translated. The demand fetch of it comes before the word (R301; log entry 9). -/
def State.codeHeld (s : State) (g : Guard) (L : LaneId) : Option D64 :=
  if s.codeWait L (g.code L) && decide (s.regCheck L g.uses = .pass) && !(g.more L) && !g.tensor && (g.far L).isNone &&
      (g.misuse L).isNone && !(g.tile L) then g.code L
  else none

/-- Whether a lane waits at a word, in the sense of R238: the same tests, without the word's own part. For code it waits while the
demand fetch is outstanding (R302). -/
def State.laneWait (s : State) (g : Guard) (L : LaneId) : Bool :=
  match s.regCheck L g.uses with
  | .wait => true
  | .trap c _ => c = 12 && g.more L
  | .pass =>
    g.more L || g.tensor || ((g.far L).isNone && (g.misuse L).isNone && g.tile L) ||
      (match s.codeHeld g L with | some a => s.fetchFor L.team L.group a | none => false)

/-- An operation of a lane that completes later (R144, R170). -/
def State.addPend (s : State) (L : LaneId) : Option (Bool × List RegW × W32 × W32) → State
  | none => s
  | some (w, ws, df, pf) =>
    { s with nextId := s.nextId + 1,
             pend := s.pend ++ [{ id := s.nextId, team := L.team, group := L.group, lane := L.lane, window := w, writes := ws,
                                  dflags := df, pflags := pf }] }

/-- The value of a register as a write of it. -/
def State.valueOf (s : State) (L : LaneId) (c : RegClass) (n : Nat) : RegW :=
  match c with
  | .v => .v n (s.getV L n)
  | .s => .s n (s.getS L n)
  | .p => .p n (s.getP L n)
  | .d => .d n (s.getD L n)
  | .w => .w n (s.getW L n)

/-- The values of the sources among a word's registers, as they are now. -/
def State.captured (s : State) (L : LaneId) (us : List RegUse) : List RegW :=
  (srcUses us).flatMap (fun u => u.nums.map (s.valueOf L u.cls))

/-- A window operation that holds its lane at the word until its result is known (R169), with what its team's image records of it
(R180). -/
def State.addTe (s : State) (L : LaneId) : Option (List RegW × Option D64 × List RegW) → State
  | none => s
  | some (ws, trap, srcs) =>
    { s with nextId := s.nextId + 1,
             pend := s.pend ++ [{ id := s.nextId, team := L.team, group := L.group, lane := L.lane, window := true, writes := ws,
                                  dflags := 0, pflags := 0, te := true, trap := trap, word := s.sel.word,
                                  prec := (s.lane L).prec, srcs := srcs }] }

/-- A register that carries a lane's ordering (R184, R254): its timestamps are at least the lane's time, and it keeps the
sender and the accesses after which the sender stands. -/
def State.stampReg (s : State) (L : LaneId) (r : RId) : State :=
  let x := s.rstamps.get ⟨0, 0⟩ r
  let ts := (s.lane L).pts
  { s with rstamps := s.rstamps.set r ⟨max x.wts ts, max x.rts ts⟩, sent := s.sent.set r (L, s.standing L) }

/-- The effect of a word on a lane and its registers, all but the program counter. -/
def State.applyEff (s : State) (L : LaneId) (lanes : List Nat) (e : Eff) : State :=
  let s := s.writes L e.writes
  let s := e.empties.foldl (fun s x => s.empty L x.1 x.2) s
  let s := match e.lane with | some l => s.setLane L l | none => s
  let s := e.asks.foldl (fun s q => s.ask lanes q) s
  let s := e.stamps.foldl (fun s n => s.stampReg L (s.rid L .v n)) s
  let s := match e.joins with
    | some j => s.setGroup L.team L.group { s.group L.team L.group with joins := j }
    | none => s
  (s.addPend L e.pend).addTe L e.te

/-- The wait that a hold begins; the lane goes on from the word's next (R169, R255, R260). -/
def Hold.toWait (h : Hold) (n : Next) : Wait :=
  match h with
  | .sleep t => .sleep t n
  | .barrier a k => .barrier a k n
  | .timed a k t p => .timed a k t p n
  | .launch => .launch n
  | .te => .te n

/-- A lane moves on. -/
def State.move (s : State) (L : LaneId) : LaneOut → State
  | .wait => s
  | .trap c v => s.takeTrap L c v s.sel.hdr s.sel.k
  | .done e =>
    match e.go with
    | .fall => s
    | .stop => s
    | .at n => s.goTo L n
    | .hold h =>
      match s.fall with
      | some n => s.setLane L { s.lane L with wait := h.toWait n }
      | none => s

/-- The lanes of a list with what becomes of each: first every effect, then every program counter. -/
def State.applyOuts (s : State) (outs : List (LaneId × LaneOut)) : State :=
  let s := outs.foldl (fun s x => match x.2 with | .done e => s.applyEff x.1 [x.1.lane] e | _ => s) s
  outs.foldl (fun s x => s.move x.1 x.2) s

/-- Every lane of the entry takes one trap (R61 checks 1 to 4). -/
def State.trapAll (s : State) (cause : Nat) (tval : D64) : State :=
  s.sel.lanes.foldl (fun s l => s.takeTrap (s.sel.lane l) cause tval s.sel.hdr s.sel.k) s

/-- A word that acts for each lane of its entry (R88). -/
def State.perLane (s : State) (g : Guard) (body : LaneId → LaneOut) : State :=
  match s.entryCheck g with
  | some (c, v) => s.trapAll c v
  | none => s.applyOuts (s.sel.lanes.map (fun l => (s.sel.lane l, s.laneOut g (s.sel.lane l) body)))

/-- The lanes that pass every check, for a word whose body only moves on. -/
def State.passing (s : State) (g : Guard) : List Nat :=
  s.sel.lanes.filter (fun l => (s.laneOut g (s.sel.lane l) (fun _ => .done {})).isDone)

/-- A word that acts once for its entry (R88): the effect is taken once, for the lanes that pass, and each goes where the
word sends it. An operand of the lanes' own that is empty in some of them only, as BINIT's vc or BARVB's vb can be, holds those
lanes: R61 says both that lanes go separately and that such an entry waits as one, and the model lets the others run the word and
the held ones run it again later (log entry 107). -/
def State.once (s : State) (g : Guard) (body : List Nat → LaneOut) : State :=
  match s.entryCheck g with
  | some (c, v) => s.trapAll c v
  | none =>
    let e := s.passing g
    let out := s.settle (body e)
    let outs := s.sel.lanes.map (fun l =>
      (s.sel.lane l, if l ∈ e then out else s.laneOut g (s.sel.lane l) (fun _ => .done {})))
    let s' := match e, out with
      | l :: _, .done f => s.applyEff (s.sel.lane l) e f
      | _, _ => s
    outs.foldl (fun s x => s.move x.1 x.2) s'

/-- A word that acts once for its entry on more than registers: the effect is taken once if a lane passes, then the lanes go
on (R88). -/
def State.onceDo (s : State) (g : Guard) (f : State → State) : State :=
  match s.entryCheck g with
  | some (c, v) => s.trapAll c v
  | none =>
    let outs := s.sel.lanes.map (fun l => (s.sel.lane l, s.laneOut g (s.sel.lane l) (fun _ => .done {})))
    outs.foldl (fun s x => s.move x.1 x.2) (if (s.passing g).isEmpty then s else f s)

/-- Whether an outcome is the empty-read trap, by which alone a lane leaves a cross-lane word (R61, R107). -/
def LaneOut.leaves : LaneOut → Bool
  | .trap c _ => c = 5
  | .wait => false
  | .done _ => false

/-- A cross-lane word (R107): lanes with the empty-read trap leave it, then it waits as one, then it acts over the rest at
once; a lane whose source is poisoned takes its trap instead of its results (R63, R307; log 27). -/
def State.cross (s : State) (g : Guard) (body : List Nat → Nat → LaneOut) : State :=
  match s.entryCheck g with
  | some (c, v) => s.trapAll c v
  | none =>
    let pre := s.sel.lanes.map (fun l => (s.sel.lane l, s.laneOut g (s.sel.lane l) (fun _ => .done {})))
    let stay := s.sel.lanes.filter (fun l => !(s.laneOut g (s.sel.lane l) (fun _ => .done {})).leaves)
    if pre.any (fun x => x.2 = .wait) then
      s.applyOuts (pre.filter (fun x => x.2.leaves))
    else
      s.applyOuts (s.sel.lanes.map (fun l =>
        (s.sel.lane l, if (s.laneOut g (s.sel.lane l) (fun _ => .done {})).isDone then s.settle (body stay l)
          else s.laneOut g (s.sel.lane l) (fun _ => .done {}))))

/-- The outcomes of this machine. -/
abbrev Out := Host.Outcome State Fault Refusal

/-- The outcome of a step that has a next state. -/
def ok (s : State) : Out := .next s

/-! ### The plain operand shapes of the vector formats -/

/-- One v result from two v sources, and from one. -/
def State.bin (s : State) (o : V3) (f : W32 → W32 → W32) (L : LaneId) : LaneOut :=
  putRegs [.v o.d.toNat (f (s.getV L o.a.toNat) (s.getV L o.b.toNat))]
def State.un (s : State) (o : V3U) (f : W32 → W32) (L : LaneId) : LaneOut :=
  putRegs [.v o.d.toNat (f (s.getV L o.a.toNat))]

/-- A pair result from two pairs, from a pair and a single register, and from one pair. -/
def State.bin64 (s : State) (o : V3) (f : D64 → D64 → D64) (L : LaneId) : LaneOut :=
  putRegs (v2 o.d.toNat (f (s.getV2 L o.a.toNat) (s.getV2 L o.b.toNat)))
def State.shift64 (s : State) (o : V3) (f : D64 → W32 → D64) (L : LaneId) : LaneOut :=
  putRegs (v2 o.d.toNat (f (s.getV2 L o.a.toNat) (s.getV L o.b.toNat)))
def State.un64 (s : State) (o : V3U) (f : D64 → D64) (L : LaneId) : LaneOut :=
  putRegs (v2 o.d.toNat (f (s.getV2 L o.a.toNat)))

/-- One v result from three v sources. -/
def State.tri (s : State) (o : V4) (f : W32 → W32 → W32 → W32) (L : LaneId) : LaneOut :=
  putRegs [.v o.d.toNat (f (s.getV L o.a.toNat) (s.getV L o.b.toNat) (s.getV L o.c.toNat))]

/-- One v result from a v source and a sign-extended immediate (R95). -/
def State.immOp (s : State) (o : VI) (f : W32 → W32 → W32) (L : LaneId) : LaneOut :=
  putRegs [.v o.d.toNat (f (s.getV L o.a.toNat) (o.imm.signExtend 32))]
def State.immShift (s : State) (o : ShI) (f : W32 → Nat → W32) (L : LaneId) : LaneOut :=
  putRegs [.v o.d.toNat (f (s.getV L o.a.toNat) o.imm.toNat)]

end Sys2Proof.Machine
end

