-- ==== Sys2Proof/Machine/Num.lean ====
section
/-! DEFINITION. Exact numbers and their rounding: the helpers of R66 to R70, the vector formats and their NaN rules
(R72 to R74), and the sums, products, quotients and roots that instructions round once. -/

namespace Sys2Proof.Machine

/-- The rounding modes (R66). -/
inductive Rm where
  | rne
  | rz
  | ru
  | rd
  deriving DecidableEq, Repr

/-- The mode of a 2-bit code (R66). -/
def Rm.of (n : Nat) : Rm := if n % 4 = 0 then .rne else if n % 4 = 1 then .rz else if n % 4 = 2 then .ru else .rd

/-- A magnitude: m · 2^e exactly, or, with `rest`, a real strictly between m · 2^e and (m + 1) · 2^e. A rounding to a unit
of at least 2 · 2^e is then decided by m and `rest`. -/
structure Mag where
  m : Nat
  e : Int
  rest : Bool
  deriving DecidableEq, Repr

/-- Zero. -/
def Mag.zero : Mag := ⟨0, 0, false⟩

/-- The exponent of the leading bit. -/
def Mag.top (g : Mag) : Int := g.e + Nat.log2 g.m

/-- Whether a magnitude goes up to the next unit: `odd` of the unit count below it, `half` compares what is left with half a
unit, `any` says whether something is left (R66). -/
def roundsUp (m : Rm) (neg odd any : Bool) (half : Ordering) : Bool :=
  match m with
  | .rne => half = .gt || (half = .eq && odd)
  | .rz => false
  | .ru => any && !neg
  | .rd => any && neg

/-- The count of units 2^u that a magnitude rounds to. -/
def Mag.units (g : Mag) (u : Int) (m : Rm) (neg : Bool) : Nat :=
  if u ≤ g.e then g.m * 2 ^ (g.e - u).toNat
  else
    let k := (u - g.e).toNat
    let q := g.m / 2 ^ k
    let r := g.m % 2 ^ k
    let h := 2 ^ (k - 1)
    let half := if r < h then Ordering.lt else if r = h && !g.rest then Ordering.eq else Ordering.gt
    q + b2n (roundsUp m neg (q % 2 = 1) (r ≠ 0 || g.rest) half)

/-- sig(n) and win(n) of R67: n significand bits, the exponent unbounded; the count and its unit. -/
def Mag.toBits (g : Mag) (n : Nat) (m : Rm) (neg : Bool) : Nat × Int :=
  if g.m = 0 then (0, 0) else
  let u := g.top - n + 1
  let q := g.units u m neg
  if q = 2 ^ n then (2 ^ (n - 1), u + 1) else (q, u)

/-- A value: NaN, an infinity, or a signed magnitude. -/
inductive Fval where
  | nan
  | inf (neg : Bool)
  | fin (neg : Bool) (g : Mag)
  deriving DecidableEq, Repr

/-- Zero of a sign. -/
def Fval.zero (neg : Bool) : Fval := .fin neg .zero

/-- An integer as a value. -/
def Fval.ofInt (x : Int) : Fval := .fin (x < 0) ⟨x.natAbs, 0, false⟩

/-- A vector format: exponent and fraction bits (R72). -/
structure Fmt where
  eb : Nat
  fb : Nat
  deriving DecidableEq, Repr

def Fmt.f16 : Fmt := ⟨5, 10⟩
def Fmt.b16 : Fmt := ⟨8, 7⟩
def Fmt.f32 : Fmt := ⟨8, 23⟩
def Fmt.f64 : Fmt := ⟨11, 52⟩

/-- Bias, the least unit exponent, the bits of the sign, of +inf, and of the canonical NaN. -/
def Fmt.bias (f : Fmt) : Int := 2 ^ (f.eb - 1) - 1
def Fmt.low (f : Fmt) : Int := 1 - f.bias - f.fb
def Fmt.signBit (f : Fmt) : Nat := 2 ^ (f.eb + f.fb)
def Fmt.infBits (f : Fmt) : Nat := (2 ^ f.eb - 1) * 2 ^ f.fb
def Fmt.nanBits (f : Fmt) : Nat := f.infBits + 2 ^ (f.fb - 1)

/-- The parts of an encoding. -/
def Fmt.neg (f : Fmt) (x : Nat) : Bool := f.signBit ≤ x
def Fmt.mag (f : Fmt) (x : Nat) : Nat := x % f.signBit
def Fmt.isNan (f : Fmt) (x : Nat) : Bool := f.infBits < f.mag x
def Fmt.isSub (f : Fmt) (x : Nat) : Bool := 0 < f.mag x && f.mag x < 2 ^ f.fb

/-- The encoding of a magnitude with a sign. -/
def Fmt.signed (f : Fmt) (neg : Bool) (x : Nat) : Nat := if neg then f.signBit + x else x

/-- The encoding read under a flush bit: a subnormal becomes zero of its sign (R68). -/
def Fmt.flushIn (f : Fmt) (fz : Bool) (x : Nat) : Nat := if fz && f.isSub x then f.signed (f.neg x) 0 else x

/-- The value of an encoding. -/
def Fmt.val (f : Fmt) (x : Nat) : Fval :=
  let a := f.mag x
  let e := a / 2 ^ f.fb
  if f.isNan x then .nan
  else if a = f.infBits then .inf (f.neg x)
  else if e = 0 then .fin (f.neg x) ⟨a, f.low, false⟩
  else .fin (f.neg x) ⟨a % 2 ^ f.fb + 2 ^ f.fb, f.low + (e - 1 : Nat), false⟩

/-- An operand read under a flush bit (R68). -/
def Fmt.get (f : Fmt) (fz : Bool) (x : Nat) : Fval := f.val (f.flushIn fz x)

/-- The encoding of q units of 2^u, where u is at least the format's least unit and q is full unless u is that unit. -/
def Fmt.bitsOf (f : Fmt) (q : Nat) (u : Int) : Nat :=
  if q < 2 ^ f.fb then q else ((u - f.low).toNat + 1) * 2 ^ f.fb + (q - 2 ^ f.fb)

/-- round of R67 into a vector format, as an encoding without its sign. -/
def Fmt.roundMag (f : Fmt) (m : Rm) (neg : Bool) (g : Mag) : Nat :=
  let u := max (g.top - f.fb) f.low
  let x := f.bitsOf (g.units u m neg) u
  if x < f.infBits then x
  else if m = .rne || (m = .ru && !neg) || (m = .rd && neg) then f.infBits
  else f.infBits - 1

/-- flush(round(x, f, m), f, MODE): the encoding of a result; NaN is the canonical one (R67, R68, R73). -/
def Fmt.put (f : Fmt) (m : Rm) (fz : Bool) : Fval → Nat
  | .nan => f.nanBits
  | .inf neg => f.signed neg f.infBits
  | .fin neg g =>
    if g.m = 0 && !g.rest then f.signed neg 0
    else f.flushIn fz (f.signed neg (f.roundMag m neg g))

/-- quiet and pick of R73; the canonical NaN where no operand is one. -/
def Fmt.quiet (f : Fmt) (x : Nat) : Nat := x ||| 2 ^ (f.fb - 1)
def Fmt.pick (f : Fmt) (xs : List Nat) : Nat :=
  match xs.find? f.isNan with
  | some x => f.quiet x
  | none => f.nanBits

/-- The NaN conversion of R74. -/
def convNan (f g : Fmt) (x : Nat) : Nat :=
  let fr := x % 2 ^ f.fb
  let fr' := if g.fb ≤ f.fb then fr / 2 ^ (f.fb - g.fb) else fr * 2 ^ (g.fb - f.fb)
  g.quiet (g.signed (f.neg x) (g.infBits + fr'))

/-- A conversion between floating formats (R74). -/
def convert (f g : Fmt) (m : Rm) (fzf fzg : Bool) (x : Nat) : Nat :=
  if f.isNan x then convNan f g x else g.put m fzg (f.get fzf x)

/-! ### Exact arithmetic -/

/-- A signed magnitude as a multiple of 2^e, for e at most its own unit. -/
def scaled (neg : Bool) (g : Mag) (e : Int) : Int :=
  let x : Int := (g.m * 2 ^ (g.e - e).toNat : Nat)
  if neg then -x else x

/-- A signed multiple of 2^e as a value; zero has the sign given. -/
def ofScaled (x e : Int) (zneg : Bool) : Fval := if x = 0 then .zero zneg else .fin (x < 0) ⟨x.natAbs, e, false⟩

/-- A sum, exact; the sign of zero by R69. -/
def Fval.add (m : Rm) : Fval → Fval → Fval
  | .nan, _ => .nan
  | _, .nan => .nan
  | .inf a, .inf b => if a = b then .inf a else .nan
  | .inf a, _ => .inf a
  | _, .inf b => .inf b
  | .fin na a, .fin nb b =>
    let e := min a.e b.e
    ofScaled (scaled na a e + scaled nb b e) e (if a.m = 0 && b.m = 0 && na = nb then na else m = .rd)

/-- The opposite. -/
def Fval.neg : Fval → Fval
  | .nan => .nan
  | .inf n => .inf (!n)
  | .fin n g => .fin (!n) g

/-- A product, exact (R69). -/
def Fval.mul : Fval → Fval → Fval
  | .nan, _ => .nan
  | _, .nan => .nan
  | .inf a, .inf b => .inf (a != b)
  | .inf a, .fin nb b => if b.m = 0 then .nan else .inf (a != nb)
  | .fin na a, .inf b => if a.m = 0 then .nan else .inf (na != b)
  | .fin na a, .fin nb b => .fin (na != nb) ⟨a.m * b.m, a.e + b.e, false⟩

/-- A quotient of magnitudes, with at least `n` significand bits. -/
def Mag.div (n : Nat) (a b : Mag) : Mag :=
  let k := n + Nat.log2 b.m + 1
  ⟨a.m * 2 ^ k / b.m, a.e - b.e - k, a.m * 2 ^ k % b.m ≠ 0⟩

/-- A quotient (R69, R98). -/
def Fval.div (n : Nat) : Fval → Fval → Fval
  | .nan, _ => .nan
  | _, .nan => .nan
  | .inf _, .inf _ => .nan
  | .inf a, .fin nb _ => .inf (a != nb)
  | .fin na _, .inf b => .zero (na != b)
  | .fin na a, .fin nb b =>
    if b.m = 0 then (if a.m = 0 then .nan else .inf (na != nb)) else .fin (na != nb) (a.div n b)

/-- The integer square root, bit by bit from bit `i - 1` down. -/
def isqrtFrom : Nat → Nat → Nat → Nat
  | 0, _, r => r
  | i + 1, x, r => if (r + 2 ^ i) * (r + 2 ^ i) ≤ x then isqrtFrom i x (r + 2 ^ i) else isqrtFrom i x r

/-- The greatest r with r² ≤ x. -/
def isqrt (x : Nat) : Nat := isqrtFrom (Nat.log2 x / 2 + 1) x 0

/-- A square root of a magnitude, with at least `n` significand bits. -/
def Mag.sqrt (n : Nat) (a : Mag) : Mag :=
  let k := if (a.e - (2 * n : Nat)) % 2 = 0 then 2 * n else 2 * n + 1
  let x := a.m * 2 ^ k
  let r := isqrt x
  ⟨r, (a.e - k) / 2, r * r ≠ x⟩

/-- A square root (R98). -/
def Fval.sqrt (n : Nat) : Fval → Fval
  | .nan => .nan
  | .inf neg => if neg then .nan else .inf false
  | .fin neg g => if g.m = 0 then .zero neg else if neg then .nan else .fin false (g.sqrt n)

/-- 1/√x of a magnitude, to at least 120 significand bits: the root of the quotient. -/
def rsqrtMag (a : Mag) : Mag :=
  let m := if a.e % 2 = 0 then a.m else 2 * a.m
  let e := if a.e % 2 = 0 then a.e else a.e - 1
  let k := 128 + Nat.log2 m
  let r := isqrt (2 ^ (2 * k) / m)
  ⟨r, -(e / 2) - k, r * r * m ≠ 2 ^ (2 * k)⟩

/-- A power-of-two scaling, exact. -/
def Fval.scale (k : Int) : Fval → Fval
  | .fin n g => .fin n { g with e := g.e + k }
  | x => x

/-- rint of R70 for a finite value. -/
def rint (m : Rm) (neg : Bool) (g : Mag) : Int :=
  let q : Int := g.units (max 0 g.e) m neg * 2 ^ g.e.toNat
  if neg then -q else q

/-- cvt_int of R70. -/
def cvtInt (lo hi : Int) (m : Rm) : Fval → Int
  | .nan => 0
  | .inf neg => if neg then lo else hi
  | .fin neg g => if g.m = 0 then 0 else max lo (min hi (rint m neg g))

/-- A magnitude as a signed count of units, for comparing: both scaled to the lesser unit. -/
def cmpFin (na : Bool) (a : Mag) (nb : Bool) (b : Mag) : Ordering :=
  compare (scaled na a (min a.e b.e)) (scaled nb b (min a.e b.e))

/-- The order of two values that are no NaN; zeros are equal. -/
def Fval.cmp : Fval → Fval → Ordering
  | .inf a, .inf b => if a = b then .eq else if a then .lt else .gt
  | .inf a, _ => if a then .lt else .gt
  | _, .inf b => if b then .gt else .lt
  | .fin na a, .fin nb b => cmpFin na a nb b
  | _, _ => .eq

/-- The sign of a value. -/
def Fval.isNeg : Fval → Bool
  | .nan => false
  | .inf n => n
  | .fin n _ => n

/-- Whether a is before b, with −0 before +0 (R96). -/
def Fval.before (a b : Fval) : Bool :=
  match a.cmp b with
  | .lt => true
  | .gt => false
  | .eq => a.isNeg && !b.isNeg

end Sys2Proof.Machine
end

