-- ==== Sys2Proof/Machine/Sfu.lean ====
section
/-! DEFINITION. The special functions of R101 and R102, computed to as many bits as their rounding needs. Every inexact value is
irrational, so an enclosure narrow enough has ends that round alike; the widths tried end at 2^-1280 (log entry 13). -/

namespace Sys2Proof.Machine

/-- An enclosure of a real x ≥ 0 at scale K: lo ≤ x · 2^K ≤ hi. -/
structure Enc where
  lo : Nat
  hi : Nat
  deriving DecidableEq, Repr

def Enc.add (a b : Enc) : Enc := ⟨a.lo + b.lo, a.hi + b.hi⟩
def Enc.sub (a b : Enc) : Enc := ⟨a.lo - b.hi, a.hi - b.lo⟩
def Enc.mul (K : Nat) (a b : Enc) : Enc := ⟨a.lo * b.lo / 2 ^ K, a.hi * b.hi / 2 ^ K + 1⟩
def Enc.quo (K : Nat) (a b : Enc) : Enc := ⟨a.lo * 2 ^ K / b.hi, a.hi * 2 ^ K / b.lo + 1⟩
def Enc.divN (a : Enc) (n : Nat) : Enc := ⟨a.lo / n, a.hi / n + 1⟩
def Enc.mulN (a : Enc) (n : Nat) : Enc := ⟨a.lo * n, a.hi * n⟩

/-- Sum of a series by its terms, to a term below the scale; `next n t` is the term after t. -/
def series (next : Nat → Enc → Enc) : Nat → Nat → Enc → Enc → Enc
  | 0, _, _, acc => ⟨acc.lo, acc.hi + 8⟩
  | f + 1, n, t, acc =>
    if t.hi ≤ 2 then ⟨acc.lo, acc.hi + 8⟩ else series next f (n + 1) (next n t) (acc.add (next n t))

/-- The same with alternating signs: the sums of the terms of each sign, `acc` those of the sign of t. -/
def altSeries (next : Nat → Enc → Enc) : Nat → Nat → Enc → Enc → Enc → Enc
  | 0, _, _, acc, alt => ⟨(acc.sub alt).lo - 8, (acc.sub alt).hi + 8⟩
  | f + 1, n, t, acc, alt =>
    let t1 := next n t
    let t2 := next (n + 1) t1
    if t.hi ≤ 2 then ⟨(acc.sub alt).lo - 8, (acc.sub alt).hi + 8⟩
    else altSeries next f (n + 2) t2 (acc.add t2) (alt.add t1)

/-- e^z for 0 ≤ z < 1. -/
def expEnc (K : Nat) (z : Enc) : Enc :=
  series (fun n t => (t.mul K z).divN n) K 1 ⟨2 ^ K, 2 ^ K⟩ ⟨2 ^ K, 2 ^ K⟩

/-- artanh z for 0 ≤ z ≤ 1/3: the series runs over the powers of z, each divided by its exponent when added. -/
def artanhLoop (K : Nat) (z2 : Enc) : Nat → Nat → Enc → Enc → Enc
  | 0, _, _, acc => ⟨acc.lo, acc.hi + 8⟩
  | f + 1, n, p, acc =>
    if p.hi ≤ 2 then ⟨acc.lo, acc.hi + 8⟩
    else artanhLoop K z2 f (n + 2) (p.mul K z2) (acc.add (p.divN n))
def artanhEnc (K : Nat) (z : Enc) : Enc := artanhLoop K (z.mul K z) K 1 z ⟨0, 0⟩

/-- ln 2 = 2 artanh(1/3). -/
def ln2Enc (K : Nat) : Enc := (artanhEnc K ⟨2 ^ K / 3, 2 ^ K / 3 + 1⟩).mulN 2

/-- arctan(1/q): the sums of the terms of each sign. -/
def arctanLoop (q2 : Nat) : Nat → Nat → Enc → Enc → Enc → Enc
  | 0, _, _, acc, alt => ⟨(acc.sub alt).lo - 8, (acc.sub alt).hi + 8⟩
  | f + 1, n, p, acc, alt =>
    if p.hi ≤ 2 then ⟨(acc.sub alt).lo - 8, (acc.sub alt).hi + 8⟩
    else arctanLoop q2 f (n + 4) ((p.divN q2).divN q2) (acc.add (p.divN n)) (alt.add ((p.divN q2).divN (n + 2)))
def arctanEnc (K q : Nat) : Enc := arctanLoop (q * q) K 1 ⟨2 ^ K / q, 2 ^ K / q + 1⟩ ⟨0, 0⟩ ⟨0, 0⟩

/-- π = 16 arctan(1/5) − 4 arctan(1/239). -/
def piEnc (K : Nat) : Enc := ((arctanEnc K 5).mulN 16).sub ((arctanEnc K 239).mulN 4)

/-- sin z for 0 ≤ z < 2. -/
def sinEnc (K : Nat) (z : Enc) : Enc :=
  altSeries (fun n t => (t.mul K (z.mul K z)).divN (2 * n * (2 * n + 1))) K 1 z z ⟨0, 0⟩

/-- The widths tried. -/
def widths : List Nat := [256, 640, 1280]

/-- A real enclosed by `f K`, times 2^x, as a magnitude fine enough for a rounding: the lower end of the first enclosure
whose ends round alike. -/
def sharpen (fm : Fmt) (m : Rm) (neg : Bool) (x : Int) (f : Nat → Enc) : List Nat → Mag
  | [] => .zero
  | K :: t =>
    let e := f K
    let lo : Mag := ⟨e.lo, x - K, true⟩
    if fm.roundMag m neg lo = fm.roundMag m neg ⟨e.hi, x - K, true⟩ || t.isEmpty then lo else sharpen fm m neg x f t

/-- A magnitude at scale K, exact when its unit is at least 2^-K. -/
def Mag.atScale (g : Mag) (K : Nat) : Nat :=
  if 0 ≤ g.e + K then g.m * 2 ^ (g.e + K).toNat else g.m / 2 ^ (-(g.e + K)).toNat

/-- 2^a for a finite a (R102): beyond ±4096 every mode rounds alike. -/
def exp2Fin (fm : Fmt) (m : Rm) (neg : Bool) (g : Mag) : Fval :=
  if g.m = 0 then .fin false ⟨1, 0, false⟩
  else if 12 ≤ g.top then .fin false ⟨2 ^ 64, if neg then -4096 else 4096, true⟩
  else
    let n := rint .rd neg g
    if 0 ≤ g.e || g.m % 2 ^ (-g.e).toNat = 0 then .fin false ⟨1, n, false⟩
    else
      let fr := (scaled neg g g.e - n * 2 ^ (-g.e).toNat).toNat
      .fin false (sharpen fm m false n (fun K =>
        expEnc K ((ln2Enc K).mul K ⟨(Mag.mk fr g.e false).atScale K, (Mag.mk fr g.e false).atScale K⟩)) widths)

/-- FEXP2 (R102). -/
def Fval.exp2 (fm : Fmt) (m : Rm) : Fval → Fval
  | .nan => .nan
  | .inf neg => if neg then .zero false else .inf false
  | .fin neg g => exp2Fin fm m neg g

/-- FLOG2 (R102). -/
def Fval.log2 (fm : Fmt) (m : Rm) : Fval → Fval
  | .nan => .nan
  | .inf neg => if neg then .nan else .inf false
  | .fin neg g =>
    if g.m = 0 then .inf true
    else if neg then .nan
    else
      let n := g.top
      let l := Nat.log2 g.m
      if g.m = 2 ^ l then (if n = 0 then .zero false else .ofInt n)
      else
        let frac := fun K =>
          let d := g.m + 2 ^ l
          let z := (g.m - 2 ^ l) * 2 ^ K / d
          (artanhEnc K ⟨z, z + 1⟩).quo K (artanhEnc K ⟨2 ^ K / 3, 2 ^ K / 3 + 1⟩)
        if 0 ≤ n then
          .fin false (sharpen fm m false 0 (fun K => Enc.add ⟨n.toNat * 2 ^ K, n.toNat * 2 ^ K⟩ (frac K)) widths)
        else .fin true (sharpen fm m true 0 (fun K => Enc.sub ⟨(-n).toNat * 2 ^ K, (-n).toNat * 2 ^ K⟩ (frac K)) widths)

/-- |a| mod 2 as a count of units 2^-j, where j is the second part. -/
def mod2 (g : Mag) : Nat × Nat :=
  if 0 ≤ g.e then (g.m * 2 ^ (min g.e 1).toNat % 2, 0) else (g.m % 2 ^ ((-g.e).toNat + 1), (-g.e).toNat)

/-- sin(π · r / 2^j), r / 2^j at most 1/2, with a sign. -/
def sinPart (fm : Fmt) (m : Rm) (neg : Bool) (r j : Nat) : Fval :=
  if r = 0 then .zero false
  else if 2 * r = 2 ^ j then .fin neg ⟨1, 0, false⟩
  else .fin neg (sharpen fm m neg 0 (fun K =>
    let x := (Mag.mk r (-j) false).atScale K
    sinEnc K ((piEnc K).mul K ⟨x, x⟩)) widths)

/-- FSINPI (R102). -/
def Fval.sinpi (fm : Fmt) (m : Rm) : Fval → Fval
  | .nan => .nan
  | .inf _ => .nan
  | .fin neg g =>
    let (r, j) := mod2 g
    let one := 2 ^ j
    if r % one = 0 then .zero neg
    else
      let s := neg != decide (one ≤ r)
      let r := r % one
      sinPart fm m s (if one < 2 * r then one - r else r) j

/-- FCOSPI (R102). An operand with a unit of 2 or more is an even integer. -/
def Fval.cospi (fm : Fmt) (m : Rm) : Fval → Fval
  | .nan => .nan
  | .inf _ => .nan
  | .fin _ g =>
    let (r, j) := if 1 ≤ g.e then (0, 1) else mod2 ⟨2 * g.m, g.e - 1, false⟩
    let one := 2 ^ j
    let r := if one < r then 2 * one - r else r
    if 2 * r = one then .zero false
    else if 2 * r < one then sinPart fm m false (one / 2 - r) j
    else sinPart fm m true (r - one / 2) j

/-- e^y for 0 ≤ y < 128: e^(y/256), squared eight times. -/
def expWide (K : Nat) (y : Nat) : Enc :=
  (List.range 8).foldl (fun e _ => e.mul K e) (expEnc K ⟨y / 256, y / 256 + 1⟩)

/-- FTANH (R102): (e^(2x) − 1)/(e^(2x) + 1); from 64 on the value lies just below 1. -/
def Fval.tanh (fm : Fmt) (m : Rm) : Fval → Fval
  | .nan => .nan
  | .inf neg => .fin neg ⟨1, 0, false⟩
  | .fin neg g =>
    if g.m = 0 then .zero neg
    else if 6 ≤ g.top then .fin neg ⟨2 ^ 128 - 1, -128, true⟩
    else .fin neg (sharpen fm m neg 0 (fun K =>
      let x := expWide K ((Mag.mk g.m (g.e + 1) false).atScale K)
      Enc.quo K (x.sub ⟨2 ^ K, 2 ^ K⟩) (x.add ⟨2 ^ K, 2 ^ K⟩)) widths)

end Sys2Proof.Machine
end

