-- ==== Sys2Proof/Machine/Flags.lean ====
section
/-! DEFINITION. The mode and flag registers: the fields of MODE, DCTL and PREC as a word captures them at issue (R84, R85,
R143, R163), and the compares that write predicates (R103, R104). -/

namespace Sys2Proof.Machine

/-- What a word captures of MODE: the rounding and the flush bits (R84, R85). -/
structure ModeF where
  rm : Rm
  fz32 : Bool
  fz16 : Bool
  fz64 : Bool
  deriving DecidableEq, Repr

/-- The fields of a MODE value (R84). -/
def modeOf (x : W32) : ModeF := ⟨Rm.of x.toNat, x.getLsbD 2, x.getLsbD 3, x.getLsbD 4⟩

/-- The MODE of a lane. -/
def State.modeF (s : State) (L : LaneId) : ModeF := modeOf (s.lane L).mode

/-- The flush bit that governs a format (R68). -/
def ModeF.fz (m : ModeF) (f : Fmt) : Bool := if f = .f32 then m.fz32 else if f = .f64 then m.fz64 else m.fz16

/-- The sticky flags of DCTL (R143). -/
def flagDX : W32 := 1
def flagDI : W32 := 2
def flagDN : W32 := 4

/-- The sticky flag of PREC (R163). -/
def flagPX : W32 := 0x200000

/-- What a window word captures of PREC (R163): p, the floor, the rounding, and TE. -/
structure PrecF where
  p : Nat
  floor : Nat
  rm : Rm
  te : Bool
  deriving DecidableEq, Repr

/-- The fields of a PREC value; p = 0 stands for 512 (R163). -/
def precOf (x : W32) : PrecF :=
  let p := bits x.toNat 0 9
  ⟨if p = 0 then 512 else p, bits x.toNat 9 9, Rm.of (bits x.toNat 19 2), x.getLsbD 18⟩

/-- The values that SWRITE stores into MODE, DCTL and PREC (R84, R143, R164). -/
def modeWrite (x : W32) : W32 := x &&& 0x1F
def dctlWrite (x : W32) : W32 := x &&& 0xF7
def precWrite (x : W32) : W32 :=
  let y := x &&& 0x3FFFFF
  if y &&& 0x1FF = 1 then (y &&& 0x3FFE00) ||| 2 else y

/-- A lane's DCTL and PREC with flags merged (R86). -/
def State.mergeFlags (s : State) (L : LaneId) (df pf : W32) : State :=
  s.setLane L { s.lane L with dctl := (s.lane L).dctl ||| df, prec := (s.lane L).prec ||| pf }

/-- FSET and FSET.f64: the condition codes on encodings (R103). -/
def fcond (f : Fmt) (fz : Bool) (cc a b : Nat) : Bool :=
  let un := f.isNan a || f.isNan b
  let c := (f.get fz a).cmp (f.get fz b)
  match cc with
  | 0 => !un && c = .eq
  | 1 => un || c ≠ .eq
  | 2 => !un && c = .lt
  | 3 => !un && c ≠ .gt
  | 4 => !un && c = .gt
  | 5 => !un && c ≠ .lt
  | 6 => !un
  | _ => un

/-- ISET and ISET64: the condition codes (R103). -/
def icond {n : Nat} (cc : Nat) (a b : BitVec n) : Bool :=
  match cc with
  | 0 => a = b
  | 1 => a ≠ b
  | 2 => a.toInt < b.toInt
  | 3 => a.toInt ≤ b.toInt
  | 4 => b.toInt < a.toInt
  | 5 => b.toInt ≤ a.toInt
  | 6 => a.toNat < b.toNat
  | _ => b.toNat ≤ a.toNat

/-- The operations of PLOP (R104). -/
def plopOf (op : Nat) (a b : Bool) : Bool :=
  match op with
  | 0 => a && b
  | 1 => a || b
  | 2 => a != b
  | 3 => a && !b
  | 4 => a || !b
  | 5 => !(a && b)
  | 6 => !(a || b)
  | _ => a == b

end Sys2Proof.Machine
end

