-- ==== Sys2Proof/Machine/Float.lean ====
section
/-! DEFINITION. The floating operations of the vector formats on encodings: NaN operands by pick, then one rounding and flush
(R73, R96 to R102). -/

namespace Sys2Proof.Machine

/-- An operation on encodings: a NaN operand gives pick, else the operation on the flushed operands, rounded (R96). -/
def flop2 (f : Fmt) (m : ModeF) (op : Rm → Fval → Fval → Fval) (a b : Nat) : Nat :=
  if f.isNan a || f.isNan b then f.pick [a, b]
  else f.put m.rm (m.fz f) (op m.rm (f.get (m.fz f) a) (f.get (m.fz f) b))
def flop1 (f : Fmt) (m : ModeF) (op : Fval → Fval) (a : Nat) : Nat :=
  if f.isNan a then f.pick [a] else f.put m.rm (m.fz f) (op (f.get (m.fz f) a))
def flop3 (f : Fmt) (m : ModeF) (op : Rm → Fval → Fval → Fval → Fval) (a b c : Nat) : Nat :=
  if f.isNan a || f.isNan b || f.isNan c then f.pick [a, b, c]
  else f.put m.rm (m.fz f) (op m.rm (f.get (m.fz f) a) (f.get (m.fz f) b) (f.get (m.fz f) c))

/-- a + b, a − b, a · b, a / b (R96, R98). -/
def opAdd (m : Rm) (a b : Fval) : Fval := a.add m b
def opSub (m : Rm) (a b : Fval) : Fval := a.add m b.neg
def opMul (_ : Rm) (a b : Fval) : Fval := a.mul b
def opDiv (_ : Rm) (a b : Fval) : Fval := a.div 64 b

/-- a · b + c, a · b − c, −(a · b) + c (R99). -/
def opFma (m : Rm) (a b c : Fval) : Fval := (a.mul b).add m c
def opFms (m : Rm) (a b c : Fval) : Fval := (a.mul b).add m c.neg
def opFnma (m : Rm) (a b c : Fval) : Fval := (a.mul b).neg.add m c

/-- FMIN and FMAX: one of the flushed sources, unrounded (R96). -/
def fminOf (f : Fmt) (m : ModeF) (a b : Nat) : Nat :=
  if f.isNan a || f.isNan b then f.pick [a, b]
  else
    let x := f.flushIn (m.fz f) a
    let y := f.flushIn (m.fz f) b
    if (f.val y).before (f.val x) then y else x
def fmaxOf (f : Fmt) (m : ModeF) (a b : Nat) : Nat :=
  if f.isNan a || f.isNan b then f.pick [a, b]
  else
    let x := f.flushIn (m.fz f) a
    let y := f.flushIn (m.fz f) b
    if (f.val x).before (f.val y) then y else x

/-- FMINN and FMAXN: where exactly one source is a NaN, the other (R96). -/
def numOr (f : Fmt) (m : ModeF) (g : Fmt → ModeF → Nat → Nat → Nat) (a b : Nat) : Nat :=
  if f.isNan a && !f.isNan b then f.flushIn (m.fz f) b
  else if f.isNan b && !f.isNan a then f.flushIn (m.fz f) a
  else g f m a b

/-- FRINT, FFLOOR, FCEIL and FTRUNC: an integral value with the sign kept on zero (R96). -/
def rintOf (f : Fmt) (m : ModeF) (r : Rm) (a : Nat) : Nat :=
  flop1 f m (fun x =>
    match x with
    | .fin neg g => .fin neg ⟨g.units (max 0 g.e) r neg, max 0 g.e, false⟩
    | y => y) a

/-- FLDEXP (R96): a scaling beyond ±1000 rounds as one of ±1000 does, for every f32. -/
def ldexpOf (f : Fmt) (m : ModeF) (a : Nat) (k : Int) : Nat := flop1 f m (Fval.scale (max (-1000) (min 1000 k))) a

/-- fexpo of R96. -/
def fexpo (m : ModeF) (a : W32) : W32 :=
  match Fmt.f32.get m.fz32 a.toNat with
  | .fin _ g => if g.m = 0 then 0x80000000 else BitVec.ofInt 32 g.top
  | _ => 0x7FFFFFFF

/-- fclass of R96. -/
def fclass (a : W32) : W32 :=
  let f := Fmt.f32
  let x := a.toNat
  let g := f.mag x
  let n := f.neg x
  if f.isNan x then (if a.getLsbD 22 then 0x200 else 0x100)
  else if g = f.infBits then (if n then 1 else 0x80)
  else if g = 0 then (if n then 8 else 0x10)
  else if f.isSub x then (if n then 4 else 0x20)
  else (if n then 2 else 0x40)

/-- One f32 result from two f32 sources of a lane, and from one and three. -/
def State.fbin (s : State) (o : V3) (g : Fmt → ModeF → Nat → Nat → Nat) (L : LaneId) : LaneOut :=
  s.bin o (fun a b => BitVec.ofNat 32 (g .f32 (s.modeF L) a.toNat b.toNat)) L
def State.fun1 (s : State) (o : V3U) (g : Fmt → ModeF → Nat → Nat) (L : LaneId) : LaneOut :=
  s.un o (fun a => BitVec.ofNat 32 (g .f32 (s.modeF L) a.toNat)) L
def State.ftri (s : State) (o : V4) (op : Rm → Fval → Fval → Fval → Fval) (L : LaneId) : LaneOut :=
  s.tri o (fun a b c => BitVec.ofNat 32 (flop3 .f32 (s.modeF L) op a.toNat b.toNat c.toNat)) L

/-- The same on f64 pairs (R98). -/
def State.dbin (s : State) (o : V3) (g : Fmt → ModeF → Nat → Nat → Nat) (L : LaneId) : LaneOut :=
  s.bin64 o (fun a b => BitVec.ofNat 64 (g .f64 (s.modeF L) a.toNat b.toNat)) L
def State.dun (s : State) (o : V3U) (g : Fmt → ModeF → Nat → Nat) (L : LaneId) : LaneOut :=
  s.un64 o (fun a => BitVec.ofNat 64 (g .f64 (s.modeF L) a.toNat)) L

/-- Two 16-bit elements, each on its own (R72, R97). -/
def halves (g : Nat → Nat → Nat) (a b : Nat) : Nat := g (a % 2 ^ 16) (b % 2 ^ 16) + g (a / 2 ^ 16) (b / 2 ^ 16) * 2 ^ 16
def State.hbin (s : State) (o : V3) (f : Fmt) (g : Fmt → ModeF → Nat → Nat → Nat) (L : LaneId) : LaneOut :=
  s.bin o (fun a b => BitVec.ofNat 32 (halves (g f (s.modeF L)) a.toNat b.toNat)) L
def State.htri (s : State) (o : V4) (f : Fmt) (op : Rm → Fval → Fval → Fval → Fval) (L : LaneId) : LaneOut :=
  s.tri o (fun a b c => BitVec.ofNat 32
    (flop3 f (s.modeF L) op (a.toNat % 2 ^ 16) (b.toNat % 2 ^ 16) (c.toNat % 2 ^ 16) +
      flop3 f (s.modeF L) op (a.toNat / 2 ^ 16) (b.toNat / 2 ^ 16) (c.toNat / 2 ^ 16) * 2 ^ 16)) L

end Sys2Proof.Machine
end

