-- ==== Sys2Proof/Machine/Dist.lean ====
section
/-! DEFINITION. Distribution registers: condensation, pairing, and major 19 (R142 to R152). -/

namespace Sys2Proof.Machine

/-- Whether a distribution register is valid: its weights sum to 32,768 (R142). -/
def DVal.valid (x : DVal) : Bool := (x.atoms.map (fun a => a.2.toNat)).foldl (· + ·) 0 = 32768

/-- The place of an f32 encoding in the condensation order (R147). -/
def condKey (x : W32) : Int :=
  if Fmt.f32.isNan x.toNat then 2 ^ 40 else if x.msb then -(Fmt.f32.mag x.toNat : Int) - 1 else Fmt.f32.mag x.toNat

/-- Whether values are non-decreasing in the condensation order. -/
def inOrder : List W32 → Bool
  | x :: y :: t => condKey x ≤ condKey y && inOrder (y :: t)
  | _ => true

/-- A register value from its atoms; the sorted bit is recomputed (R142). -/
def DVal.make (atoms : List (W32 × H16)) (tag : H16) : DVal := ⟨atoms, tag, inOrder (atoms.map (fun a => a.1))⟩

/-- Eight values with equal weights. -/
def DVal.even (xs : List W32) (tag : H16) : DVal := DVal.make (xs.map (fun x => (x, 4096))) tag

/-- DN of a written value: a NaN whose weight is not zero (R149). -/
def DVal.dn (x : DVal) : W32 := if x.atoms.any (fun a => Fmt.f32.isNan a.1.toNat && a.2 ≠ 0) then flagDN else 0

/-- An atom before condensation: value, mass, i and j (R147). -/
structure Atom where
  x : W32
  m : Nat
  i : Nat
  j : Nat
  deriving DecidableEq, Repr

/-- The condensation order of atoms (R147). -/
def Atom.before (a b : Atom) : Bool :=
  condKey a.x < condKey b.x || (condKey a.x = condKey b.x && (a.i < b.i || (a.i = b.i && a.j < b.j)))

/-- The pieces of the atoms in the bin [lo, hi), `c` the mass before the first atom (R147). -/
def piecesIn (lo hi : Nat) : Nat → List Atom → List (W32 × Nat)
  | _, [] => []
  | c, a :: t =>
    let from_ := max lo c
    let to_ := min hi (c + a.m)
    if from_ < to_ then (a.x, to_ - from_) :: piecesIn lo hi (c + a.m) t else piecesIn lo hi (c + a.m) t

/-- An exact weighted sum, folded by the sum of R69. -/
def weighted (m : Rm) (ps : List (W32 × Nat)) : Fval :=
  match ps.map (fun p => (Fmt.f32.val p.1.toNat).mul (.ofInt p.2)) with
  | [] => .zero false
  | x :: t => t.foldl (fun acc y => acc.add m y) x

/-- binval of R147, for a bin of 2^k units of mass. -/
def binval (m : ModeF) (k : Nat) (ps : List (W32 × Nat)) : W32 :=
  match ps.find? (fun p => Fmt.f32.isNan p.1.toNat) with
  | some p => BitVec.ofNat 32 (Fmt.f32.quiet p.1.toNat)
  | none => BitVec.ofNat 32 (Fmt.f32.put m.rm m.fz32 ((weighted m.rm ps).scale (-k)))

/-- emc of R147, for a total mass of 2^(k + 3). -/
def emc (m : ModeF) (k : Nat) (atoms : List Atom) : List W32 :=
  let l := sortBy Atom.before (atoms.filter (fun a => 0 < a.m))
  (List.range 8).map (fun b => binval m k (piecesIn (b * 2 ^ k) ((b + 1) * 2 ^ k) 0 l))

/-- A distribution word of a lane: its destinations are empty until it completes (R144). -/
def distOut (ws : List RegW) (df : W32) : LaneOut :=
  .done { empties := ws.map (fun w => (w.cls, w.num)), pend := some (false, ws, df, 0) }

/-- The result for an invalid source (R150). -/
def dbad (d : Nat) (tag : H16) : LaneOut := distOut [.d d (DVal.even (List.replicate 8 0x7FC00000) tag)] (flagDI ||| flagDN)

/-- A value read under FZ32 (R145). -/
def inF (m : ModeF) (x : W32) : W32 := BitVec.ofNat 32 (Fmt.f32.flushIn m.fz32 x.toNat)

/-- The atoms that a pairing forms, and DX (R146). -/
def pairing (g : Nat → Nat → Nat) (a b : DVal) : List Atom × W32 :=
  let op := fun (x y : W32) => BitVec.ofNat 32 (g x.toNat y.toNat)
  if a.tag = b.tag && a.tag ≠ 0 then
    ((a.atoms.zip b.atoms).mapIdx (fun i p => ⟨op p.1.1 p.2.1, p.1.2.toNat * 2 ^ 15, i, 0⟩),
      if a.atoms.map (fun x => x.2) = b.atoms.map (fun x => x.2) then 0 else flagDX)
  else
    ((a.atoms.mapIdx (fun i x => b.atoms.mapIdx (fun j y =>
        (⟨op x.1 y.1, x.2.toNat * y.2.toNat, i, j⟩ : Atom)))).flatten,
      if a.tag &&& b.tag = 0 then 0 else flagDX)

/-- DADD to DMIN (R146, R150). -/
def State.dbinary (s : State) (d a b : Nat) (g : ModeF → Nat → Nat → Nat) (L : LaneId) : LaneOut :=
  let x := s.getD L a
  let y := s.getD L b
  let m := s.modeF L
  if !x.valid || !y.valid then dbad d (x.tag ||| y.tag)
  else
    let p := pairing (g m) x y
    let r := DVal.even (emc m 27 p.1) (x.tag ||| y.tag)
    distOut [.d d r] (p.2 ||| r.dn)

/-- DMIX (R151). -/
def State.dmixture (s : State) (d a b v : Nat) (L : LaneId) : LaneOut :=
  let x := s.getD L a
  let y := s.getD L b
  let m := s.modeF L
  if !x.valid || !y.valid then dbad d (x.tag ||| y.tag)
  else
    let lam := min (s.getV L v).toNat 65536
    let r := DVal.even (emc m 28
      (x.atoms.mapIdx (fun i z => ⟨inF m z.1, z.2.toNat * lam, i, 0⟩) ++
        y.atoms.mapIdx (fun i z => ⟨inF m z.1, z.2.toNat * (65536 - lam), 8 + i, 0⟩))) (x.tag ||| y.tag)
    distOut [.d d r] r.dn

/-- DNEG to DEXP2: each value mapped, weights, tag and order kept (R152). -/
def State.dunary (s : State) (d a : Nat) (g : ModeF → W32 → W32) (L : LaneId) : LaneOut :=
  let x := s.getD L a
  let r := DVal.make (x.atoms.map (fun z => (g (s.modeF L) z.1, z.2))) x.tag
  distOut [.d d r] (r.dn ||| (if x.valid then 0 else flagDI))

/-- DMOV and DTAG: the register copied, with another tag for DTAG (R152, R158). -/
def State.dcopy (s : State) (d a : Nat) (tag : Option H16) (L : LaneId) : LaneOut :=
  let x := s.getD L a
  distOut [.d d { x with tag := tag.getD x.tag }] 0

/-- DADD (R150). -/
def execDadd (d : BitVec 4) (a : BitVec 4) (b : BitVec 4) (s : State) : Out :=
  ok (s.perLane (s.guard (.dadd d a b)) (s.dbinary d.toNat a.toNat b.toNat (fun m => flop2 .f32 m opAdd)))

/-- DSUB (R150). -/
def execDsub (d : BitVec 4) (a : BitVec 4) (b : BitVec 4) (s : State) : Out :=
  ok (s.perLane (s.guard (.dsub d a b)) (s.dbinary d.toNat a.toNat b.toNat (fun m => flop2 .f32 m opSub)))

/-- DMUL (R150). -/
def execDmul (d : BitVec 4) (a : BitVec 4) (b : BitVec 4) (s : State) : Out :=
  ok (s.perLane (s.guard (.dmul d a b)) (s.dbinary d.toNat a.toNat b.toNat (fun m => flop2 .f32 m opMul)))

/-- DMAX (R150). -/
def execDmax (d : BitVec 4) (a : BitVec 4) (b : BitVec 4) (s : State) : Out :=
  ok (s.perLane (s.guard (.dmax d a b)) (s.dbinary d.toNat a.toNat b.toNat (fmaxOf .f32)))

/-- DMIN (R150). -/
def execDmin (d : BitVec 4) (a : BitVec 4) (b : BitVec 4) (s : State) : Out :=
  ok (s.perLane (s.guard (.dmin d a b)) (s.dbinary d.toNat a.toNat b.toNat (fminOf .f32)))

/-- DMIX (R151). -/
def execDmix (d : BitVec 4) (a : BitVec 4) (b : BitVec 4) (v : BitVec 6) (s : State) : Out :=
  ok (s.perLane (s.guard (.dmix d a b v)) (s.dmixture d.toNat a.toNat b.toNat v.toNat))

/-- DNEG (R152). -/
def execDneg (d : BitVec 4) (a : BitVec 4) (s : State) : Out :=
  ok (s.perLane (s.guard (.dneg d a)) (s.dunary d.toNat a.toNat (fun _ x => x ^^^ 0x80000000)))

/-- DAFF (R152). -/
def execDaff (d : BitVec 4) (a : BitVec 4) (v : BitVec 6) (s : State) : Out :=
  ok (s.perLane (s.guard (.daff d a v)) (fun L => s.dunary d.toNat a.toNat (fun m x => BitVec.ofNat 32
    (flop3 .f32 m opFma x.toNat (s.getV L v.toNat).toNat (s.getV L (v.toNat + 1)).toNat)) L))

/-- DRELU (R152). -/
def execDrelu (d : BitVec 4) (a : BitVec 4) (s : State) : Out :=
  ok (s.perLane (s.guard (.drelu d a)) (s.dunary d.toNat a.toNat (fun m x => BitVec.ofNat 32 (fmaxOf .f32 m x.toNat 0))))

/-- DEXP2 (R152). -/
def execDexp2 (d : BitVec 4) (a : BitVec 4) (s : State) : Out :=
  ok (s.perLane (s.guard (.dexp2 d a)) (s.dunary d.toNat a.toNat
    (fun m x => BitVec.ofNat 32 (flop1 .f32 m (Fval.exp2 .f32 m.rm) x.toNat))))

/-- DMOV (R152). -/
def execDmov (d : BitVec 4) (a : BitVec 4) (s : State) : Out :=
  ok (s.perLane (s.guard (.dmov d a)) (s.dcopy d.toNat a.toNat none))

end Sys2Proof.Machine
end

