-- ==== Sys2Proof/Machine/Window.lean ====
section
/-! DEFINITION. Variable-precision windows: values, the commit of every result, exhaustion, and the WREC record (R81 to R83,
R165 to R170). -/

namespace Sys2Proof.Machine

/-- An exact result: NaN, an infinity or a zero with its sign, or a signed non-zero magnitude. -/
inductive Wnum where
  | nan (neg : Bool)
  | inf (neg : Bool)
  | zero (neg : Bool)
  | fin (neg : Bool) (g : Mag)
  deriving DecidableEq, Repr

def Wnum.neg : Wnum → Bool
  | .nan n => n
  | .inf n => n
  | .zero n => n
  | .fin n _ => n

/-- The value with another sign, and with the opposite one. -/
def Wnum.withSign (neg : Bool) : Wnum → Wnum
  | .nan _ => .nan neg
  | .inf _ => .inf neg
  | .zero _ => .zero neg
  | .fin _ g => .fin neg g
def Wnum.negate (x : Wnum) : Wnum := x.withSign (!x.neg)

/-- The code of a class (R81). -/
def WClass.code : WClass → Nat
  | .zero => 0
  | .fin => 1
  | .inf => 2
  | .nan => 3

/-- What a register holds, as a number (R165). -/
def WVal.num (x : WVal) : Wnum :=
  match x.cls with
  | .zero => .zero x.neg
  | .inf => .inf x.neg
  | .nan => .nan x.neg
  | .fin => .fin x.neg ⟨x.sig, x.exp - x.len + 1, false⟩

/-- ulast and ub of R168; none is −∞. -/
def WVal.ulast (x : WVal) : Option Int :=
  match x.cls with
  | .fin => some (x.exp - x.valid + 1)
  | .zero => if x.valid < x.len then some (x.exp - x.valid + 1) else none
  | _ => none
def WVal.ub (x : WVal) : Option Int :=
  match x.cls with
  | .fin => some (x.exp + 1)
  | _ => x.ulast

/-- How many bits of a result are valid (R167): all, a count, or those above a last valid exponent. -/
inductive Rule where
  | exact
  | count (n : Int)
  | last (u : Int)
  deriving DecidableEq, Repr

/-- The sum of two signed magnitudes, none for zero. Magnitudes further apart than any window is long leave only a rest. -/
def addMag (na : Bool) (a : Mag) (nb : Bool) (b : Mag) : Option (Bool × Mag) :=
  let (nx, x, ny, y) := if a.top < b.top then (nb, b, na, a) else (na, a, nb, b)
  if y.top + 1200 < x.e then
    let m := x.m * 2 ^ 1200
    some (nx, ⟨if nx = ny then m else m - 1, x.e - 1200, true⟩)
  else
    let e := min x.e y.e
    let z := scaled nx x e + scaled ny y e
    if z = 0 then none else some (z < 0, ⟨z.natAbs, e, false⟩)

/-- clamp32 of R167. -/
def clamp32 (x : Int) : Int := max (-2 ^ 31) (min (2 ^ 31 - 1) x)

/-- sat(n, 0, L) as a count. -/
def satCount (n : Int) (l : Nat) : Nat := (max 0 (min (l : Int) n)).toNat

/-- The register value that commit of R167 writes: `cap` limbs, rounding m, length len. -/
def commitVal (cap : Nat) (m : Rm) (y : Wnum) (r : Rule) (len : Nat) : WVal :=
  let lr := min len (64 * cap)
  if cap = 0 then ⟨y.neg, .nan, 0, 0, 0, 0, cap⟩
  else if lr = 0 then
    ⟨y.neg, (match y with | .nan _ => .nan | .inf _ => .inf | _ => .zero), 0, 0, 0, 0, cap⟩
  else match y with
    | .nan n => ⟨n, .nan, 0, lr, 0, 0, cap⟩
    | .inf n => ⟨n, .inf, 0, lr, 0, 0, cap⟩
    | .zero n =>
      match r with
      | .exact => ⟨n, .zero, 0, lr, lr, 0, cap⟩
      | .last u => ⟨n, .zero, clamp32 (u - 1), lr, 0, 0, cap⟩
      | .count _ => ⟨n, .zero, 0, lr, lr, 0, cap⟩
    | .fin n g =>
      if g.top < -2 ^ 31 then ⟨n, .zero, -2 ^ 31, lr, 0, 0, cap⟩
      else
        let q := g.toBits lr m n
        let e := q.2 + (lr : Int) - 1
        if 2 ^ 31 - 1 < e then
          (if m = .rne || (m = .ru && !n) || (m = .rd && n) then ⟨n, .inf, 0, lr, 0, 0, cap⟩
           else ⟨n, .fin, 2 ^ 31 - 1, lr, 0, 2 ^ lr - 1, cap⟩)
        else
          let v := match r with
            | .exact => lr
            | .count k => satCount k lr
            | .last u => satCount (e - u + 1) lr
          ⟨n, .fin, e, lr, v, q.1, cap⟩

/-- Whether a number is a zero. -/
def Wnum.isZero : Wnum → Bool
  | .zero _ => true
  | .nan _ | .inf _ | .fin _ _ => false

/-- Exhaustion (R167, R169): `y` is the number committed, `x` what is written. -/
def exhausted (cap floor len : Nat) (y : Wnum) (x : WVal) : Bool :=
  64 * cap < len || (x.valid < floor && !(y.isZero && x.len = 0))

/-- The PREC that a word of a lane captures (R85). -/
def State.precF (s : State) (L : LaneId) : PrecF := precOf (s.lane L).prec

/-- TVAL of the exhaustion trap (R62). Its bit 23 says that the length asked for exceeded the capacity. R62 says "when p exceeded
the destination's capacity": for WNEG, WABS, WMOV and WSETL, whose length is not p, the model takes their length, which is its
choice (log entry 93). -/
def exhaustTval (d : Nat) (p : PrecF) (x : WVal) (wide : Bool) : D64 :=
  BitVec.ofNat 64 (d + x.valid * 2 ^ 5 + p.floor * 2 ^ 14 + b2n wide * 2 ^ 23)

/-- A word, with its registers, that writes a w register. With TE set it holds its lane at the word until WINDOW_COMPLETION, which writes the result or
takes trap 7, and its destination is not empty meanwhile (R169); with TE clear the destination is empty until it completes
(R170). -/
def State.windowOut (s : State) (L : LaneId) (us : List RegUse) (d : Nat) (y : Wnum × Rule × Nat) : LaneOut :=
  let p := s.precF L
  let cap := (s.getW L d).cap
  let x := commitVal cap p.rm y.1 y.2.1 y.2.2
  let ex := exhausted cap p.floor y.2.2 y.1 x
  if p.te then
    .done { te := some (if ex then ([], some (exhaustTval d p x (64 * cap < y.2.2)), s.captured L us)
        else ([.w d x], none, s.captured L us)), go := .hold .te }
  else .done { empties := [(.w, d)], pend := some (true, [.w d x], 0, if ex then flagPX else 0) }

/-- A window word that writes v registers (R170). -/
def wvOut (ws : List RegW) : LaneOut :=
  .done { empties := ws.map (fun w => (w.cls, w.num)), pend := some (true, ws, 0, 0) }

/-! ### The WREC record (R81, R82) -/

/-- Limbs of a length. -/
def limbsOf (len : Nat) : Nat := (len + 63) / 64

/-- The record that a register stores. -/
def WVal.record (x : WVal) : List Byte :=
  let h := b2n x.neg + x.cls.code * 2 + limbsOf x.len * 2 ^ 4 + x.len % 512 * 2 ^ 8 + min x.valid 511 * 2 ^ 17 +
    wrapTo 32 x.exp * 2 ^ 32
  leBytes 8 h ++ leBytes (8 * limbsOf x.len) (if x.cls = .fin then x.sig else 0)

/-- The limb count, length and valid count of a header, if its fields are well formed (R82). -/
def wrecHead (h : Nat) : Option (Nat × Nat × Nat) :=
  let n := bits h 4 4
  let c := bits h 8 9
  let l := if c = 0 then 64 * n else c
  let v := bits h 17 9
  if bits h 26 6 = 0 && bits h 3 1 = 0 && n ≤ 8 && n = limbsOf l && c ≠ 1 && v ≤ l && !(bits h 1 2 = 1 && l = 0) then
    some (n, l, v)
  else none

/-- Bytes of the record that starts with a header: a malformed header is read alone (R176). -/
def wrecSize (h : List Byte) : Nat :=
  match wrecHead (leAt h 0 8) with
  | some (n, _, _) => 8 + 8 * n
  | none => 8

/-- What WLD and WLDS commit for a record: the number, the rule and the length (R82, R168, R176). -/
def wrecValue (cap : Nat) (b : List Byte) : Wnum × Rule × Nat :=
  let h := leAt b 0 8
  let neg := bitOf h 0
  let m := ofLe (b.drop 8)
  match wrecHead h with
  | none => (.nan neg, .exact, 64 * cap)
  | some (n, l, v) =>
    let e := sext 32 (bits h 32 32)
    let m := m % 2 ^ (64 * n)
    let ok := match bits h 1 2 with
      | 1 => 2 ^ (l - 1) ≤ m && m < 2 ^ l
      | _ => m = 0
    if !ok then (.nan neg, .exact, 64 * cap)
    else match bits h 1 2 with
      | 0 => (.zero neg, if v < l then .last (e - v + 1) else .exact, l)
      | 1 => (.fin neg ⟨m, e - l + 1, false⟩, .count v, l)
      | 2 => (.inf neg, .exact, l)
      | _ => (.nan neg, .exact, l)

/-- What WLD and WLDS write for a record, and whether it counts as exhausted (R82, R167, R168, R176). A zero of 512 bits whose
valid count stands as 511 is read back with V = 511 and its e (R81), where the rule of R168 would make it an uncertain zero with
V = 0: the manual gives both, and the model follows R81 (log entry 94). -/
def wldCommit (cap : Nat) (p : PrecF) (b : List Byte) : WVal × Bool :=
  let y := wrecValue cap b
  let h := leAt b 0 8
  let x := commitVal cap p.rm y.1 y.2.1 y.2.2
  let x := if y.1.isZero && y.2.2 = 512 && bits h 17 9 = 511 && cap = 8 then { x with exp := sext 32 (bits h 32 32), valid := 511 } else x
  (x, exhausted cap p.floor y.2.2 y.1 x)

end Sys2Proof.Machine
end

