-- ==== Sys2Proof/Machine/Load.lean ====
section
/-! DEFINITION. Major 12: loads (R200 to R207, R160, R176, R177). -/

namespace Sys2Proof.Machine

/-- The address of WLDS and WSTS (R177). -/
def State.strideAddr (s : State) (L : LaneId) (base off imm : Nat) : D64 :=
  s.getS L base + (s.getV L off).zeroExtend 64 * s.getS L (base + 1) + BitVec.ofNat 64 (8 * imm)

/-- The registers that a load of `n` bytes fills: one for up to 4 bytes, else a pair or a quad (R206). -/
def loadRegs (d n : Nat) : List (RegClass × Nat) := (List.range (max 1 (n / 4))).map (fun i => (.v, d + i))

/-- A load of `n` bytes into v registers: its destinations are empty until it is answered (R203, R206). -/
def State.loadOut (s : State) (o : Ld) (n : Nat) (signed : Bool) (L : LaneId) : LaneOut :=
  .done { empties := loadRegs o.d.toNat n,
          asks := [⟨.ld o.d.toNat signed, s.effAddr L o.base.toNat o.off.toNat (n * o.imm.toNat), n, 0, 0, []⟩] }

/-- A record load: the header is read first, for its length (R176); PREC is captured (R85). -/
def State.recordLoad (s : State) (L : LaneId) (d : Nat) (a : D64) : LaneOut :=
  .done { empties := [(.w, d)], asks := [⟨.wld d, a, 8, 7, (s.lane L).prec, []⟩] }

/-- LD_S8 (R206). -/
def execLdS8 (o : Ld) (s : State) : Out := ok (s.perLane (s.guard (.ldS8 o)) (s.loadOut o 1 true))

/-- LD_Z8 (R206). -/
def execLdZ8 (o : Ld) (s : State) : Out := ok (s.perLane (s.guard (.ldZ8 o)) (s.loadOut o 1 false))

/-- LD_S16 (R206). -/
def execLdS16 (o : Ld) (s : State) : Out := ok (s.perLane (s.guard (.ldS16 o)) (s.loadOut o 2 true))

/-- LD_Z16 (R206). -/
def execLdZ16 (o : Ld) (s : State) : Out := ok (s.perLane (s.guard (.ldZ16 o)) (s.loadOut o 2 false))

/-- LD_B32 (R206). -/
def execLdB32 (o : Ld) (s : State) : Out := ok (s.perLane (s.guard (.ldB32 o)) (s.loadOut o 4 false))

/-- LD_B64 (R206). -/
def execLdB64 (o : Ld) (s : State) : Out := ok (s.perLane (s.guard (.ldB64 o)) (s.loadOut o 8 false))

/-- LD_B128 (R206). -/
def execLdB128 (o : Ld) (s : State) : Out := ok (s.perLane (s.guard (.ldB128 o)) (s.loadOut o 16 false))

/-- SLD_B64 (R206). -/
def execSldB64 (o : Sld) (s : State) : Out := ok (s.once (s.guard (.sldB64 o)) (fun e =>
    .done { empties := [(.s, o.d.toNat)],
            asks := [⟨.sld o.d.toNat, s.getS (s.sel.lane (e.headD 0)) o.base.toNat + BitVec.ofNat 64 (8 * o.imm.toNat), 8, 0, 0, []⟩] }))

/-- DLD (R160). -/
def execDld (o : LdD) (s : State) : Out := ok (s.perLane (s.guard (.dld o)) (fun L =>
    .done { empties := [(.d, o.d.toNat)],
            asks := [⟨.dld o.d.toNat, s.effAddr L o.base.toNat o.off.toNat (48 * o.imm.toNat), 48, 7,
              ((s.lane L).dctl >>> 4) &&& 0xF, []⟩] }))

/-- WLD (R176). -/
def execWld (o : LdW) (s : State) : Out := ok (s.perLane (s.guard (.wld o)) (fun L =>
    s.recordLoad L o.d.toNat (s.effAddr L o.base.toNat o.off.toNat (8 * o.imm.toNat))))

/-- WLDS (R177). -/
def execWlds (o : LdW) (s : State) : Out := ok (s.perLane (s.guard (.wlds o)) (fun L =>
    s.recordLoad L o.d.toNat (s.strideAddr L o.base.toNat o.off.toNat o.imm.toNat)))

/-- PRF (R207). -/
def execPrf (o : Pf) (s : State) : Out := ok (s.perLane (s.guard (.prf o)) (fun L =>
    .done { asks := [⟨.prf, lineAddr (s.effAddr L o.base.toNat o.off.toNat (128 * o.imm.toNat)), 128, 0, 0, []⟩] }))

end Sys2Proof.Machine
end

