-- ==== Sys2Proof/Machine/Store.lean ====
section
/-! DEFINITION. Major 13: stores (R208, R160, R176, R177). -/

namespace Sys2Proof.Machine

/-- Consecutive v registers as one number, the lowest first (R208). -/
def State.vRun (s : State) (L : LaneId) (n cnt : Nat) : Nat :=
  ofLe (((List.range cnt).map (fun i => leBytes 4 (s.getV L (n + i)).toNat)).flatten)

/-- A store of the low `n` bytes of its data registers (R208). -/
def State.storeOut (s : State) (o : St) (n : Nat) (L : LaneId) : LaneOut :=
  .done { asks := [⟨.st (s.vRun L o.d.toNat (max 1 (n / 4)) % 2 ^ (8 * n)),
                    s.effAddr L o.base.toNat o.off.toNat (n * o.imm.toNat), n, 1, 0, []⟩] }

/-- The D48 record of a distribution register, as a number (R80, R160). -/
def DVal.record (x : DVal) : Nat :=
  ofLe ((x.atoms.map (fun a => leBytes 4 a.1.toNat)).flatten ++ (x.atoms.map (fun a => leBytes 2 a.2.toNat)).flatten)

/-- WST and WSTS: one record of the register (R176). -/
def State.recordStore (s : State) (L : LaneId) (d : Nat) (a : D64) : LaneOut :=
  let r := (s.getW L d).record
  .done { asks := [⟨.st (ofLe r), a, r.length, 8, 0, []⟩] }

/-- ST_B8 (R208). -/
def execStB8 (o : St) (s : State) : Out := ok (s.perLane (s.guard (.stB8 o)) (s.storeOut o 1))

/-- ST_B16 (R208). -/
def execStB16 (o : St) (s : State) : Out := ok (s.perLane (s.guard (.stB16 o)) (s.storeOut o 2))

/-- ST_B32 (R208). -/
def execStB32 (o : St) (s : State) : Out := ok (s.perLane (s.guard (.stB32 o)) (s.storeOut o 4))

/-- ST_B64 (R208). -/
def execStB64 (o : St) (s : State) : Out := ok (s.perLane (s.guard (.stB64 o)) (s.storeOut o 8))

/-- ST_B128 (R208). -/
def execStB128 (o : St) (s : State) : Out := ok (s.perLane (s.guard (.stB128 o)) (s.storeOut o 16))

/-- SST_B64 (R208). -/
def execSstB64 (o : Sst) (s : State) : Out := ok (s.once (s.guard (.sstB64 o)) (fun e =>
    let L := s.sel.lane (e.headD 0)
    .done { asks := [⟨.st (s.getS L o.d.toNat).toNat, s.getS L o.base.toNat + BitVec.ofNat 64 (8 * o.imm.toNat), 8, 1, 0, []⟩] }))

/-- A lane whose word reads a distribution: DI is set where the register is invalid (R145). -/
def State.readsDist (s : State) (L : LaneId) (n : Nat) : Option Lane :=
  if (s.getD L n).valid then none else some { s.lane L with dctl := (s.lane L).dctl ||| flagDI }

/-- DST (R160). Reading an invalid register sets DI (R145). -/
def execDst (o : StD) (s : State) : Out := ok (s.perLane (s.guard (.dst o)) (fun L =>
    .done { lane := s.readsDist L o.d.toNat
            asks := [⟨.st (s.getD L o.d.toNat).record, s.effAddr L o.base.toNat o.off.toNat (48 * o.imm.toNat), 48, 8, 0, []⟩] }))

/-- WST (R176). -/
def execWst (o : StW) (s : State) : Out := ok (s.perLane (s.guard (.wst o)) (fun L =>
    s.recordStore L o.d.toNat (s.effAddr L o.base.toNat o.off.toNat (8 * o.imm.toNat))))

/-- WSTS (R177). -/
def execWsts (o : StW) (s : State) : Out := ok (s.perLane (s.guard (.wsts o)) (fun L =>
    s.recordStore L o.d.toNat (s.strideAddr L o.base.toNat o.off.toNat o.imm.toNat)))

end Sys2Proof.Machine
end

