-- ==== Sys2Proof/Machine/Vint.lean ====
section
/-! DEFINITION. Majors 0 and 1: integer arithmetic and logic, and its immediate forms (R94, R95). -/

namespace Sys2Proof.Machine

/-- shl32 and shl64 of R94: zero from the width on. -/
def shl {n : Nat} (a : BitVec n) (c : Nat) : BitVec n := if n ≤ c then 0 else a <<< c

/-- shr32 and shr64 of R94 with fill 0. -/
def shrZ {n : Nat} (a : BitVec n) (c : Nat) : BitVec n := if n ≤ c then 0 else a >>> c

/-- shr32 and shr64 of R94 with the sign as fill. -/
def shrS {n : Nat} (a : BitVec n) (c : Nat) : BitVec n :=
  if n ≤ c then (if a.msb then BitVec.allOnes n else 0) else a.sshiftRight c

/-- floor(sa · sb / 2^32), signed (R94). -/
def mulhS (a b : W32) : W32 := BitVec.ofInt 32 (a.toInt * b.toInt / 2 ^ 32)

/-- floor(a · b / 2^32), unsigned (R94). -/
def mulhZ (a b : W32) : W32 := BitVec.ofNat 32 (a.toNat * b.toNat / 2 ^ 32)

/-- The lesser and the greater, signed and unsigned (R94). -/
def minS {n : Nat} (a b : BitVec n) : BitVec n := if a.toInt ≤ b.toInt then a else b
def maxS {n : Nat} (a b : BitVec n) : BitVec n := if a.toInt ≤ b.toInt then b else a
def minZ (a b : W32) : W32 := if a.toNat ≤ b.toNat then a else b
def maxZ (a b : W32) : W32 := if a.toNat ≤ b.toNat then b else a

/-- |sa − sb| (R94). -/
def absdS (a b : W32) : W32 := BitVec.ofNat 32 (a.toInt - b.toInt).natAbs

/-- Number of set bits (R94). -/
def popcount (a : W32) : W32 := BitVec.ofNat 32 ((List.range 32).filter (fun i => a.getLsbD i)).length

/-- Number of leading zero bits (R94). -/
def clz (a : W32) : W32 := BitVec.ofNat 32 (if a = 0 then 32 else 31 - Nat.log2 a.toNat)

/-- Bit i of the result is bit 31 − i (R94). -/
def bitRev (a : W32) : W32 := BitVec.ofNat 32 (maskOf ((List.range 32).filter (fun i => a.getLsbD (31 - i))))

/-- bfx of R94. -/
def bfx (signed : Bool) (a b : W32) : W32 :=
  let pos := min (bits b.toNat 0 8) 32
  let len := min (bits b.toNat 8 8) (32 - pos)
  if len = 0 then 0
  else
    let x := bits a.toNat pos len
    BitVec.ofInt 32 (if signed then sext len x else (x : Int))

/-- prmt of R94. -/
def prmt (a b : W32) : W32 :=
  BitVec.ofNat 32 (ofLe ((List.range 4).map (fun i =>
    let n := bits b.toNat (4 * i) 4
    let x : Byte := a.extractLsb' (8 * (n % 4)) 8
    if n.testBit 3 then 0 else if n.testBit 2 then (if x.msb then 0xFF else 0) else x)))

/-- sat(sa + sb, −2^31, 2^31 − 1) (R94). -/
def addSat (a b : W32) : W32 := BitVec.ofInt 32 (max (-2 ^ 31) (min (2 ^ 31 - 1) (a.toInt + b.toInt)))

/-- IADD (R94). -/
def execIadd (o : V3) (s : State) : Out := ok (s.perLane (s.guard (.iadd o)) (s.bin o (fun a b => a + b)))

/-- ISUB (R94). -/
def execIsub (o : V3) (s : State) : Out := ok (s.perLane (s.guard (.isub o)) (s.bin o (fun a b => a - b)))

/-- IMUL (R94). -/
def execImul (o : V3) (s : State) : Out := ok (s.perLane (s.guard (.imul o)) (s.bin o (fun a b => a * b)))

/-- IMULH_S (R94). -/
def execImulhS (o : V3) (s : State) : Out := ok (s.perLane (s.guard (.imulhS o)) (s.bin o mulhS))

/-- IMULH_Z (R94). -/
def execImulhZ (o : V3) (s : State) : Out := ok (s.perLane (s.guard (.imulhZ o)) (s.bin o mulhZ))

/-- IMIN_S (R94). -/
def execIminS (o : V3) (s : State) : Out := ok (s.perLane (s.guard (.iminS o)) (s.bin o minS))

/-- IMIN_Z (R94). -/
def execIminZ (o : V3) (s : State) : Out := ok (s.perLane (s.guard (.iminZ o)) (s.bin o minZ))

/-- IMAX_S (R94). -/
def execImaxS (o : V3) (s : State) : Out := ok (s.perLane (s.guard (.imaxS o)) (s.bin o maxS))

/-- IMAX_Z (R94). -/
def execImaxZ (o : V3) (s : State) : Out := ok (s.perLane (s.guard (.imaxZ o)) (s.bin o maxZ))

/-- IABSD_S (R94). -/
def execIabsdS (o : V3) (s : State) : Out := ok (s.perLane (s.guard (.iabsdS o)) (s.bin o absdS))

/-- AND (R94). -/
def execAnd (o : V3) (s : State) : Out := ok (s.perLane (s.guard (.and o)) (s.bin o (fun a b => a &&& b)))

/-- OR (R94). -/
def execOr (o : V3) (s : State) : Out := ok (s.perLane (s.guard (.or o)) (s.bin o (fun a b => a ||| b)))

/-- XOR (R94). -/
def execXor (o : V3) (s : State) : Out := ok (s.perLane (s.guard (.xor o)) (s.bin o (fun a b => a ^^^ b)))

/-- ANDN (R94). -/
def execAndn (o : V3) (s : State) : Out := ok (s.perLane (s.guard (.andn o)) (s.bin o (fun a b => a &&& ~~~b)))

/-- SHL (R94). -/
def execShl (o : V3) (s : State) : Out := ok (s.perLane (s.guard (.shl o)) (s.bin o (fun a b => shl a b.toNat)))

/-- SHR_Z (R94). -/
def execShrZ (o : V3) (s : State) : Out := ok (s.perLane (s.guard (.shrZ o)) (s.bin o (fun a b => shrZ a b.toNat)))

/-- SHR_S (R94). -/
def execShrS (o : V3) (s : State) : Out := ok (s.perLane (s.guard (.shrS o)) (s.bin o (fun a b => shrS a b.toNat)))

/-- ROTL (R94). -/
def execRotl (o : V3) (s : State) : Out := ok (s.perLane (s.guard (.rotl o)) (s.bin o (fun a b => a.rotateLeft (b.toNat % 32))))

/-- POPC (R94). -/
def execPopc (o : V3U) (s : State) : Out := ok (s.perLane (s.guard (.popc o)) (s.un o popcount))

/-- CLZ (R94). -/
def execClz (o : V3U) (s : State) : Out := ok (s.perLane (s.guard (.clz o)) (s.un o clz))

/-- BREV (R94). -/
def execBrev (o : V3U) (s : State) : Out := ok (s.perLane (s.guard (.brev o)) (s.un o bitRev))

/-- BFX_S (R94). -/
def execBfxS (o : V3) (s : State) : Out := ok (s.perLane (s.guard (.bfxS o)) (s.bin o (bfx true)))

/-- BFX_Z (R94). -/
def execBfxZ (o : V3) (s : State) : Out := ok (s.perLane (s.guard (.bfxZ o)) (s.bin o (bfx false)))

/-- PRMT (R94). -/
def execPrmt (o : V3) (s : State) : Out := ok (s.perLane (s.guard (.prmt o)) (s.bin o prmt))

/-- IADD64 (R94). -/
def execIadd64 (o : V3) (s : State) : Out := ok (s.perLane (s.guard (.iadd64 o)) (s.bin64 o (fun a b => a + b)))

/-- ISUB64 (R94). -/
def execIsub64 (o : V3) (s : State) : Out := ok (s.perLane (s.guard (.isub64 o)) (s.bin64 o (fun a b => a - b)))

/-- SHL64 (R94). -/
def execShl64 (o : V3) (s : State) : Out := ok (s.perLane (s.guard (.shl64 o)) (s.shift64 o (fun a b => shl a b.toNat)))

/-- SHR64_Z (R94). -/
def execShr64Z (o : V3) (s : State) : Out := ok (s.perLane (s.guard (.shr64Z o)) (s.shift64 o (fun a b => shrZ a b.toNat)))

/-- SHR64_S (R94). -/
def execShr64S (o : V3) (s : State) : Out := ok (s.perLane (s.guard (.shr64S o)) (s.shift64 o (fun a b => shrS a b.toNat)))

/-- IADDSAT_S (R94). -/
def execIaddsatS (o : V3) (s : State) : Out := ok (s.perLane (s.guard (.iaddsatS o)) (s.bin o addSat))

/-- IADDI (R95). -/
def execIaddi (o : VI) (s : State) : Out := ok (s.perLane (s.guard (.iaddi o)) (s.immOp o (fun a i => a + i)))

/-- IMULI (R95). -/
def execImuli (o : VI) (s : State) : Out := ok (s.perLane (s.guard (.imuli o)) (s.immOp o (fun a i => a * i)))

/-- ANDI (R95). -/
def execAndi (o : VI) (s : State) : Out := ok (s.perLane (s.guard (.andi o)) (s.immOp o (fun a i => a &&& i)))

/-- ORI (R95). -/
def execOri (o : VI) (s : State) : Out := ok (s.perLane (s.guard (.ori o)) (s.immOp o (fun a i => a ||| i)))

/-- XORI (R95). -/
def execXori (o : VI) (s : State) : Out := ok (s.perLane (s.guard (.xori o)) (s.immOp o (fun a i => a ^^^ i)))

/-- SHLI (R95). -/
def execShli (o : ShI) (s : State) : Out := ok (s.perLane (s.guard (.shli o)) (s.immShift o shl))

/-- SHRI_Z (R95). -/
def execShriZ (o : ShI) (s : State) : Out := ok (s.perLane (s.guard (.shriZ o)) (s.immShift o shrZ))

/-- SHRI_S (R95). -/
def execShriS (o : ShI) (s : State) : Out := ok (s.perLane (s.guard (.shriS o)) (s.immShift o shrS))

/-- IMINI_S (R95). -/
def execIminiS (o : VI) (s : State) : Out := ok (s.perLane (s.guard (.iminiS o)) (s.immOp o minS))

/-- IMAXI_S (R95). -/
def execImaxiS (o : VI) (s : State) : Out := ok (s.perLane (s.guard (.imaxiS o)) (s.immOp o maxS))

end Sys2Proof.Machine
end

