-- ==== Sys2Proof/Machine/Atom.lean ====
section
/-! DEFINITION. Major 14: atomics (R209, R210). The effect f of each is applied where the access is performed. -/

namespace Sys2Proof.Machine

/-- An atomic of `n` bytes: the old value goes to the first registers of the run, b and c come from the next ones; the MODE
is captured (R85, R209). -/
def State.atomOut (s : State) (o : St) (fn n : Nat) (cas : Bool) (L : LaneId) : LaneOut :=
  let d := o.d.toNat
  let k := n / 4
  .done { empties := (List.range k).map (fun i => (.v, d + i)),
          asks := [⟨.atom d fn (s.vRun L (d + k) k) (if cas then s.vRun L (d + 2 * k) k else 0),
                    s.effAddr L o.base.toNat o.off.toNat (n * o.imm.toNat), n, 2,
                    if fn = 2 then (s.lane L).mode else 0, []⟩] }

/-- f(old, b, c) of R210, by the function number. -/
def atomF (fn : Nat) (mode : W32) (old b c : Nat) : Nat :=
  let x := BitVec.ofNat 32 old
  let y := BitVec.ofNat 32 b
  match fn with
  | 0 => (old + b) % 2 ^ 32
  | 1 => (old + b) % 2 ^ 64
  | 2 => flop2 .f32 (modeOf mode) opAdd old b
  | 3 => (minS x y).toNat
  | 4 => (maxS x y).toNat
  | 5 => (minZ x y).toNat
  | 6 => (maxZ x y).toNat
  | 7 => (x &&& y).toNat
  | 8 => (x ||| y).toNat
  | 9 => (x ^^^ y).toNat
  | 10 => b
  | 11 => b
  | 14 => if b ≤ old then 0 else old + 1
  | _ => if old = b then c else old

/-- Whether an atomic writes: cas only where it meets its compare value (R210). -/
def atomWrites (fn old b : Nat) : Bool := (fn ≠ 12 && fn ≠ 13) || old = b

/-- ATOM_ADD_B32 (R210). -/
def execAtomAddB32 (o : St) (s : State) : Out := ok (s.perLane (s.guard (.atomAddB32 o)) (s.atomOut o 0 4 false))

/-- ATOM_ADD_B64 (R210). -/
def execAtomAddB64 (o : St) (s : State) : Out := ok (s.perLane (s.guard (.atomAddB64 o)) (s.atomOut o 1 8 false))

/-- ATOM_FADD_F32 (R210). -/
def execAtomFaddF32 (o : St) (s : State) : Out := ok (s.perLane (s.guard (.atomFaddF32 o)) (s.atomOut o 2 4 false))

/-- ATOM_MIN_S32 (R210). -/
def execAtomMinS32 (o : St) (s : State) : Out := ok (s.perLane (s.guard (.atomMinS32 o)) (s.atomOut o 3 4 false))

/-- ATOM_MAX_S32 (R210). -/
def execAtomMaxS32 (o : St) (s : State) : Out := ok (s.perLane (s.guard (.atomMaxS32 o)) (s.atomOut o 4 4 false))

/-- ATOM_MIN_Z32 (R210). -/
def execAtomMinZ32 (o : St) (s : State) : Out := ok (s.perLane (s.guard (.atomMinZ32 o)) (s.atomOut o 5 4 false))

/-- ATOM_MAX_Z32 (R210). -/
def execAtomMaxZ32 (o : St) (s : State) : Out := ok (s.perLane (s.guard (.atomMaxZ32 o)) (s.atomOut o 6 4 false))

/-- ATOM_AND_B32 (R210). -/
def execAtomAndB32 (o : St) (s : State) : Out := ok (s.perLane (s.guard (.atomAndB32 o)) (s.atomOut o 7 4 false))

/-- ATOM_OR_B32 (R210). -/
def execAtomOrB32 (o : St) (s : State) : Out := ok (s.perLane (s.guard (.atomOrB32 o)) (s.atomOut o 8 4 false))

/-- ATOM_XOR_B32 (R210). -/
def execAtomXorB32 (o : St) (s : State) : Out := ok (s.perLane (s.guard (.atomXorB32 o)) (s.atomOut o 9 4 false))

/-- ATOM_EXCH_B32 (R210). -/
def execAtomExchB32 (o : St) (s : State) : Out := ok (s.perLane (s.guard (.atomExchB32 o)) (s.atomOut o 10 4 false))

/-- ATOM_EXCH_B64 (R210). -/
def execAtomExchB64 (o : St) (s : State) : Out := ok (s.perLane (s.guard (.atomExchB64 o)) (s.atomOut o 11 8 false))

/-- ATOM_CAS_B32 (R210). -/
def execAtomCasB32 (o : St) (s : State) : Out := ok (s.perLane (s.guard (.atomCasB32 o)) (s.atomOut o 12 4 true))

/-- ATOM_CAS_B64 (R210). -/
def execAtomCasB64 (o : St) (s : State) : Out := ok (s.perLane (s.guard (.atomCasB64 o)) (s.atomOut o 13 8 true))

/-- ATOM_INC_Z32 (R210). -/
def execAtomIncZ32 (o : St) (s : State) : Out := ok (s.perLane (s.guard (.atomIncZ32 o)) (s.atomOut o 14 4 false))

end Sys2Proof.Machine
end

