-- ==== Sys2Proof/Machine/Sched.lean ====
section
/-! DEFINITION. Which entry a group issues and which group a partition picks (R46, R238, R239, R241), and the issue
opportunity that a word is then executed for. -/

namespace Sys2Proof.Machine

/-- The stores, copies, matrix runs and service calls of a group issued before a lane reached its header (R46). -/
def State.maskHeld (s : State) (L : LaneId) (mask arrive : Nat) : Bool :=
  let mine := fun (a : Access) => a.team = L.team && a.group = L.group && a.id < arrive
  (bitOf mask 0 && s.accs.any (fun a => mine a && !a.performed && match a.op with
    | .st _ | .atom .. | .cwb => true
    | _ => false)) ||
  (bitOf mask 1 && s.copies.any (fun c => c.team = L.team && c.group = L.group && c.id < arrive)) ||
  (bitOf mask 2 && s.runs.any (fun r => r.team = L.team && r.group = L.group && r.id < arrive && match r.kind with
    | .accz | .accrd | .accwr => false
    | _ => true)) ||
  (bitOf mask 3 &&
    (s.accs.any (fun a => mine a && match a.op with | .svc .. => true | _ => false) ||
      match s.ctx (s.team L.team).key with
      | some c => c.reqs.any (fun r => r.team = L.team && r.group = L.group && r.issued < arrive)
      | none => false))

/-- The issue opportunity of an entry. -/
def State.selFor (s : State) (t g : Nat) (l : Lane) (lanes : List Nat) : Sel :=
  match s.clauseAt (s.team t).core (s.team t).jn l.hdr with
  | none => ⟨t, g, lanes, l.hdr, l.k, 0, l.prio, 0⟩
  | some (h, body) => ⟨t, g, lanes, l.hdr, l.k, headerN h, l.prio, body.getD (l.k - 1) 0⟩

/-- The fault of the clause that a lane stands at, when it stands at its start (R44). A handler clause that is no header is
found here (R64). -/
def State.clauseAtFault (s : State) (t : Nat) (l : Lane) : Option (Nat × Nat × W32) :=
  if l.k ≠ 1 then none
  else match s.wordAt (s.team t).core (s.team t).jn l.hdr with
    | none => none
    | some h =>
      if !isHeader h then some (8, 0, h)
      else clauseFault h ((List.range (headerN h)).filterMap (fun i =>
        s.wordAt (s.team t).core (s.team t).jn (l.hdr + BitVec.ofNat 64 (4 * (i + 1)))))

/-- Whether a demand fetch of the clause that a lane stands at is outstanding: its group's entries there are waiting lanes
(R302). -/
def State.fetchOut (s : State) (L : LaneId) : Bool := s.fetchFor L.team L.group (s.lane L).hdr

/-- Whether a word holds a lane, in the sense of R238. -/
noncomputable def State.wordWaits (s : State) (L : LaneId) (x : Sel) : Bool :=
  match decode x.word with
  | .error _ => false
  | .ok i => let s' := { s with sel := x }
    (s'.entryCheck (s'.guard i)).isNone && s'.laneWait (s'.guard i) L

/-- The lanes that stand in one entry with a lane. -/
def State.entryOf (s : State) (L : LaneId) : List Nat :=
  (s.liveLanes L.team L.group).filter (fun j => sameEntry (s.lane L) (s.lane ⟨L.team, L.group, j⟩))

/-- Whether a lane is a waiting lane (R238): it holds a wait of its own, a fetch of its clause is outstanding (R302), its wait
mask or R294 holds it at the clause start, or its word waits. The waiting flag of R22 is this: it is clear for a lane that has
just started. -/
noncomputable def State.waiting (s : State) (L : LaneId) : Bool :=
  let l := s.lane L
  let tm := s.team L.team
  if l.wait ≠ .none then true
  else match s.wordAt tm.core tm.jn l.hdr with
    | none => s.fetchOut L
    | some h =>
      if isHeader h && (s.clauseAt tm.core tm.jn l.hdr).isNone then s.fetchOut L
      else if (s.clauseAtFault L.team l).isSome then false
      else if l.k = 1 && (s.maskHeld L (headerMask h) l.arrive || (headerClass h = 1 && s.heldBack L.team)) then true
      else s.wordWaits L (s.selFor L.team L.group l (s.entryOf L))

/-- The registers that unanswered SVCs will fill (R280, R283). -/
def State.svcRegs (s : State) : List RId :=
  s.accs.flatMap (fun a => match a.op with
    | .svc d _ _ _ => a.lanes.flatMap (fun l => [s.rid ⟨a.team, a.group, l⟩ .v d, s.rid ⟨a.team, a.group, l⟩ .v (d + 1)])
    | _ => []) ++
  s.ctxs.flatMap (fun e => e.2.reqs.flatMap (fun r =>
    [s.rid ⟨r.team, r.group, r.lane⟩ .v r.d, s.rid ⟨r.team, r.group, r.lane⟩ .v (r.d + 1)]))

/-- The v registers whose emptiness can hold a lane at a word: those that the word names, for a cross-lane word those of every
lane of its entry, all of them for WAITF.all, and the one that LANEGET names in another lane (R61, R106, R107, R252, R253). -/
def State.awaited (s : State) (L : LaneId) (i : Instr) : List RId :=
  let own := fun (M : LaneId) => (i.uses.filter (fun u => u.cls = .v && u.mode ≠ .range)).flatMap (fun u => u.nums.map (s.rid M .v))
  match i with
  | .waitfAll => (List.range ((s.hdr L.team).vregs L.group)).map (s.rid L .v)
  | .laneget o => own L ++ [s.rid ⟨L.team, L.group, o.lane.toNat⟩ .v o.a.toNat]
  | .sete d => [s.rid L .v d.toNat]
  | i => if i.isXlane then (s.entryOf L).flatMap (fun j => own ⟨L.team, L.group, j⟩) else own L

/-- The issue opportunity of a lane by itself, whether or not its clause is in the instruction cache. -/
def State.peekSel (s : State) (L : LaneId) : Option Sel :=
  let l := s.lane L
  let tm := s.team L.team
  match s.headAt tm.core tm.jn l.hdr, s.headAt tm.core tm.jn (l.hdr + BitVec.ofNat 64 (4 * l.k)) with
  | some h, some w => some ⟨L.team, L.group, s.entryOf L, l.hdr, l.k, headerN h, l.prio, w⟩
  | _, _ => none

/-- The wait mask that holds a lane at its clause start, restricted to some of its bits (R46). -/
def State.maskedAt (s : State) (L : LaneId) (bits : Nat) : Bool :=
  let l := s.lane L
  match s.headAt (s.team L.team).core (s.team L.team).jn l.hdr with
  | some h => l.k = 1 && s.maskHeld L (headerMask h &&& bits) l.arrive
  | none => false

/-- Whether a lane is a waiting lane wherever its code stands: the same tests, on words that are read as a fetch would bring them. A save
notes this in the waiting flag, so that a cold instruction cache hides no wait (R317, R351). -/
noncomputable def State.standsWaiting (s : State) (L : LaneId) : Bool :=
  let l := s.lane L
  l.wait ≠ .none || s.fetchOut L ||
    (s.clauseAtFault L.team l).isNone && match s.headAt (s.team L.team).core (s.team L.team).jn l.hdr with
      | none => false
      | some h =>
        (l.k = 1 && (s.maskHeld L (headerMask h) l.arrive || (headerClass h = 1 && s.heldBack L.team))) ||
          match s.peekSel L with
          | some x => s.wordWaits L x
          | none => false

/-- Whether a lane waits on service (R283): for wait bit 19, or at a register that an unanswered SVC will fill. -/
noncomputable def State.waitsService (s : State) (L : LaneId) : Bool :=
  (s.lane L).wait = .none &&
    if s.maskedAt L 15 then s.maskedAt L 8
    else match s.peekSel L with
      | none => false
      | some x =>
        s.wordWaits L x && match decode x.word with
          | .ok i => (s.awaited L i).any (fun r => !(s.mark r).full && s.svcRegs.contains r)
          | .error _ => false

/-- An issue entry: what its lanes share (R238), its lanes, and those that are not waiting. -/
structure Entry where
  lane : Lane
  lanes : List Nat
  ready : List Nat
  deriving DecidableEq, Repr

/-- The entries of a group's live lanes. -/
noncomputable def State.entries (s : State) (t g : Nat) : List Entry :=
  let live := s.liveLanes t g
  let lane := fun i => s.lane ⟨t, g, i⟩
  let firsts := live.filter (fun i => !(live.any (fun j => j < i && sameEntry (lane j) (lane i))))
  firsts.map (fun i =>
    let ls := live.filter (fun j => sameEntry (lane i) (lane j))
    ⟨lane i, ls, ls.filter (fun j => !s.waiting ⟨t, g, j⟩)⟩)

/-- Whether entry `a` is picked before entry `b`: greatest priority, lowest header address, lowest k (R238). -/
def Entry.before (a b : Entry) : Bool :=
  b.lane.prio < a.lane.prio || (a.lane.prio = b.lane.prio &&
    (a.lane.hdr < b.lane.hdr || (a.lane.hdr = b.lane.hdr && a.lane.k < b.lane.k)))

/-- The choice of R238. -/
def chooseEntry (es : List Entry) : Option Entry :=
  let w := es.filter (fun e => e.ready.length < e.lanes.length && !e.lane.mark)
  let blocked := fun (e : Entry) => w.any (fun x => e.lane.prio < x.lane.prio)
  let c := es.filter (fun e => !e.ready.isEmpty && (e.lane.mark || !blocked e))
  let u := c.filter (fun e => !e.lane.mark)
  (sortBy Entry.before (if u.isEmpty then c else u)).head?

/-- Whether a group may issue at all: its team is resident on a running core and nothing halts it (R244, R283, R321). -/
def State.mayIssue (s : State) (t g : Nat) : Bool :=
  (s.team t).runs && s.coreOn (s.team t).core && !s.board.clocksOff && s.board.powered &&
    !(s.group t g).dbg && (s.group t g).off.isNone

/-- The entry that a group issues now. -/
noncomputable def State.groupChoice (s : State) (t g : Nat) : Option Entry :=
  if s.mayIssue t g then chooseEntry (s.entries t g) else none

/-- The groups that are ready, with core, partition and slot number (R241). -/
noncomputable def State.readyGroups (s : State) : List (Nat × Nat × Nat × Nat × Nat) :=
  (s.groups.filter (fun e => (s.groupChoice e.1.1 e.1.2).isSome)).map
    (fun e => ((s.team e.1.1).core, e.2.part, e.2.slot, e.1.1, e.1.2))

/-- One pick of a partition: the lowest slot at or above its pointer, wrapping (R241). -/
def pickSlot (ptr : Nat) (l : List (Nat × Nat × Nat × Nat × Nat)) : Option (Nat × Nat × Nat × Nat × Nat) :=
  minBy (fun x => (x.2.2.1 + 16 - ptr) % 16) l

/-- The state with the pointer of a partition after a pick (R241). -/
def State.bumpPtr (s : State) (core part slot : Nat) : State :=
  s.setCore core { s.core core with ptrs := (s.core core).ptrs.set part ((slot + 1) % 16) }

/-- The issue opportunity set up for an entry: marks are cleared when the entry has none (R239). -/
def State.prepare (s : State) (t g : Nat) (e : Entry) : State :=
  let s := if e.lane.mark then s
    else (s.liveLanes t g).foldl (fun s i => s.setLane ⟨t, g, i⟩ { s.lane ⟨t, g, i⟩ with mark := false }) s
  { s.setGroup t g { s.group t g with issued := s.clock, svcSince := none } with sel := s.selFor t g e.lane e.ready }

/-- The words of the clause at a header address that are not in a core's instruction cache, as far as they are known: the first of each
line. -/
def State.missing (s : State) (core jn : Nat) (hdr : D64) : List D64 :=
  let n := match s.wordAt core jn hdr with | some h => if isHeader h then headerN h else 0 | none => 0
  let gone := ((List.range (n + 1)).map (fun i => hdr + BitVec.ofNat 64 (4 * i))).filter (fun a => (s.wordAt core jn a).isNone)
  gone.filter (fun a => gone.all (fun b => lineAddr b ≠ lineAddr a || a.toNat ≤ b.toNat))

/-- The code address that a lane needs before its word can act: where the word leads stands in no translated line (log entry 9). -/
noncomputable def State.heldFor (s : State) (L : LaneId) : Option D64 :=
  let tm := s.team L.team
  let l := s.lane L
  if l.wait ≠ .none || (s.clauseAt tm.core tm.jn l.hdr).isNone || (s.clauseAtFault L.team l).isSome then none
  else
    let x := s.selFor L.team L.group l (s.entryOf L)
    let s' := { s with sel := x }
    match decode x.word with
    | .error _ => none
    | .ok i => if (s'.entryCheck (s'.guard i)).isSome then none else s'.codeHeld (s'.guard i) L

/-- The code addresses that the entry which R238 chooses demands: those of its clause (R301), and once that is there those without
which its lanes that do not wait cannot leave their word. -/
noncomputable def State.entryNeeds (s : State) (t g : Nat) (e : Entry) : List D64 :=
  match s.missing (s.team t).core (s.team t).jn e.lane.hdr with
  | [] => nub (e.ready.filterMap (fun i => s.heldFor ⟨t, g, i⟩))
  | l => l

/-- The code addresses of a group's demand fetches (R301). What else its lanes may need is left to PREFETCH (R303). -/
noncomputable def State.demands (s : State) (t g : Nat) : List D64 :=
  match s.groupChoice t g with
  | some e => s.entryNeeds t g e
  | none => []

/-- The next issue: the state with its opportunity, and the instruction that the word is; a faulty clause or a word that is
no instruction is the event ILLEGAL_INSTRUCTION (R44, R60). Where the chosen entry lacks code, its demand fetch comes instead
(R301). -/
noncomputable def State.nextIssue (s : State) : Option (Instr × State) :=
  let r := s.readyGroups
  let parts := nub (r.map (fun x => (x.1, x.2.1)))
  match parts[(s.turn / 2) % parts.length]? with
  | none => none
  | some (c, p) =>
    match pickSlot ((s.core c).ptrs.getD p 0) (r.filter (fun x => x.1 = c && x.2.1 = p)) with
    | none => none
    | some (_, _, slot, t, g) =>
      match s.groupChoice t g with
      | none => none
      | some e =>
        match s.entryNeeds t g e with
        | a :: _ => some (.instructionFetch t g a, s)
        | [] =>
          let s' := (s.prepare t g e).bumpPtr c p slot
          if (s.clauseAtFault t e.lane).isSome then some (.illegalInstruction, s')
          else match decode s'.sel.word with
            | .ok i => some (i, s')
            | .error _ => some (.illegalInstruction, s')

end Sys2Proof.Machine
end

