-- ==== Sys2Proof/Machine/Bar.lean ====
section
/-! DEFINITION. Major 18: barrier words (R256 to R261). A word is one access at the barrier's home (R257); what the home does is the
event BARRIER_UPDATE. -/

namespace Sys2Proof.Machine

/-- One access of a barrier word for the lanes of its entry (R257). -/
def State.barOut (_s : State) (e : List Nat) (a : D64) (op : BarOp) : LaneOut :=
  .done { asks := [⟨.bar 0 op, a, 16, 9, 0, e⟩] }

/-- The sum of the byte counts of BARVB, read as signed 32-bit (R260). -/
def State.byteSum (s : State) (v : Nat) (e : List Nat) : Int :=
  (e.map (fun l => (s.getV (s.sel.lane l) v).toInt)).foldl (· + ·) 0

/-- BJOIN: at the tail, unless it is there; the oldest of four gives way (R261). -/
def joined (js : List D64) (a : D64) : List D64 :=
  if a ∈ js then js else if 4 ≤ js.length then js.drop 1 ++ [a] else js ++ [a]

/-- BINIT (R259). -/
def execBinit (sb : BitVec 5) (n : BitVec 10) (s : State) : Out :=
  ok (s.once (s.guard (.binit sb n)) (fun e => s.barOut e (s.getS (s.sel.lane (e.headD 0)) sb.toNat) (.init n.toNat false 0)))

/-- BINIT_REG (R259). -/
def execBinitReg (sb : BitVec 5) (v : BitVec 6) (s : State) : Out := ok (s.once (s.guard (.binitReg sb v)) (fun e =>
    let x := (s.getV (s.sel.lane (e.headD 0)) v.toNat).toNat
    s.barOut e (s.getS (s.sel.lane (e.headD 0)) sb.toNat) (.init (bits x 0 16) (bitOf x 20) (bits x 16 4))))

/-- BARV (R260). -/
def execBarv (sb : BitVec 5) (ord : Bool) (s : State) : Out := ok (s.once (s.guard (.barv sb ord)) (fun e =>
    s.barOut e (s.getS (s.sel.lane (e.headD 0)) sb.toNat) (.update (if ord then 1 else e.length) 0 0 0)))

/-- BARVB (R260). -/
def execBarvb (sb : BitVec 5) (v : BitVec 6) (out : Bool) (ord : Bool) (s : State) : Out :=
  ok (s.once (s.guard (.barvb sb v out ord)) (fun e =>
    let x := s.byteSum v.toNat (if ord then e.take 1 else e)
    s.barOut e (s.getS (s.sel.lane (e.headD 0)) sb.toNat)
      (.update (if ord then 1 else e.length) 0 (if out then 0 else x) (if out then x else 0))))

/-- BWAIT (R260). -/
def execBwait (sb : BitVec 5) (v : BitVec 6) (s : State) : Out := ok (s.perLane (s.guard (.bwait sb v)) (fun L =>
    .done { go := .hold (.barrier (s.getS L sb.toNat) (s.getV L v.toNat).toNat) }))

/-- BWAITT (R260). -/
def execBwaitt (sb : BitVec 5) (v : BitVec 6) (p : BitVec 3) (s : State) : Out :=
  ok (s.perLane (s.guard (.bwaitt sb v p)) (fun L =>
    .done { empties := [(.p, p.toNat)],
            go := .hold (.timed (s.getS L sb.toNat) (s.getV L v.toNat).toNat
              (s.clock + (s.getV L (v.toNat + 1)).toNat) p.toNat) }))

/-- BTST (R260). -/
def execBtst (sb : BitVec 5) (v : BitVec 6) (s : State) : Out := ok (s.perLane (s.guard (.btst sb v)) (fun L =>
    let e := s.passing (s.guard (.btst sb v))
    .done { empties := [(.v, v.toNat)],
            asks := if e.head? = some L.lane then [⟨.bar v.toNat .test, s.getS L sb.toNat, 16, 9, 0, e⟩] else [] }))

/-- BJOIN (R261). -/
def execBjoin (sb : BitVec 5) (s : State) : Out := ok (s.once (s.guard (.bjoin sb)) (fun e =>
    .done { joins := some (joined (s.group s.sel.team s.sel.group).joins (s.getS (s.sel.lane (e.headD 0)) sb.toNat)) }))

/-- BLEAVE (R261). -/
def execBleave (sb : BitVec 5) (s : State) : Out := ok (s.once (s.guard (.bleave sb)) (fun e =>
    let a := s.getS (s.sel.lane (e.headD 0)) sb.toNat
    .done { joins := some ((s.group s.sel.team s.sel.group).joins.filter (· ≠ a)) }))

/-- BDROP (R260). -/
def execBdrop (sb : BitVec 5) (ord : Bool) (s : State) : Out := ok (s.once (s.guard (.bdrop sb ord)) (fun e =>
    s.barOut e (s.getS (s.sel.lane (e.headD 0)) sb.toNat) (.update 0 (if ord then 1 else e.length) 0 0)))

end Sys2Proof.Machine
end

