-- ==== Sys2Proof/Machine/Entry.lean ====
section
/-! DEFINITION. The 128 bytes of a capping store entry, which the spill area holds too (R289, R293), and what they tell of a
copy's chunks, of a run and of a tensor's descriptor (R218, R220 to R222). -/

namespace Sys2Proof.Machine

/-! ### Chunks of copies, and what an entry needs of copies and runs -/

/-- The cut of `n` bytes from `x` at multiples of `step`: offset and length of each piece. -/
def cutAt (step x n : Nat) : List (Nat × Nat) :=
  (List.range (n / step + 2)).filterMap (fun k =>
    let lo := max x ((x / step + k) * step)
    let hi := min (x + n) ((x / step + k + 1) * step)
    if lo < hi then some (lo - x, hi - lo) else none)

/-- A chunk: its first byte's index in the box, its length, and the row of the box that it lies in with its offset there. -/
structure Chunk where
  r : Nat
  n : Nat
  row : Nat
  off : Nat
  deriving DecidableEq, Repr

/-- A coordinate of the quad (R220): signed 32-bit. -/
def Copy.coord (c : Copy) (k : Nat) : Int := sext 32 (bits (c.quad.getD (k / 2) 0).toNat (32 * (k % 2)) 32)

/-- The coordinates of dimensions 1 to 3 of a row of the box; a gather takes dimension 1 from its indices (R221). -/
def Copy.rowCoords (c : Copy) (row : Nat) : List Int :=
  let b1 := c.desc.box.getD 1 1
  let b2 := c.desc.box.getD 2 1
  let i1 : Nat := row % b1
  let x1 : Int := match c.kind, c.index with
    | .gather, some l => ((l.getD i1 0 : Nat) : Int)
    | _, _ => (i1 : Int)
  [c.coord 1 + x1, c.coord 2 + (row / b1 % b2 : Nat), c.coord 3 + (row / b1 / b2 : Nat)]

/-- The address of byte `off` of a row (R218). -/
def Copy.rowAddr (c : Copy) (row : Nat) (off : Int) : D64 :=
  let xs := c.rowCoords row
  c.desc.base + BitVec.ofInt 64 (c.coord 0 + off + xs.getD 0 0 * c.desc.str.getD 0 0 + xs.getD 1 0 * c.desc.str.getD 1 0 +
    xs.getD 2 0 * c.desc.str.getD 2 0)

/-- Whether dimensions 1 to 3 of a row are in bounds. -/
def Copy.rowIn (c : Copy) (row : Nat) : Bool :=
  let xs := c.rowCoords row
  (List.range 3).all (fun k => decide (0 ≤ xs.getD k 0) && decide (xs.getD k 0 < (c.desc.ext.getD (k + 1) 1 : Nat)))

/-- The chunks of a copy into, or out of, a tile at `off` of `size` bytes (R222). -/
def Copy.chunks (c : Copy) (off size : Nat) : List Chunk :=
  match c.kind with
  | .tt => (cutAt 128 (c.quad.getD 0 0).toNat size).map (fun g => ⟨g.1, g.2, 0, g.1⟩)
  | k =>
    let w := c.desc.box.getD 0 1
    (List.range (size / w)).flatMap (fun row =>
      let start := if k = .out then (c.rowAddr row 0).toNat else off + row * w
      (cutAt 128 start w).map (fun g => ⟨row * w + g.1, g.2, row, g.1⟩))

/-- A copy by its number. -/
def State.copy (s : State) (id : Nat) : Option Copy := s.copies.find? (fun c => c.id = id)

/-- A run, by number. -/
def State.run (s : State) (id : Nat) : Option Run := s.runs.find? (fun r => r.id = id)

/-- Lines of a key block. -/
def linesOf (f : Nat) : Nat := (keyBlockBytes (f + 1) + 127) / 128

/-- The descriptor that 64 bytes hold, if it meets R218. -/
def descOf (b : List Byte) : Option Desc :=
  let n := fun o k => leAt b o k
  let base := n 0 8
  let ext := [n 0x08 4, n 0x0C 4, n 0x10 4, n 0x14 4]
  let box := [n 0x30 4, n 0x34 2, n 0x36 2, n 0x38 2]
  if (bits base 48 16 ≤ 0xFF || bits base 48 16 = 0xFF00 || bits base 48 16 = 0xFF01) && ext.all (0 < ·) &&
      box.all (0 < ·) && n 0x3A 6 = 0 then
    some ⟨BitVec.ofNat 64 base, ext, [sext 64 (n 0x18 8), sext 64 (n 0x20 8), sext 64 (n 0x28 8)], box⟩
  else none

/-! ### The entry (R289) -/

/-- The destination field of what fills registers (R289): class and first register. -/
def AccOp.destField : AccOp → Nat
  | .ld d _ | .atom d .. | .launch d _ | .xlq d | .svc d .. => d * 8
  | .bar d _ => d * 8
  | .sld d => 1 + d * 8
  | .dld d => 3 + d * 8
  | .wld d => 4 + d * 8
  | _ => 0

/-- The destination field of an entry (R289): class and first register, or the tile. -/
def State.destField (s : State) (a : Access) : Nat :=
  match a.op with
  | .chunk c _ _ => ((s.copy c).map (·.tile)).getD 0
  | .attn r _ => ((s.run r).map (·.c)).getD 0
  | op => op.destField

/-- The locator of an entry (R289). -/
def State.locator (s : State) (a : Access) : Nat :=
  match a.op with
  | .fetch h => h.toNat
  | .chunk c i _ =>
    match s.copy c with
    | some x =>
      match s.tile x.team x.tile with
      | some t => (((x.chunks t.off t.bytes)[i]?).map (·.r)).getD 0
      | none => 0
    | none => 0
  | .attn r l => match s.run r with | some x => l / linesOf x.f | none => 0
  | .accept q => q
  | _ => 0

/-- The 128 bytes of a capping store entry (R289). -/
def State.entryBytes (s : State) (a : Access) : List Byte :=
  let t := s.team a.team
  let ctl := match a.op with | .atom .. | .wld _ | .dld _ => a.ctl.toNat | _ => 0
  let payload := match a.op with
    | .st data => leBytes a.size data
    | .atom _ _ b c => leBytes a.size b ++ leBytes a.size c
    | _ => []
  (record64 [(0x00, 1, a.key), (0x01, 1, a.kind), (0x02, 1, a.cause), (0x03, 1, a.size - 1),
    (0x04, 4, a.atCore), (0x08, 8, a.va.toNat), (0x10, 1, a.group), (0x11, 1, a.lanes.headD 0),
    (0x12, 2, s.destField a), (0x14, 1, a.major), (0x15, 1, a.fn), (0x16, 2, t.lin / 2 ^ 32), (0x18, 4, ctl),
    (0x1C, 4, a.seq), (0x20, 8, s.locator a), (0x28, 4, a.jn), (0x2C, 4, t.lin)]).take 48 ++
    (payload ++ List.replicate 80 (0 : Byte)).take 80

end Sys2Proof.Machine
end

