-- ==== Sys2Proof/Machine/Access.lean ====
section
/-! DEFINITION. The life of a memory access: decoding its address (R37 to R39), translation and parking (R270 to R273, R287
to R295), being performed at its home with its timestamp (R184 to R192), and its answer (R203, R299). -/

namespace Sys2Proof.Machine

/-- An access by its number. -/
def State.acc (s : State) (id : Nat) : Option Access := s.accs.find? (fun a => a.id = id)

/-- An access replaced, and an access that is over. -/
def State.setAcc (s : State) (a : Access) : State :=
  { s with accs := s.accs.map (fun b => if b.id = a.id then a else b) }
def State.dropAcc (s : State) (id : Nat) : State := { s with accs := s.accs.filter (fun b => b.id ≠ id) }

/-- Whether an older access of one of its lanes, or of a sender whose value one of them took, is not yet performed: it then
stays behind it (R181, R199, R254, R291). -/
def State.held (s : State) (a : Access) : Bool :=
  s.accs.any (fun b => b.id < a.id && b.team = a.team && b.group = a.group && b.lanes.any (fun l => a.lanes.contains l) &&
    !b.performed) ||
  a.lanes.any (fun l => s.behindSender ⟨a.team, a.group, l⟩ a.id)

/-! ### Where an address leads (R37 to R39) -/

/-- What an address names: an unrepairable place with the reason of R304, a slot that holds no team of the context, a
location in a scratchpad, a register, or ordinary memory. -/
inductive Place where
  | bad (reason : Nat)
  | away
  | bytes (l : Nat)
  | reg (c : RegClass) (g lane n byte : Nat)
  | mapped
  deriving DecidableEq, Repr

/-- Whether a space is an aperture. -/
def VSpace.aperture : VSpace → Bool
  | .own | .cluster | .regs => true
  | _ => false

/-- A register named through 0xFF02 (R39). -/
def State.regPlace (s : State) (t : Nat) (va : D64) (n : Nat) : Place :=
  let x := va.toNat
  let h := s.hdr t
  let g := bits x 34 6
  let num := bits x 26 6
  let lane := bits x 20 6
  let byte := bits x 0 3
  if bits x 40 8 ≠ 0 || bits x 3 17 ≠ 0 || h.groups ≤ g || !s.groupLive t g then .bad 1
  else
    let live := lane < h.width && (s.lane ⟨t, g, lane⟩).live
    match bits x 32 2 with
    | 0 => if live && num < h.vregs g && byte + n ≤ 4 then .reg .v g lane num byte else .bad 1
    | 1 => if lane = 0 && num < h.sregs && byte + n ≤ 8 then .reg .s g lane num byte else .bad 1
    | 2 => if live && num < 8 && byte = 0 && n = 1 then .reg .p g lane num byte else .bad 1
    | _ => .bad 1

/-- What `n` bytes from an address name, for a team of a context (R37, R38). -/
def State.place (s : State) (t key core : Nat) (va : D64) (n : Nat) : Place :=
  let x := va.toNat
  let first := vspace va
  let last := vspace (va + BitVec.ofNat 64 (n - 1))
  if first ≠ last then .bad (if first.aperture || last.aperture then 1 else 0)
  else match first with
    | .ordinary => .mapped
    | .reserved => .bad 0
    | .own => if bits x 0 48 + n ≤ (s.hdr t).scratch then .bytes (loc .scratch t (bits x 0 48)) else .bad 1
    | .cluster =>
      let c := clusterOf core * 192 + bits x 40 8
      if bits x 20 16 ≠ 0 || 192 ≤ bits x 40 8 || !s.coreOn c then .bad 1
      else match s.teamAt c (bits x 36 4) with
        | none => .away
        | some u =>
          if (s.team u).key ≠ key then .away
          else if bits x 0 20 + n ≤ (s.hdr u).scratch then .bytes (loc .scratch u (bits x 0 20)) else .bad 1
    | .regs => s.regPlace t va n

/-- The place of an access. -/
def State.placeOf (s : State) (a : Access) : Place := s.place a.team a.key a.core a.va a.size

/-- The rule of its form that an access breaks, in the order of R304: 6, 7, 2, 3. -/
def Access.formFault (a : Access) (scratch : Nat) : Option Nat :=
  let sp := vspace a.va
  let x := a.va.toNat
  match a.op with
  | .tset _ => if x % 64 ≠ 0 || !(sp = .ordinary || sp = .own) then some 6 else none
  | .launch .. =>
    if x % 8 ≠ 0 || !(sp = .ordinary || sp = .own) || (sp = .own && scratch < bits x 0 48 + 64) then some 6 else none
  | .bar .. => if !(sp = .own || sp = .cluster) || x % 16 ≠ 0 then some 7 else none
  | .atom .. => if x % a.size ≠ 0 then some 2 else if sp = .regs then some 3 else none
  | _ => none

/-- The pieces of an access: at line ends (R183), or for a record that is not inside one 128-byte block at 16-byte
boundaries (R178). -/
def Access.pieces (a : Access) : List (Nat × Nat) :=
  let x := a.va.toNat
  let rec0 := a.kind = 7 || a.kind = 8
  let step := if rec0 && x / 128 ≠ (x + a.size - 1) / 128 then 16 else 128
  cutAt step x a.size

/-! ### Translation (R272, R273, R287) -/

/-- The permissions that an access needs (R272). -/
def AccOp.need : AccOp → Perm
  | .st _ | .cwb => ⟨false, true, false⟩
  | .atom .. => ⟨true, true, false⟩
  | .chunk _ _ store => ⟨!store, store, false⟩
  | .fetch _ => ⟨false, false, true⟩
  | .cinv => ⟨false, false, false⟩
  | _ => ⟨true, false, false⟩

/-- Whether a permission set grants what is needed. -/
def permGrants (p need : Perm) : Bool := (!need.r || p.r) && (!need.w || p.w) && (!need.x || p.x)

/-- The translation of a page in a cluster: its TLB entry, else the walk (R270). -/
def State.lookup (s : State) (cluster key : Nat) (page : D64) : Option Trans :=
  match s.tlb.find (cluster, key, page) with
  | some t => some t
  | none =>
    match s.ctx key with
    | some c => walk s.mem c.root page
    | none => none

/-- The host's answer for a page of a context's PASID, if one is cached (R273). -/
def State.atsPerm (s : State) (key : Nat) (page : D64) : Option Perm :=
  match (s.ctx key).bind (·.pasid) with
  | some p => s.ats.find (p, page)
  | none => none

/-- What a page's translation says of a need: the cause bits of R287. Bit 2 speaks of an answer that the host has given. -/
def State.pageCause (s : State) (key : Nat) (page : D64) (need : Perm) : Option Trans → Nat
  | none => 1
  | some t =>
    (if permGrants t.perm need then 0 else 2) +
      (match s.atsPerm key page with
        | some g => if t.home = 1 && !(permGrants g need) then 4 else 0
        | none => 0)

/-- Whether a piece covers every byte of its line, as a store that clears poison does (R305). -/
def wholeLine (g : Nat × Nat) : Bool := g.1 % 128 = 0 && g.2 = 128

/-- What translating ordinary memory says. -/
inductive Look where
  | ok (locs : List (Nat × Nat)) (home port : Nat)
  | park (cause : Nat) (page : D64)
  | ats (page : D64)
  | bad (reason : Nat)
  | noPasid (page : D64)
  | linkLost
  deriving DecidableEq, Repr

/-- The pages that fail, else the places of the pieces with the poison test. -/
def State.lookPlaces (s : State) (key : Nat) (op : AccOp) (store : Bool) (va : D64) (pieces : List (Nat × Nat))
    (ts : List (D64 × Option Trans)) : Look :=
  let causes := ts.map (fun x => (x.1, s.pageCause key x.1 op.need x.2))
  let mask := causes.foldl (fun m x => m ||| x.2) 0
  match causes.find? (fun x => x.2 ≠ 0), s.ctx key with
  | some x, _ => .park mask x.1
  | none, none => .bad 0
  | none, some c =>
    let locs := pieces.map (fun g =>
      let a := va + BitVec.ofNat 64 g.1
      match ts.find? (fun x => x.1 = pageOf a) with
      | some (_, some t) => (transLoc c t a, g.2, pageOf a, t.home)
      | _ => (0, g.2, pageOf a, 0))
    match locs.find? (fun e => e.2.2.2 < 2 && s.poison.contains (lineOf e.1) && !(store && wholeLine (e.1, e.2.1))) with
    | some e => .park 8 e.2.2.1
    | none =>
      let homes := ts.filterMap (fun x => x.2.map (·.home))
      let port := ((ts.filterMap (fun x => x.2.map (·.port))).find? (· ≠ 0)).getD 0
      .ok (locs.map (fun e => (e.1, e.2.1))) ((homes.find? (fun h => h = 1 || h = 3)).getD (homes.headD 0)) port

/-- The translation of an access to ordinary memory, over the pages it touches. `store` says that it only writes. -/
def State.look (s : State) (key cluster : Nat) (op : AccOp) (store : Bool) (va : D64) (size : Nat)
    (pieces : List (Nat × Nat)) : Look :=
  match s.ctx key with
  | none => .bad 0
  | some c =>
    let pages := pagesOf va size
    let ts := pages.map (fun p => (p, s.lookup cluster key p))
    let homes := ts.filterMap (fun x => x.2.map (·.home))
    let isAtom := match op with | .atom .. => true | _ => false
    let isFetch := match op with | .fetch _ => true | _ => false
    if isAtom && homes.any (· = 3) then .bad 3
    else if isFetch && homes.any (· = 3) then .bad 5
    else if ts.any (fun x => match x.2 with
      | some t => t.home = 2 && !(c.peers.any (fun b => b.1 = t.port))
      | none => false) then .bad 4
    else
      let leafs := ts.map (fun x => (x.1, match x.2 with
        | none => 1
        | some t => if permGrants t.perm op.need then 0 else 2))
      let home1 := ts.filter (fun x => match x.2 with | some t => t.home = 1 | none => false)
      match home1.head? with
      | some x =>
        if s.board.link = .lost then .linkLost
        else if c.pasid = none then .noPasid x.1
        else
          match home1.find? (fun e => (s.atsPerm key e.1).isNone) with
          | some y => if leafs.all (fun e => e.2 = 0) then .ats y.1 else s.lookPlaces key op store va pieces ts
          | none => s.lookPlaces key op store va pieces ts
      | none =>
        if homes.any (· = 3) && s.board.link = .lost then .linkLost
        else s.lookPlaces key op store va pieces ts

/-- The TLB entries that a translation of these pages leaves behind; a cluster holds at most 32K, and its oldest goes for one
more (R2; log entry 33). -/
def State.fillTlb (s : State) (cluster key : Nat) (pages : List D64) : State :=
  pages.foldl (fun s p =>
    match s.lookup cluster key p with
    | some t => { s with tlb := keepNewest Config.tlbEntries (fun e => e.1.1 = cluster) (s.tlb.set (cluster, key, p) t) }
    | none => s) s

/-! ### Parking (R287 to R295) -/

/-- Entries of a cluster's capping store, and a context's spilled entries there. -/
def State.parkedIn (s : State) (cl : Nat) : List Access :=
  s.accs.filter (fun a => a.stage = .parked && clusterOf a.core = cl)
def State.spilledIn (s : State) (cl key : Nat) : List Access :=
  s.accs.filter (fun a => a.stage = .spilled && clusterOf a.core = cl && a.key = key)

/-- Entries of a context's spill share in one cluster (R293). -/
def State.spillShare (s : State) (key : Nat) : Nat :=
  match s.ctx key with
  | some c => c.spill / s.clustersOn.length / 128
  | none => 0

/-- Whether a page of a context is REPORTED and unresolved in a cluster (R295). -/
def Cluster.isReported (c : Cluster) (key : Nat) (page : D64) : Bool :=
  c.pages.any (fun p => p.key = key && p.page = page && p.reported)

/-- A cluster after an entry parked on a page: a page key that is in no open window and not REPORTED joins or opens one
(R295). -/
def Cluster.noteParked (c : Cluster) (clock key : Nat) (page : D64) : Cluster :=
  if c.pages.any (fun p => p.key = key && p.page = page) then c
  else { c with pages := c.pages ++ [⟨key, page, false, 0⟩], window := some (c.window.getD clock) }

/-- The place after a list of entries in the ring of a share of `n`: the first free one behind the entry that parked last (R293). -/
def nextPlace (n : Nat) (l : List Access) : Nat :=
  let last := (sortBy (fun (a b : Access) => b.seq < a.seq) l).head?
  let start := match last with | some a => a.ringAt + 1 | none => 0
  (((List.range n).map (fun i => (start + i) % n)).find? (fun p => l.all (fun a => a.ringAt ≠ p))).getD 0

/-- A spilled entry's 128 bytes written to its place in its context's share of the cluster (R289, R293); where shares lie is the
model's (log entry 95). -/
def State.spillEntry (s : State) (a : Access) : State :=
  { s with mem := s.mem.putN (loc .spill a.key (2 ^ 32 * clusterOf a.core + 128 * a.ringAt)) (s.entryBytes a) }

/-- A request parks whole; an entry that parks again has given up its place first (R290): in the store, in its context's spill share, or it is returned to its core (R287, R293, R294). -/
def State.park (s : State) (a : Access) (cause : Nat) (page : D64) : State :=
  let cl := clusterOf a.core
  let c := s.cluster cl
  let others := fun (l : List Access) => l.filter (fun b => b.id ≠ a.id)
  let share := s.spillShare a.key
  let st : Stage :=
    if (others (s.parkedIn cl)).length < Config.cappingEntries then .parked
    else if (others (s.spilledIn cl a.key)).length < share then .spilled
    else .returned
  let a := { a with stage := st, cause := cause, page := page, locs := [], bytes := [], seq := c.parkSeq,
                    atCore := if a.group = 255 then 0 else s.coreOf a.team,
                    ringAt := if st = .spilled then nextPlace share (others (s.spilledIn cl a.key)) else 0 }
  if st = .returned then s.setAcc a
  else
    ((if st = .spilled then s.spillEntry a else s).setAcc a).setCluster cl
      { c.noteParked s.clock a.key page with parkSeq := (c.parkSeq + 1) % 2 ^ 32 }

/-- A copy marked to fail: its chunks that have not landed are dropped (R223); COPY_FAILURE carries the failure out. -/
def State.markFailed (s : State) (copy : Nat) : State :=
  { s with copies := s.copies.map (fun c => if c.id = copy then { c with failed := true } else c),
           accs := s.accs.filter (fun a => match a.op with | .chunk c _ _ => c ≠ copy | _ => true) }

/-- PRF, CWB and CINV: an address that cannot be reached makes them do nothing (R207, R212). -/
def AccOp.quiet : AccOp → Bool
  | .prf | .cwb | .cinv => true
  | _ => false

/-- EXIT's drop does nothing where its barrier is gone (R250). -/
def AccOp.leaves : AccOp → Bool
  | .bar _ .leave => true
  | _ => false

/-- Whether an access only writes. -/
def AccOp.stores : AccOp → Bool
  | .st _ => true
  | .chunk _ _ w => w
  | _ => false

/-- The two words of XLQ (R213). For a home-1 leaf they tell what the leaf allows: whether the host's own grant is taken in R213 does not
say, and the model asks the host nothing (log entry 107). -/
def State.xlqWords (s : State) (a : Access) : List Byte :=
  match s.placeOf a with
  | .bytes _ | .reg .. => leBytes 8 0x206
  | .mapped =>
    match s.lookup (clusterOf a.core) a.key (pageOf a.va) with
    | some t =>
      if !t.perm.r then leBytes 8 0
      else
        let shared := t.home = 0 && (s.page (frameOf t.base)).shared
        leBytes 4 (1 + 2 * b2n t.perm.r + 4 * b2n t.perm.w + 8 * b2n t.perm.x + 16 * t.size + 64 * b2n shared + 128 * t.home) ++
          leBytes 4 (if t.home = 2 then t.port else 0)
    | none => leBytes 8 0
  | _ => leBytes 8 0

/-- Whether an access is a read of the launch unit, whose answer waits for the next acceptance: unrepairable, it rejects the launch and
no context ends (R227). -/
def AccOp.unitRead : AccOp → Bool
  | .accept _ => true
  | _ => false

/-- An access to ordinary memory translated; `blind` leaves poison out (R306). -/
def State.translateMapped (s : State) (a : Access) (blind : Bool) : State :=
  let cl := clusterOf a.core
  let v := if blind then { s with poison := [] } else s
  match v.look a.key cl a.op a.op.stores a.va a.size a.pieces with
  | .ok locs home port =>
    (s.setAcc { a with stage := .ready, cause := 0, locs := locs, home := home, port := port }).fillTlb cl a.key (pagesOf a.va a.size)
  | .ats _ => s.setAcc { a with stage := .ats }
  | .park cause page => if a.op.quiet then s.dropAcc a.id else s.park a cause page
  | .bad r => if a.op.quiet || a.op.unitRead then s.dropAcc a.id else s.unrepairable a r
  | .noPasid page =>
    if a.op.quiet then s.dropAcc a.id else s.incident a.key 3 (s.record17 a.key cl page 4 1)
  | .linkLost => if a.op.quiet then s.dropAcc a.id else s.endContext a.key 5

/-- An access translated, or refused, or parked (CTU_TRANSLATE). A service request needs no translation, and XLQ is
answered here (R213). -/
def State.translate (s : State) (a : Access) (blind : Bool) : State :=
  match a.op with
  | .svc .. => s.setAcc { a with stage := .ready }
  | .xlq _ => s.setAcc { a with stage := .done, bytes := s.xlqWords a }
  | op =>
    match a.formFault (s.hdr a.team).scratch with
    | some r => if op.leaves then s.dropAcc a.id else s.unrepairable a r
    | none =>
      match s.placeOf a with
      | .bytes l =>
        if op.quiet then s.dropAcc a.id
        else s.setAcc { a with stage := .ready, locs := a.pieces.map (fun g => (l + g.1, g.2)) }
      | .reg .. => if op.quiet then s.dropAcc a.id else s.setAcc { a with stage := .ready }
      | .mapped => s.translateMapped a blind
      | .bad r => if op.quiet || op.leaves then s.dropAcc a.id else s.unrepairable a r
      | .away =>
        match op with
        | .chunk c _ _ => s.markFailed c
        | _ => if op.quiet || op.leaves then s.dropAcc a.id else s.unrepairable a 1

/-! ### At home (R184 to R192) -/

/-- Whether another core holds the delegation of one of the words (R192). -/
def State.delegated (s : State) (l n core : Nat) : Bool :=
  (stampKeys l n).any (fun k => match s.deleg.find k with | some c => c ≠ core | none => false)

/-- The bytes that a read returns, and the state past the free values it used. -/
def State.fetchBytes (s : State) (draw l n : Nat) : List Byte × State := (s.readSegs draw [(l, n)], s.tick n)

/-- The hit in a core's copies that covers a load, if there is one: its bytes and its time (R185). A copy serves only the key
under which it was fetched (R268). -/
def State.hit (s : State) (core draw l n p : Nat) : Option (List Byte × Nat) :=
  let ks := stampKeys l n
  let cs := ks.filterMap (fun k => s.copies1.find (core, k))
  let v := (s.page (frameOf l)).version
  let ts := cs.foldl (fun m c => max m c.stamp.wts) p
  if copyable l && cs.length = ks.length && cs.all (fun c => c.draw = draw && ts ≤ c.stamp.rts && (!isHbm l || c.version = v)) then
    some (((cs.flatMap (·.bytes)).drop (l % 4)).take n, ts)
  else none

/-- Copies of which a core holds at most the lines of its L1; the line of the oldest goes for one more (R3; log entry 33). -/
def fitL1 (core : Nat) (t : Tbl (Nat × Nat) L1Copy) : Tbl (Nat × Nat) L1Copy :=
  let lines := nub ((t.filter (fun e => e.1.1 = core)).map (fun e => lineOf (4 * e.1.2)))
  if lines.length ≤ Config.l1Lines then t
  else t.filter (fun e => !(e.1.1 = core && some (lineOf (4 * e.1.2)) = lines.head?))

/-- A lease received: the core's copies of the words and its floor (R185, R187). -/
def State.keepCopies (s : State) (core draw : Nat) (ks : List Nat) : State :=
  let v := fun k => (s.page (frameOf (4 * k))).version
  let s := ks.foldl (fun s k =>
    { s with copies1 := fitL1 core (s.copies1.set (core, k) ⟨s.stampAt k, v k, draw, s.readSegs draw [(4 * k, 4)]⟩) }) s
  s.setCore core { s.core core with floor := max (s.core core).floor (s.maxRts ks) }

/-- A load performed (R185, R189): its bytes and its timestamp. Without a core it takes no copy and no page. A line that has its
home at a slice is touched there (R184, R361). -/
def State.homeRead (s : State) (core : Option Nat) (draw p l n : Nat) : State × List Byte × Nat :=
  if isMmio l then (s.tick n, s.freeBytes n, p) else
  let s := match core with | some c => s.touch l c | none => s
  let ks := stampKeys l n
  let pg := s.page (frameOf l)
  if isHbm l && !pg.shared then
    let ts := max p pg.cts
    let b := s.fetchBytes draw l n
    ({ b.2 with pages := b.2.pages.set (frameOf l) { pg with cts := ts } }, b.1, ts)
  else
    match core.bind (fun c => s.hit c draw l n p) with
    | some x => (s, x.1, x.2)
    | none =>
      let ts := max p (s.maxWts ks)
      let s := (s.holdLine l).mapStamps ks (fun x => { x with rts := max x.rts (ts + if copyable l then Config.lease else 0) })
      let b := s.fetchBytes draw l n
      let u := if copyable l then b.2.touchSlice (s.keyOf draw) draw l false else b.2
      match core with
      | some c => (if copyable l then u.keepCopies c draw ks else u, b.1, ts)
      | none => (u, b.1, ts)

/-- The line that a store makes dirty: host-homed lines with the words written (R309). -/
def State.soil (s : State) (key : Nat) (va : D64) (l n : Nat) : State :=
  if inSpace .host l then
    let old := (s.dirty.get (key, va, 0) (lineOf l)).2.2
    let m := maskOf ((List.range ((l + n - 1) / 4 - l / 4 + 1)).map (fun i => (l / 4 + i) % 32))
    { s with dirty := s.dirty.set (lineOf l) (key, lineAddr va, old ||| m) }
  else s

/-! ### Performing an access -/

/-- The least time of a lane's next access on a core: the floor less 32, and what ticks have made of it since (R187). -/
def Core.least (c : Core) : Nat := max (c.floor - 32) c.aged

/-- The timestamp that an access starts from: the greatest of its lanes' or its own, raised by the core's floor (R187). -/
def State.startTs (s : State) (a : Access) : Nat :=
  let p := a.lanes.foldl (fun m l => max m (s.lane ⟨a.team, a.group, l⟩).pts) a.ts
  max p (s.core a.core).least

/-- The lanes of an access take its time, and so do those that took a value sent after it (R254). -/
def State.raise (s : State) (a : Access) (ts : Nat) : State :=
  let s := a.lanes.foldl (fun s l =>
    let L : LaneId := ⟨a.team, a.group, l⟩
    s.setLane L { s.lane L with pts := max (s.lane L).pts ts }) s
  { s with maxTs := max s.maxTs ts,
           lanes := s.lanes.map (fun e =>
             if e.2.after.any (fun x => x.1 = a.id) then (e.1, { e.2 with pts := max e.2.pts ts }) else e) }

/-- The key draw of an access's context. -/
def State.drawOf (s : State) (key : Nat) : Nat := ((s.ctx key).map (·.draw)).getD 0

/-- Bytes of a register, and the register with bytes replaced (R40). -/
def State.regBytes (s : State) (r : RId) : List Byte :=
  match r.cls with
  | .v => leBytes 4 (s.v.get 0 r).toNat
  | .s => leBytes 8 (s.s.get 0 r).toNat
  | _ => [if r.num = 0 then 1 else BitVec.ofNat 8 (b2n (s.p.get false r))]
def State.setRegBytes (s : State) (r : RId) (b : List Byte) : State :=
  match r.cls with
  | .v => { s with v := s.v.set r (BitVec.ofNat 32 (ofLe b)) }
  | .s => { s with s := s.s.set r (BitVec.ofNat 64 (ofLe b)) }
  | _ => if r.num = 0 then s else { s with p := s.p.set r (bitOf (ofLe b) 0) }

/-- Bytes of a list replaced from `off` on. -/
def overlay (b : List Byte) (off : Nat) (x : List Byte) : List Byte := b.take off ++ x ++ b.drop (off + x.length)

/-- Bytes of a register read, and replaced, with the register's timestamps (R184, R185). A store that covers the register clears
its poison mark (R40, R307). -/
def State.readReg (s : State) (r : RId) (byte n p : Nat) : State × List Byte × Nat :=
  let x := s.rstamps.get ⟨0, 0⟩ r
  let ts := max p x.wts
  ({ s with rstamps := s.rstamps.set r { x with rts := max x.rts ts } }, ((s.regBytes r).drop byte).take n, ts)
def State.storeReg (s : State) (r : RId) (byte p : Nat) (bs : List Byte) : State × Nat :=
  let x := s.rstamps.get ⟨0, 0⟩ r
  let ts := max p (x.rts + 1)
  let t := s.setRegBytes r (overlay (s.regBytes r) byte bs)
  let t := if bs.length = (s.regBytes r).length then t.setMark r ⟨true, false⟩ else t
  ({ t with rstamps := t.rstamps.set r ⟨ts, ts⟩ }, ts)

/-- An access through the register aperture, once the register is full (R40). A record load that has read its header goes on to
the limbs, which no register is wide enough for (R39, R176). -/
def State.performReg (s : State) (a : Access) (r : RId) (byte : Nat) : State :=
  match a.op with
  | .st data =>
    let w := s.storeReg r byte (s.startTs a) (leBytes a.size data)
    (w.1.raise a w.2).dropAcc a.id
  | op =>
    let b := s.readReg r byte a.size (s.startTs a)
    let need := match op with | .wld _ => wrecSize b.2.1 | _ => 0
    (b.1.raise a b.2.2).setAcc (if a.size < need then { a with size := need, stage := .core, bytes := [], locs := [] }
      else { a with stage := .done, bytes := b.2.1, ts := b.2.2, poison := (s.mark r).poison })

/-- Whether performing an access ends it: nothing is answered to a store, a prefetch or a cache operation. -/
def AccOp.silent : AccOp → Bool
  | .st _ | .prf | .cwb | .cinv => true
  | _ => false

/-- What a piece of an access does at its home: the state, the bytes it returns, its timestamp. `poisoned` stands for
RESOLVE.POISON on a poisoned line (R306). -/
def State.pieceAtHome (s : State) (a : Access) (l n : Nat) (poisoned : Bool) : State × List Byte × Nat :=
  let p := s.startTs a
  let draw := s.drawOf a.key
  let done := a.size - (a.locs.map (·.2)).foldl (· + ·) 0
  let bs := fun (x : Nat) => leBytes n (x / 256 ^ done)
  match a.op with
  | .st data =>
    let w := s.homeWrite (some a.core) draw p l n (some (bs data))
    let w1 := w.1.soil a.key (a.va + BitVec.ofNat 64 done) l n
    (if wholeLine (l, n) then { w1 with poison := w1.poison.filter (· ≠ lineOf l) } else w1, [], w.2)
  | .atom _ fn b c =>
    let r := s.fetchBytes draw l n
    let old := ofLe r.1
    let new := if poisoned || !atomWrites fn old b then none else some (leBytes n (atomF fn a.ctl old b c))
    let w := r.2.homeWrite (some a.core) draw p l n new
    ((if new.isSome then w.1.soil a.key a.va l n else w.1), r.1, w.2)
  | .prf =>
    let pg := s.page (frameOf l)
    if (isHbm l && !pg.shared) || !copyable l then (s, [], 0)
    else
      let ks := stampKeys l n
      let ts := max p (s.maxWts ks)
      let t := (s.holdLine l).mapStamps ks (fun x => { x with rts := max x.rts (ts + Config.lease) })
      ((t.touchSlice (t.keyOf draw) draw l false).keepCopies a.core draw ks, [], 0)
  | .cwb => (if inSpace .host l then s.cleanLine (lineOf l) else s.cleanTags (lineOf l), [], 0)
  | .cinv =>
    let t := { s with copies1 := s.copies1.filter (fun e => lineOf (4 * e.1.2) ≠ lineOf l) }
    (if inSpace .host l then
      (t.untag (fun x => x.line = lineOf l && t.dirtyMask (lineOf l) = 0)).dropClean (lineOf l)
    else t, [], 0)
  | op => s.homeRead (if op.unitRead then none else some a.core) draw p l n

/-- A request to a peer's home leaves as a flit of its port, which the sender keeps for replay until it is acknowledged (R364). -/
def State.sendFlit (s : State) (l : Nat) : State :=
  let p := l / 2 ^ 64 % 2 ^ 40
  if inSpace .peer l && p < 12 then
    let x := s.ports.get Port.idle p
    { s with ports := s.ports.set p { x with sendSeq := (x.sendSeq + 1) % 4096, replay := x.replay ++ [x.sendSeq] } }
  else s

/-- Whether the replay buffer of a port has room for so many flits more: a request waits while it is full (R364; log entry 110). -/
def State.flitRoom (s : State) (port n : Nat) : Bool := (s.ports.get Port.idle port).replay.length + n ≤ 512

/-- The next piece of an access performed. With the last one the access is over, or waits for its answer to leave; a record
load that has read its header goes on to read its limbs (R176). -/
def State.performPiece (s : State) (a : Access) (poisoned : Bool) : State :=
  match a.locs with
  | [] => s
  | (l, n) :: rest =>
    let r := s.pieceAtHome a l n poisoned
    let s := (r.1.raise a r.2.2).sendFlit l
    let a := { a with locs := rest, bytes := a.bytes ++ r.2.1, ts := max a.ts r.2.2, poison := a.poison || poisoned }
    if !rest.isEmpty then s.setAcc a
    else if a.op.silent then s.dropAcc a.id
    else
      let need := match a.op with | .wld _ => wrecSize (a.bytes.take 8) | _ => 0
      if a.size < need then s.setAcc { a with size := need, stage := .core, bytes := [], locs := [] }
      else s.setAcc { a with stage := .done }

/-- Whether a location lies beyond the host link, and the link is not up. -/
def State.linkAway (s : State) (l : Nat) : Bool := (inSpace .host l || isMmio l) && s.board.link ≠ .up

/-- Whether the lines that a location needs can be had now: the host link up, the page not private to another core, no
delegation elsewhere, and room for a flit on a peer's port. -/
def State.reachable (s : State) (core l n : Nat) : Bool :=
  !(s.foreignPage l core) && !(s.delegated l n core) && !s.linkAway l &&
    (!(inSpace .peer l) || s.flitRoom (l / 2 ^ 64 % 2 ^ 40) 1)

/-- Whether a line is poisoned that a piece of an access is on, where the piece does not overwrite the whole line (R305). -/
def State.meetsPoison (s : State) (a : Access) (g : Nat × Nat) : Bool :=
  (isHbm g.1 || inSpace .host g.1) && s.poison.contains (lineOf g.1) && !(a.op.stores && wholeLine g)

/-- The bytes of an access that are performed. -/
def Access.doneBytes (a : Access) : Nat := a.size - (a.locs.map (·.2)).foldl (· + ·) 0

/-! ### Barriers at home (R256 to R260) -/

/-- The fields of a barrier object. -/
structure Barrier where
  stamp : Nat
  e : Nat
  outbound : Int
  inbound : Int
  expected : Nat
  pending : Nat
  w : Bool
  f : Bool
  a : Bool
  x : Bool
  gen : Nat
  deriving DecidableEq, Repr

/-- The object that 16 bytes hold (R256). -/
def Barrier.of (b : List Byte) : Barrier :=
  let v := ofLe b
  { stamp := bits v 112 16, e := bits v 104 4, outbound := sext 32 (bits v 72 32), inbound := sext 32 (bits v 40 32),
    expected := bits v 24 16, pending := bits v 8 16, w := bitOf v 7, f := bitOf v 6, a := bitOf v 5, x := bitOf v 4,
    gen := bits v 0 4 }

/-- Its 16 bytes. Whatever stood in the reserved bits [111:108], an update leaves them 0: R256 says only that they must be zero,
so what an object with other bits there becomes is the model's choice (log entry 98). -/
def Barrier.bytes (b : Barrier) : List Byte :=
  leBytes 16 (b.gen + b2n b.x * 2 ^ 4 + b2n b.a * 2 ^ 5 + b2n b.f * 2 ^ 6 + b2n b.w * 2 ^ 7 + b.pending * 2 ^ 8 +
    b.expected * 2 ^ 24 + wrapTo 32 b.inbound * 2 ^ 40 + wrapTo 32 b.outbound * 2 ^ 72 + b.e * 2 ^ 104 + b.stamp * 2 ^ 112)

/-- wrap32 of a signed count. -/
def wrap32 (x : Int) : Int := sext 32 (wrapTo 32 x)

/-- The update of R257. -/
def Barrier.update (b : Barrier) (clock n k : Nat) (din dout : Int) : Barrier :=
  let b := if b.a then b else { b with a := true, stamp := clock / 1024 % 2 ^ 16 }
  let b := { b with pending := b.pending - (n + k), expected := b.expected - k, inbound := wrap32 (b.inbound + din),
                    outbound := wrap32 (b.outbound + dout) }
  if b.pending = 0 && b.inbound = 0 && b.outbound = 0 then
    { b with gen := (b.gen + 1) % 16, pending := b.expected, inbound := 0, outbound := 0, a := false }
  else b

/-- The object after BINIT (R259). -/
def Barrier.init (expected : Nat) (x : Bool) (e : Nat) : Barrier :=
  { stamp := 0, e := e, outbound := 0, inbound := 0, expected := expected, pending := expected, w := false, f := false,
    a := false, x := x, gen := 0 }

/-- A team's watch table after a BINIT, and the exponent that the object gets (R262). -/
def watchInit (tab : List D64) (va : D64) (e : Nat) : List D64 × Nat :=
  if e = 0 then (tab.filter (· ≠ va), 0)
  else if va ∈ tab then (tab, e)
  else if tab.length < 16 then (tab ++ [va], e)
  else (tab, 0)

/-- The team whose scratchpad holds a location, and the 0xFF00 form of the address. -/
def scratchTeam (l : Nat) : Nat := l / 2 ^ 64 % 2 ^ 40
def ownForm (l : Nat) : D64 := BitVec.ofNat 64 (0xFF00 * 2 ^ 48 + l % 2 ^ 48)

/-- A barrier whose phase is over, or that is made anew, leaves the lists of those on which peers' copies have counted bytes of an open
phase (R327, R329). -/
def State.phaseOver (s : State) (l : Nat) (ended : Bool) : State :=
  if ended && s.ports.any (fun e => e.2.counted.contains l) then
    { s with ports := s.ports.map (fun e => (e.1, { e.2 with counted := e.2.counted.filter (· ≠ l) })) }
  else s

/-- One atomic access at a barrier's home (R257): the object changes, its block is stamped. It answers the object read and
the timestamp. -/
def State.barrierAt (s : State) (l p : Nat) (op : BarOp) : State × Barrier × Nat :=
  let r := s.fetchBytes 0 l 16
  let b := Barrier.of r.1
  match op with
  | .test =>
    let h := s.homeRead none 0 p l 16
    (h.1, Barrier.of h.2.1, h.2.2)
  | .init expected x e =>
    let t := scratchTeam l
    let w := watchInit (s.watch.get [] t) (ownForm l) e
    let h := s.homeWrite none 0 p l 16 (some (Barrier.init expected x w.2).bytes)
    (State.phaseOver { h.1 with watch := h.1.watch.set t w.1 } l true, b, h.2)
  | .update n k din dout =>
    let c := b.update s.clock n k din dout
    let h := r.2.homeWrite none 0 p l 16 (some c.bytes)
    (h.1.phaseOver l (c.gen ≠ b.gen), b, h.2)
  | .fail =>
    let h := r.2.homeWrite none 0 p l 16 (some { b with f := true }.bytes)
    (h.1, b, h.2)
  | .leave =>
    let c := b.update s.clock 0 1 0 0
    let h := r.2.homeWrite none 0 p l 16 (if b.x then some c.bytes else none)
    (h.1.phaseOver l (b.x && c.gen ≠ b.gen), b, h.2)

/-! ### Answers (R203, R299) -/

/-- The value that a load writes, by its destination (R206). -/
def loadWrites (d : Nat) (signed : Bool) (b : List Byte) : List RegW :=
  if b.length < 4 then
    [.v d (if signed then BitVec.ofInt 32 (sext (8 * b.length) (ofLe b)) else BitVec.ofNat 32 (ofLe b))]
  else (List.range (b.length / 4)).map (fun i => .v (d + i) (BitVec.ofNat 32 (leAt b (4 * i) 4)))

/-- The register that DLD writes from a record, and its flags (R160); `dtb` was captured. -/
def dldValue (dtb : Nat) (b : List Byte) : DVal × W32 :=
  let xs := (List.range 8).map (fun i => BitVec.ofNat 32 (leAt b (4 * i) 4))
  let ws := (List.range 8).map (fun i => BitVec.ofNat 16 (leAt b (32 + 2 * i) 2))
  let ok := (ws.map (·.toNat)).foldl (· + ·) 0 = 32768
  let xs := if ok then xs else List.replicate 8 0x7FC00000
  let r := DVal.make (xs.zip ws) (BitVec.ofNat 16 (2 ^ dtb))
  (r, r.dn ||| (if ok then 0 else flagDI))

/-- A lane that can still receive an answer: its team stands and it has not exited (R250, R299). -/
def State.receives (s : State) (L : LaneId) : Bool := (s.teams.find L.team).isSome && (s.lane L).live

/-- The registers that an access fills, for one lane, with the flags it merges. -/
def State.answer (s : State) (a : Access) (L : LaneId) : List RegW × W32 × W32 :=
  match a.op with
  | .ld d signed => (loadWrites d signed a.bytes, 0, 0)
  | .sld d => ([.s d (BitVec.ofNat 64 (ofLe a.bytes))], 0, 0)
  | .atom d .. => (loadWrites d false a.bytes, 0, 0)
  | .xlq d => (loadWrites d false a.bytes, 0, 0)
  | .bar d .test => ([.v d (BitVec.ofNat 32 (ofLe a.bytes))], 0, 0)
  | .dld d =>
    let x := dldValue (a.ctl.toNat % 16) a.bytes
    ([.d d x.1], x.2, 0)
  | .wld d =>
    let x := wldCommit (s.getW L d).cap (precOf a.ctl) a.bytes
    ([.w d x.1], 0, if x.2 then flagPX else 0)
  | _ => ([], 0, 0)

/-- The answer of an access written to its lanes' registers (R203, R299, R306). -/
def State.answerLanes (s : State) (a : Access) : State :=
  a.lanes.foldl (fun s l =>
    let L : LaneId := ⟨a.team, a.group, l⟩
    if !s.receives L then s else
    let r := s.answer a L
    let s := s.writes L r.1
    let s := if a.poison then r.1.foldl (fun s w => s.setMark (s.rid L w.cls w.num) ⟨true, true⟩) s else s
    if a.poison then s else s.mergeFlags L r.2.1 r.2.2) s

/-- The descriptor that a tensor id takes: it is invalid where the bytes do not meet R218 (R219). -/
def State.takeDesc (s : State) (t x : Nat) (b : List Byte) : State :=
  { s with tensors := s.tensors.set (t, x) (match descOf b with | some d => .valid d | none => .invalid) }

/-- The answer of an access applied: a TSET's to its tensor id, any other's to registers. -/
def State.applyAnswer (s : State) (a : Access) : State :=
  match a.op with
  | .tset x => s.takeDesc a.team x a.bytes
  | _ => s.answerLanes a

/-- The held completions that a test finds applied, in their order of arrival; each is applied once (R319, R320). -/
def State.applyHeldIf (s : State) (p : Access → Bool) : State :=
  (s.delayed.filter p).foldl (fun s a => s.applyAnswer a) { s with delayed := s.delayed.filter (fun a => !p a) }

/-- Those of a team. -/
def State.applyHeld (s : State) (t : Nat) : State := s.applyHeldIf (fun a => a.team = t)

end Sys2Proof.Machine
end

