-- ==== Sys2Proof/Machine/Pair.lean ====
section
/-! DEFINITION. The arithmetic of the matrix pair: elements, scales, residues and the accumulator update (R75 to R79, R125),
the transform and quantisation of R131, and the attention sums of R134. -/

namespace Sys2Proof.Machine

/-! ### Elements, lines and scales (R75, R77, R117, R118) -/

/-- Bits of an element, and the greatest element value of a format. -/
def rxBits (fmt : Nat) : Nat := if fmt = 1 then 8 else if fmt = 2 then 6 else 4
def qmaxOf (fmt : Nat) : Nat := 2 ^ (rxBits fmt - 1) - 1

/-- The element with an index in packed bytes; none is the element NaN (R75). Every packing is little-endian bits. -/
def elemAt (fmt : Nat) (b : Nat) (i : Nat) : Option Int :=
  let n := rxBits fmt
  let x := bits b (n * i) n
  if x = 2 ^ (n - 1) then none else some (sext n x)

/-- The elements of a packed line. -/
def lineElems (fmt cnt : Nat) (b : List Byte) : List (Option Int) :=
  let x := ofLe b
  (List.range cnt).map (elemAt fmt x)

/-- Elements packed into bytes. -/
def packElems (fmt : Nat) (q : List (Option Int)) : List Byte :=
  let n := rxBits fmt
  leBytes (q.length * n / 8) (q.foldr (fun x acc => acc * 2 ^ n + (match x with | some v => wrapTo n v | none => 2 ^ (n - 1))) 0)

/-- The value of an SC16 scale (R77). -/
def sc16 (s : Nat) : Fval :=
  let e := bits s 9 7
  let f := bits s 0 9
  if e = 127 then (if f = 0 then .inf false else .nan)
  else if e = 0 then .fin false ⟨f, -71, false⟩
  else .fin false ⟨512 + f, (e : Int) - 72, false⟩

/-- A line of a step block: its elements and its scale. -/
structure Line where
  xs : List (Option Int)
  scale : Nat
  deriving DecidableEq, Repr

/-- Line `l` of `cnt` in a dense step block (R117). -/
def denseLine (fmt cnt : Nat) (blk : List Byte) (l : Nat) : Line :=
  let e := elemBytes fmt
  ⟨lineElems fmt 64 ((blk.drop (l * e)).take e), leAt blk (cnt * e + 2 * l) 2⟩

/-- The expansion of a sparse group of four positions (R118). -/
def expandGroup (meta0 : Nat) (kept : List (Option Int)) (g : Nat) : List (Option Int) :=
  let m := bits meta0 (4 * g) 4
  let i0 := m % 4
  let i1 := m / 4
  (List.range 4).map (fun p =>
    if i0 < i1 then
      (if p = i0 then kept.getD (2 * g) none else if p = i1 then kept.getD (2 * g + 1) none else some 0)
    else none)

/-- Line `l` of `cnt` in a sparse step block (R118). -/
def sparseLine (fmt cnt : Nat) (blk : List Byte) (l : Nat) : Line :=
  let e := elemBytes fmt / 2
  let b := blk.drop (l * (e + 8))
  let kept := lineElems fmt 32 (b.take e)
  ⟨(List.range 16).flatMap (expandGroup (leAt b e 8) kept), leAt blk (cnt * (e + 8) + 2 * l) 2⟩

/-! ### Residues (R76) -/

/-- A value in one channel. -/
def residue (m : Nat) (x : Int) : Nat := (x % (m : Int)).toNat

/-- The running sum of products in one channel. -/
def chanSum (m : Nat) (ps : List (Int × Int)) : Nat :=
  ps.foldl (fun acc p => (acc + residue m p.1 * residue m p.2) % m) 0

/-- The exact sum that three residues name. -/
def crt (r1 r2 r3 : Nat) : Int :=
  let x := (1056768 * r1 + 2080641 * r2 + 1056640 * r3) % 2097024
  if 1048512 ≤ x then (x : Int) - 2097024 else x

/-- The block sum of two lines, as the arrays form it; none when an element is NaN. -/
def blockSum (x y : List (Option Int)) : Option Int :=
  if (x.zip y).any (fun p => p.1.isNone || p.2.isNone) then none
  else
    let ps := (x.zip y).map (fun p => (p.1.getD 0, p.2.getD 0))
    some (crt (chanSum 127 ps) (chanSum 128 ps) (chanSum 129 ps))

/-! ### The accumulator update (R79, R125) -/

/-- The NaN values of R79. -/
def causeElem : Nat := 0x7FC00001
def causeScale : Nat := 0x7FC00002
def causeOpp : Nat := 0x7FC00003
def causeZeroInf : Nat := 0x7FC00004

/-- Whether a value is infinite, and whether it is zero. -/
def Fval.isInf : Fval → Bool
  | .inf _ => true
  | _ => false
def Fval.isZeroV : Fval → Bool
  | .fin _ g => g.m = 0 && !g.rest
  | _ => false

/-- A product of values, none of which is NaN: the zero-times-infinity case is none, and a zero product is +0. -/
def prodOf (xs : List Fval) : Option Fval :=
  if xs.any Fval.isZeroV then (if xs.any Fval.isInf then none else some (.zero false))
  else some (xs.foldl Fval.mul (.ofInt 1))

/-- update of R125. -/
def accUpdate (acc : Nat) (x y : Line) (hshift : Nat) : Nat :=
  if Fmt.f32.isNan acc then acc
  else match blockSum x.xs y.xs with
    | none => causeElem
    | some n =>
      let sa := sc16 x.scale
      let sb := sc16 y.scale
      if sa = .nan || sb = .nan then causeScale
      else match prodOf [.ofInt n, sa, sb] with
        | none => causeZeroInf
        | some t =>
          let t := t.scale (-hshift)
          let a := Fmt.f32.val acc
          if a.isInf && t.isInf && a.isNeg ≠ t.isNeg then causeOpp
          else Fmt.f32.put .rne false (a.add .rne t)

/-- One step of a block product over the accumulators, row by row (R125). -/
def productStep (zero : Bool) (hshift : Nat) (rows cols : List Line) (c : List Nat) : List Nat :=
  (rows.mapIdx (fun i x => cols.mapIdx (fun j y =>
    accUpdate (if zero then 0 else c.getD (i * cols.length + j) 0) x y hshift))).flatten

/-! ### Transform and quantisation (R131) -/

/-- One stage of the butterfly on a segment of any length. -/
def butterflyStage (s : Nat) (y : List Nat) : List Nat :=
  let m := modeOf 0
  (List.range y.length).map (fun u =>
    if u % (2 * s) < s then flop2 .f32 m opAdd (y.getD u 0) (y.getD (u + s) 0)
    else flop2 .f32 m opSub (y.getD (u - s) 0) (y.getD u 0))

/-- The transform of 64 inputs in segments of h: stages 1, 2, 4 … below h. -/
def hadamard (h : Nat) (y : List Nat) : List Nat :=
  ([1, 2, 4, 8, 16, 32].filter (· < h)).foldl (fun y s => butterflyStage s y) y

/-- The greatest scale that is too small, bit by bit. -/
def scaleBelow (amax : Fval) (qmax : Nat) : Nat → Nat → Nat
  | 0, r => r
  | i + 1, r =>
    let t := r + 2 ^ i
    scaleBelow amax qmax i (if t ≤ 0xFDFF && ((sc16 t).mul (.ofInt qmax)).cmp amax = .lt then t else r)

/-- The scale chosen for a magnitude (R77). -/
def scaleFor (amax qmax : Nat) : Nat := if amax = 0 then 0 else scaleBelow (Fmt.f32.val amax) qmax 16 0 + 1

/-- A quantised element. -/
def quantise (qmax sc y : Nat) : Option Int :=
  if Fmt.f32.isNan y then none
  else if sc = 0 then some 0
  else if sc = 0xFE00 then
    some (if Fmt.f32.mag y = Fmt.f32.infBits then (if Fmt.f32.neg y then -(qmax : Int) else qmax) else 0)
  else some (cvtInt (-(qmax : Int)) qmax .rne ((Fmt.f32.val y).div 64 (sc16 sc)))

/-- The packed row and the scale of 64 inputs; h is 1 for QNT. -/
def quantRow (fmt h : Nat) (y : List Nat) : List Byte × Nat :=
  let y := hadamard h y
  let amax := (y.filter (fun x => !Fmt.f32.isNan x)).foldl (fun m x => max m (Fmt.f32.mag x)) 0
  let sc := scaleFor amax (qmaxOf fmt)
  (packElems fmt (y.map (quantise (qmaxOf fmt) sc)), sc)

/-! ### Attention (R134) -/

/-- Twelve significant bits: the format that holds a weight. -/
def sig12 : Fmt := ⟨8, 11⟩

/-- What one key contributes to a row: nothing when masked, a cause for every column, or a weight in units of 2^-43 with
its overflow. -/
inductive KeyOut where
  | skip
  | cause (c : Nat)
  | weight (p : Nat) (ovf : Bool)
  deriving DecidableEq, Repr

/-- The weight of e = x − cap. -/
def weightOf (e : Fval) : KeyOut :=
  if e.cmp (.ofInt (-32)) = .lt then .weight 0 false
  else if e.cmp (.ofInt 8) = .gt then .weight (2 ^ 51) true
  else match sig12.val (sig12.put .rne false (e.exp2 sig12 .rne)) with
    | .fin _ g => .weight (scaled false g (-43)).toNat false
    | _ => .weight 0 false

/-- Row i against key k of a block. -/
def keyOut (masked : Bool) (q key : Line) (qk cap : Nat) : KeyOut :=
  if masked then .skip
  else match blockSum q.xs key.xs with
    | none => .cause 1
    | some n =>
      let sq := sc16 q.scale
      let ks := sc16 key.scale
      let fq := Fmt.f32.val qk
      let fc := Fmt.f32.val cap
      if [sq, ks, fq, fc].any (· = .nan) then .cause 2
      else if [.ofInt n, sq, ks, fq].any Fval.isZeroV && [sq, ks, fq].any Fval.isInf then .cause 3
      else
        let x := [sq, ks, fq].foldl Fval.mul (.ofInt n)
        if x.isInf && fc.isInf && x.isNeg = fc.isNeg then .cause 4 else weightOf (x.add .rne fc.neg)

/-- The sums of one row: 64 numerators, the denominator, and the cause sets of the columns as bit masks. -/
structure AttnRow where
  num : List Int
  den : Int
  causes : List Nat
  ovf : Bool
  deriving DecidableEq, Repr

/-- A cause added to every column. -/
def AttnRow.addCause (r : AttnRow) (c : Nat) : AttnRow := { r with causes := r.causes.map (fun m => m ||| 2 ^ c) }

/-- One key's contribution with its values. -/
def AttnRow.addKey (r : AttnRow) (vals : List (Option Int)) : KeyOut → AttnRow
  | .skip => r
  | .cause c => r.addCause c
  | .weight p ovf =>
    { num := r.num.mapIdx (fun j x => match vals.getD j none with | some v => x + p * v | none => x),
      den := r.den + p,
      causes := r.causes.mapIdx (fun j m => match vals.getD j none with | some _ => m | none => m ||| 2),
      ovf := r.ovf || ovf }

/-- Key block n applied to row i (R133, R134). -/
def attnRow (fmt : Nat) (causal : Bool) (qoff : Int) (qk cap n i : Nat) (q : Line) (blk : List Byte) (r : AttnRow) :
    AttnRow :=
  let e := elemBytes fmt
  (List.range 32).foldl (fun r k =>
    let g : Int := (32 * n + k : Nat)
    let key : Line := ⟨lineElems fmt 64 ((blk.drop (k * e)).take e), leAt blk (32 * e + 2 * k) 2⟩
    let vals := lineElems fmt 64 ((blk.drop (32 * e + 64 + k * e)).take e)
    r.addKey vals (keyOut (causal && decide ((i : Int) + qoff < g)) q key qk cap)) r

/-- An output of ATTN (R134). -/
def attnOut (num den : Int) (causes vs : Nat) : Nat :=
  if bitOf causes 1 then causeElem
  else if bitOf causes 2 then causeScale
  else if bitOf causes 3 then causeZeroInf
  else if bitOf causes 4 then causeOpp
  else if sc16 vs = .nan then causeScale
  else if den = 0 then 0
  else if num = 0 && vs = 0xFE00 then causeZeroInf
  else Fmt.f32.put .rne false (((Fval.ofInt num).mul (sc16 vs)).div 64 (.ofInt den))

end Sys2Proof.Machine
end

