-- ==== Sys2Proof/Machine/Runs.lean ====
section
/-! DEFINITION. Runs: how they are created, what they read and write in the Comb, how the escapement shares the matrix pair,
and their steps (R115, R120 to R129, R134 to R138). -/

namespace Sys2Proof.Machine

/-! ### Tiles and timestamps of runs -/

/-- A tile gets one more reader, or one reader less; a waiting release takes effect with the last (R120, R221). -/
def State.addReader (s : State) (t n : Nat) : State :=
  match s.tile t n with
  | some x => s.setTile t n { x with readers := x.readers + 1 }
  | none => s
def State.dropReader (s : State) (t n : Nat) : State :=
  match s.tile t n with
  | some x =>
    let r := x.readers - 1
    s.setTile t n (if x.rel && r = 0 then { x with readers := r, rel := false, state := .empty, progress := 0 }
      else { x with readers := r })
  | none => s

/-- A tile's state and progress. -/
def State.markTile (s : State) (t n : Nat) (st : TileState) (progress : Nat) : State :=
  match s.tile t n with
  | some x => s.setTile t n { x with state := st, progress := progress }
  | none => s

/-- The greatest timestamp of a group's lanes. -/
def State.groupPts (s : State) (t g : Nat) : Nat :=
  (List.range (s.hdr t).width).foldl (fun m i => max m (s.lane ⟨t, g, i⟩).pts) 0

/-- Every lane of a team raised to a time: its lanes can then observe the end of a run or copy (R187, R193). -/
def State.raiseTeam (s : State) (t ts : Nat) : State :=
  { s with lanes := s.lanes.map (fun e => if e.1.team = t then (e.1, { e.2 with pts := max e.2.pts ts }) else e),
           maxTs := max s.maxTs ts }

/-- Whether accesses that a group issued before a run, or after which its lanes stand, are still to be performed (R138, R193,
R254). -/
def State.groupOlder (s : State) (t g id : Nat) : Bool :=
  s.accs.any (fun a => a.team = t && a.group = g && a.id < id && !a.lanes.isEmpty && !a.performed) ||
  (List.range (s.hdr t).width).any (fun l => s.behindSender ⟨t, g, l⟩ id)

/-- The keys of the stamps of a stretch of scratchpad. -/
def blockKeys (l n : Nat) : List Nat :=
  if n = 0 then [] else (List.range ((l + n - 1) / 128 - l / 128 + 1)).map (fun i => (l / 128 + i) * 32)

/-- A run's read and write of Comb bytes, with its time; accumulator storage has no stamps, since no address reaches it. -/
def State.combRead (s : State) (acc : Bool) (t off n ts : Nat) : State × List Byte × Nat :=
  let l := loc (if acc then .acc else .scratch) t off
  let ks := if acc then [] else blockKeys l n
  let ts := max ts (s.maxWts ks)
  let r := s.fetchBytes 0 l n
  (r.2.mapStamps ks (fun x => { x with rts := max x.rts ts }), r.1, ts)
def State.combWrite (s : State) (acc : Bool) (t off ts : Nat) (b : List Byte) : State × Nat :=
  let l := loc (if acc then .acc else .scratch) t off
  let ks := if acc then [] else blockKeys l b.length
  let ts := if acc then ts else max ts (s.maxRts ks + 1)
  ((s.mapStamps ks (fun _ => ⟨ts, ts⟩)).storeSegs 0 [(l, b.length)] b, ts)

/-- 4-byte values of bytes, and back. -/
def words4 (b : List Byte) : List Nat := (List.range (b.length / 4)).map (fun i => leAt b (4 * i) 4)
def bytes4 (xs : List Nat) : List Byte := xs.flatMap (leBytes 4)

/-! ### Creating and ending runs -/

/-- Whether a kind of run uses the pair (R127). -/
def RunKind.paired : RunKind → Bool
  | .accz | .accrd | .accwr => false
  | _ => true

/-- The tiles that a run reads and the one it writes. -/
def Run.sources (r : Run) : List Nat :=
  match r.kind with
  | .mma | .mloop | .mloops | .attn => [r.a, r.b]
  | .hadq | .qnt | .accrd | .accwr => [r.a]
  | .accz => []

/-- A run replaced. -/
def State.setRun (s : State) (r : Run) : State := { s with runs := s.runs.map (fun x => if x.id = r.id then r else x) }

/-- A run created by the word of the issue opportunity: tile states change, and a run of the pair joins the escapement
(R120, R127). -/
def State.startRun (s : State) (k : RunKind) (c a b f : Nat) (par : List D64) (total : Nat) : State :=
  let t := s.sel.team
  let r : Run := { id := s.nextId, team := t, group := s.sel.group, kind := k, c := c, a := a, b := b, f := f, par := par,
                   pos := 0, total := total, ts := s.groupPts t s.sel.group, asked := [], eaten := [], lines := [],
                   causes := [], ovf := false }
  let s := r.sources.foldl (fun s n => s.addReader t n) (s.markTile t c .filling 0)
  let s := { s with nextId := s.nextId + 1, runs := s.runs ++ [r] }
  let core := (s.team t).core
  if k.paired then s.setCore core { s.core core with fifo := (s.core core).fifo ++ [r.id] } else s

/-- The end of a run (R120): readers leave, the destination is READY, the pair is free. -/
def State.endRun (s : State) (r : Run) : State :=
  let s := r.sources.foldl (fun s n => s.dropReader r.team n) (s.markTile r.team r.c .ready 0)
  let core := (s.team r.team).core
  let co := s.core core
  let s := if r.kind.paired then
      s.setCore core { co with hold := if co.hold.map (·.1) = some r.id then none else co.hold, fifo := co.fifo.filter (· ≠ r.id) }
    else s
  ({ s with runs := s.runs.filter (fun x => x.id ≠ r.id) }).raiseTeam r.team r.ts

/-- Whether the debugger stops the runs and copies of a group: it halts the group (R321), or a group of the team at a BRK (R141,
R224; log entry 100). -/
def State.paused (s : State) (t g : Nat) : Bool :=
  (s.group t g).dbg || (List.range (s.hdr t).groups).any (fun j => (s.group t j).brk)

/-- Whether a run may take a step: its team is resident on a running core and not halted (R126, R141), and the accesses its
group issued before it are performed (R138). -/
def State.runGoes (s : State) (r : Run) : Bool :=
  (s.team r.team).runs && s.coreOn (s.team r.team).core && !s.board.clocksOff && s.board.powered &&
    !s.paused r.team r.group && !s.groupOlder r.team r.group r.id

/-- The attention runs that a halt stops give up the blocks that have arrived and were not consumed (R136). -/
def State.discardBlocks (s : State) (stops : Run → Bool) : State :=
  { s with runs := s.runs.map (fun r => if r.kind = .attn && stops r then { r with asked := [], lines := [] } else r) }

/-- A run's time before a step. -/
def State.runTs (s : State) (r : Run) : Nat := max r.ts (s.groupPts r.team r.group)

/-- The run that holds a core's pair, with the steps of its lease. -/
def State.holder (s : State) (core : Nat) : Option (Run × Nat) :=
  match (s.core core).hold with
  | none => none
  | some (id, n) => (s.run id).map (fun r => (r, n))

/-- Whether a kind of run yields at the end of a lease (R128). -/
def RunKind.leased : RunKind → Bool
  | .mloop | .mloops | .attn => true
  | _ => false

/-- A step counted: the lease, the progress, and the end with the last (R115, R126). -/
def State.countStep (s : State) (r : Run) (n : Nat) : State :=
  let r := { r with pos := r.pos + 1 }
  let core := (s.team r.team).core
  let s := (s.setRun r).setCore core { s.core core with hold := some (r.id, n + 1) }
  if r.pos = r.total then s.endRun r
  else match s.tile r.team r.c with
    | some x => s.setTile r.team r.c { x with progress := r.pos }
    | none => s

/-! ### Steps of the pair -/

/-- The start of an operand's step block (R124). -/
def blockOff (off : Nat) (adv : Int) (kb : Nat) : Nat := ((off : Int) + kb * adv).toNat

/-- One step of a block product (R125). -/
def State.productRun (s : State) (r : Run) (n : Nat) : State :=
  match s.tile r.team r.a, s.tile r.team r.b, s.tile r.team r.c with
  | some x, some y, some z =>
    let p0 := (r.par.getD 0 0).toNat
    let p1 := if r.kind = .mma then 0 else r.par.getD 1 0
    let sparse := r.kind = .mloops
    let ra := s.combRead false r.team (blockOff x.off (advA p1) r.pos) (stepBytes x.fmt x.rows false) (s.runTs r)
    let rb := ra.1.combRead false r.team (blockOff y.off (advB p1) r.pos) (stepBytes y.fmt y.rows sparse) ra.2.2
    let rc := rb.1.combRead true r.team z.off (4 * x.rows * y.rows) rb.2.2
    let rows := (List.range x.rows).map (denseLine x.fmt x.rows ra.2.1)
    let cols := (List.range y.rows).map (if sparse then sparseLine y.fmt y.rows rb.2.1 else denseLine y.fmt y.rows rb.2.1)
    let c := productStep (bitOf p0 20 && r.pos = 0) (bits p0 16 3) rows cols (words4 rc.2.1)
    let w := rc.1.combWrite true r.team z.off rc.2.2 (bytes4 c)
    w.1.countStep { r with ts := w.2 } n
  | _, _, _ => s

/-- One step of HADQ or QNT: one K-block of every row (R131). -/
def State.quantRun (s : State) (r : Run) (n : Nat) : State :=
  match s.tile r.team r.a, s.tile r.team r.c with
  | some x, some z =>
    let h := if r.kind = .qnt then 1 else 16 * 2 ^ r.f
    let e := elemBytes z.fmt
    let base := z.off + r.pos * stepBytes z.fmt z.rows false
    let w := (List.range x.rows).foldl (fun (w : State × Nat) i =>
      let rd := if x.fmt = 4
        then w.1.combRead false r.team (x.off + 4 * (x.cols * i + 64 * r.pos)) 256 w.2
        else w.1.combRead false r.team (x.off + 2 * (x.cols * i + 64 * r.pos)) 128 w.2
      let y := if x.fmt = 4 then words4 rd.2.1 else (List.range 64).map (fun k => leAt rd.2.1 (2 * k) 2 * 2 ^ 16)
      let q := quantRow z.fmt h y
      let w := rd.1.combWrite false r.team (base + i * e) rd.2.2 q.1
      w.1.combWrite false r.team (base + z.rows * e + 2 * i) w.2 (leBytes 2 q.2)) (s, s.runTs r)
    w.1.countStep { r with ts := w.2 } n
  | _, _ => s

/-- MATRIX_STEP: the next step of the run that holds the pair. -/
def State.matrixStep (s : State) (core : Nat) : State :=
  match s.holder core with
  | none => s
  | some (r, n) =>
    if !s.runGoes r || (r.kind.leased && (s.hdr r.team).lease ≤ n) then s
    else match r.kind with
      | .mma | .mloop | .mloops => s.productRun r n
      | .hadq | .qnt => s.quantRun r n
      | _ => s

/-! ### Attention -/

/-- 80-bit slots of the workspace (R135). -/
def slotBytes (x : Int) : List Byte := leBytes 10 (wrapTo 80 x) ++ List.replicate 6 0
def slotVal (b : List Byte) (i : Nat) : Int := sext 80 (leAt b (16 * i) 10)

/-- What starting an attention run clears: the flag, the sums and the causes (R134). -/
def State.attnStart (s : State) (r : Run) : State :=
  match s.tile r.team r.c with
  | some z =>
    let s := s.setTile r.team r.c { z with ovf := false }
    let w := s.combWrite true r.team (z.off + 256 * z.rows) r.ts (List.replicate (1040 * z.rows) 0)
    w.1.setRun { r with causes := List.replicate (64 * z.rows) 0, ovf := false }
  | none => s

/-- A key block all of whose lines have arrived, the lowest such. -/
def Run.arrived (r : Run) : Option Nat :=
  (List.range r.total).find? (fun n => !(r.eaten.contains n) &&
    (List.range (linesOf r.f)).all (fun i => r.lines.any (fun e => e.1 = n * linesOf r.f + i)))

/-- The bytes of an arrived block. -/
def Run.block (r : Run) (n : Nat) : List Byte :=
  (List.range (linesOf r.f)).flatMap (fun i =>
    ((r.lines.find? (fun e => e.1 = n * linesOf r.f + i)).map (·.2)).getD (List.replicate 128 0))

/-- The requests for the lines of key block n (R136). -/
def State.attnAsk (s : State) (r : Run) (n : Nat) : State :=
  let t := s.team r.team
  let base : D64 := (r.par.getD 2 0) + BitVec.ofNat 64 n * ((r.par.getD 1 0) &&& 0xFFFFFFFF)
  let s := (List.range (linesOf r.f)).foldl (fun s i =>
    { s with
      nextId := s.nextId + 1,
      accs := s.accs ++ [{
        id := s.nextId, key := t.key, jn := t.jn, team := r.team, group := r.group, lanes := [], core := t.core, kind := 5,
        op := .attn r.id (n * linesOf r.f + i), va := base + BitVec.ofNat 64 (128 * i), size := 128, major := 16, fn := 3,
        ctl := 0, stage := .core, page := 0, locs := [], home := 0, port := 0, seq := 0, cause := 0, bytes := [],
        ts := s.runTs r, poison := false }] }) s
  s.setRun { r with asked := r.asked ++ [n] }

/-- Row i of the workspace and of the causes. -/
def rowOf (ws : List Byte) (causes : List Nat) (ovf : Bool) (i : Nat) : AttnRow :=
  { num := (List.range 64).map (fun j => slotVal ws (65 * i + j)), den := slotVal ws (65 * i + 64),
    causes := (causes.drop (64 * i)).take 64, ovf := ovf }

/-- Key block n consumed: one step of the run; with the last one the outputs are written (R134). -/
def State.attnEat (s : State) (r : Run) (n cnt : Nat) : State :=
  match s.tile r.team r.a, s.tile r.team r.b, s.tile r.team r.c with
  | some x, some y, some z =>
    let p0 := (r.par.getD 0 0).toNat
    let p3 := (r.par.getD 3 0).toNat
    let rq := s.combRead false r.team x.off (stepBytes x.fmt x.rows false) (s.runTs r)
    let rw0 := rq.1.combRead true r.team (z.off + 256 * z.rows) (1040 * z.rows) rq.2.2
    let blk := r.block n
    let rows := (List.range z.rows).map (fun i =>
      attnRow (r.f + 1) (bitOf p0 16) (sext 32 (bits p0 32 32)) (bits p3 0 32) (bits p3 32 32) n i
        (denseLine x.fmt x.rows rq.2.1 i) blk (rowOf rw0.2.1 r.causes r.ovf i))
    let ww := rw0.1.combWrite true r.team (z.off + 256 * z.rows) rw0.2.2
      (rows.flatMap (fun w => w.num.flatMap slotBytes ++ slotBytes w.den))
    let r := { r with causes := rows.flatMap (·.causes), ovf := rows.any (·.ovf), eaten := n :: r.eaten, ts := ww.2,
                      lines := r.lines.filter (fun e => e.1 / linesOf r.f ≠ n), asked := r.asked.filter (· ≠ n) }
    if r.pos + 1 < r.total then ww.1.countStep r cnt
    else
      let rs := ww.1.combRead false r.team y.off 128 ww.2
      let out := rows.flatMap (fun w => (List.range 64).map (fun j =>
        attnOut (w.num.getD j 0) w.den (w.causes.getD j 0) (leAt rs.2.1 (2 * j) 2)))
      let wo := rs.1.combWrite true r.team z.off rs.2.2 (bytes4 out)
      (wo.1.setTile r.team r.c { z with ovf := r.ovf }).countStep { r with ts := wo.2 } cnt
  | _, _, _ => s

/-- ATTN_BLOCK: the run consumes a block that has arrived, or asks for the next one. -/
def State.attnBlock (s : State) (id : Nat) : State :=
  match s.run id with
  | none => s
  | some r =>
    match s.holder (s.team r.team).core with
    | none => s
    | some (h, n) =>
      if h.id ≠ id || r.kind ≠ .attn || !s.runGoes r || (s.hdr r.team).lease ≤ n then s
      else match r.arrived with
        | some b => s.attnEat r b n
        | none =>
          match (List.range r.total).find? (fun b => !(r.eaten.contains b) && !(r.asked.contains b)) with
          | some b => s.attnAsk r b
          | none => s

/-! ### The escapement (R127 to R129) -/

/-- PAIR_GRANT: the run at the head of the FIFO gets the pair. -/
def State.pairGrant (s : State) (core : Nat) : State :=
  let co := s.core core
  match co.hold, co.fifo with
  | none, id :: rest =>
    let s := s.setCore core { co with hold := some (id, 0), fifo := rest }
    match s.run id with
    | some r => if r.kind = .attn && r.pos = 0 then s.attnStart r else s
    | none => s
  | _, _ => s

/-- A run rejoins at the tail, before its team's later runs (R128); an attention run gives up what has arrived (R136). -/
def State.rejoin (s : State) (core : Nat) (r : Run) : State :=
  let co := s.core core
  let mine := fun id => match s.run id with | some x => x.team = r.team | none => false
  let s := s.setCore core { co with hold := none, fifo := co.fifo.filter (fun i => !mine i) ++ [r.id] ++ co.fifo.filter mine }
  if r.kind = .attn then s.setRun { r with asked := [], lines := [] } else s

/-- LEASE_EXPIRY: at the end of a lease the run yields to a waiter, else a fresh lease begins (R128). A run that is halted holds
the pair meanwhile (R127). -/
def State.leaseExpiry (s : State) (core : Nat) : State :=
  match s.holder core with
  | none => s
  | some (r, n) =>
    if !(r.kind.leased && (s.hdr r.team).lease ≤ n) then s
    else if (s.core core).fifo.isEmpty then s.setCore core { s.core core with hold := some (r.id, 0) }
    else s.rejoin core r

/-- MREL: the lease of the team's run that holds the pair counts as complete (R129). -/
def State.mrel (s : State) : State :=
  let core := (s.team s.sel.team).core
  match s.holder core with
  | some (r, _) =>
    if r.team = s.sel.team && r.kind.leased then
      s.setCore core { s.core core with hold := some (r.id, (s.hdr r.team).lease) }
    else s
  | none => s

/-! ### Accumulator runs (R137) -/

/-- ACC_RUN: the whole run, after the team's earlier accumulator runs (R122). -/
def State.accRun (s : State) (id : Nat) : State :=
  match s.run id with
  | none => s
  | some r =>
    if r.kind.paired || !s.runGoes r || s.runs.any (fun x => x.team = r.team && !x.kind.paired && x.id < id) then s
    else match s.tile r.team r.c with
      | none => s
      | some z =>
        match r.kind with
        | .accz =>
          let w := s.combWrite true r.team z.off (s.runTs r) (List.replicate z.bytes 0)
          w.1.endRun { r with ts := w.2 }
        | _ =>
          match s.tile r.team r.a with
          | none => s
          | some x =>
            let rd := s.combRead x.acc r.team x.off (4 * x.rows * x.cols) (s.runTs r)
            let b := if z.fmt = 5
              then (words4 rd.2.1).flatMap (fun y => leBytes 2 (convert .f32 .b16 .rne false false y))
              else rd.2.1
            let w := rd.1.combWrite z.acc r.team z.off rd.2.2 b
            w.1.endRun { r with ts := w.2 }

end Sys2Proof.Machine
end

