-- ==== Sys2Proof/Machine/Copies.lean ====
section
/-! DEFINITION. Copies: their chunks, how a chunk is sent, performed, landed and counted on barriers, their end and their
failure (R220 to R224). -/

namespace Sys2Proof.Machine

/-- The part of a chunk that is in bounds: its start in the chunk and its length (R221). -/
def Copy.inBounds (c : Copy) (h : Chunk) : Nat × Nat :=
  if c.kind = .tt then (0, h.n)
  else
    let x := c.coord 0 + h.off
    let lo := (max 0 (-x)).toNat
    let hi := (min (h.n : Int) ((c.desc.ext.getD 0 1 : Nat) - x)).toNat
    if !(c.rowIn h.row) || hi ≤ lo then (0, 0) else (lo, hi - lo)

/-- The address on the other side of a chunk's in-bounds part. -/
def Copy.farAddr (c : Copy) (h : Chunk) : D64 :=
  if c.kind = .tt then c.quad.getD 0 0 + BitVec.ofNat 64 h.r else c.rowAddr h.row (h.off + (c.inBounds h).1)

/-- Whether a copy writes to its far side. -/
def CopyKind.outward : CopyKind → Bool
  | .out | .tt => true
  | _ => false

/-- A copy replaced. -/
def State.setCopy (s : State) (c : Copy) : State := { s with copies := s.copies.map (fun x => if x.id = c.id then c else x) }

/-- A copy created by the word of the issue opportunity; the tile changes state (R215, R221). -/
def State.startCopy (s : State) (k : CopyKind) (tile x idx : Nat) (quad : List D64) (count rel : Bool) : State :=
  let t := s.sel.team
  let d : Desc := match s.tensor t x with | .valid d => d | _ => ⟨0, [], [], []⟩
  let c : Copy := { id := s.nextId, team := t, group := s.sel.group, kind := k, tile := tile, idx := idx, desc := d,
                    quad := quad, index := none, count := count, rel := rel, ts := s.groupPts t s.sel.group, sent := [],
                    landed := [], done := 0, failed := false }
  let s := s.markTile t tile (if k.outward then .draining else .filling) 0
  let s := if k = .gather then s.addReader t idx else s
  { s with nextId := s.nextId + 1, copies := s.copies ++ [c] }

/-! ### Barrier counts (R220, R222, R223) -/

/-- Where a barrier operand leads: nowhere, to a barrier here, to one on a peer, to a slot without a team of the context, or
to a place that makes the count unrepairable, with the reason of R304. -/
inductive BarPlace where
  | none
  | at (l : Nat)
  | far (port : Nat)
  | away
  | bad (reason : Nat)
  deriving DecidableEq, Repr

/-- Whether a context has a binding for a port; a request to that peer without one is refused (R275). -/
def State.boundTo (s : State) (key port : Nat) : Bool :=
  match s.ctx key with
  | some c => c.peers.any (fun b => b.1 = port)
  | none => false

/-- The barrier that an 0xFF03 designator names on the device that homes the destination, for a context of that device: a
slot without a team of the context is `away` (R220, R223). -/
def State.designated (s : State) (key x : Nat) : BarPlace :=
  let core := 768 * bits x 34 2 + 192 * bits x 32 2 + bits x 40 8
  if 192 ≤ bits x 40 8 || !s.coreOn core then .bad 1
  else match s.teamAt core (bits x 36 4) with
    | none => .away
    | some u =>
      if (s.team u).key ≠ key then .away
      else if bits x 0 20 + 16 ≤ (s.hdr u).scratch then .at (loc .scratch u (bits x 0 20)) else .bad 1

/-- The place of a barrier operand; `port` is the peer that homes the destination, if one does. A peer that the context is not
paired with refuses the count (R220, R275). -/
def State.barPlace (s : State) (t : Nat) (a : D64) (port : Option Nat) : BarPlace :=
  let x := a.toNat
  let tm := s.team t
  if x = 0 then .none
  else if bits x 48 16 = 0xFF03 then
    match port with
    | some p => if s.boundTo tm.key p then .far p else .bad 4
    | none => s.designated tm.key x
  else match s.place t tm.key tm.core a 16 with
    | .bytes l => .at l
    | .away => .away
    | _ => .bad 1

/-- A count placed on a barrier: the state and the time, or the copy fails, or the context ends (R222, R223). -/
def State.countOn (s : State) (c : Copy) (a : D64) (port : Option Nat) (n ts : Nat) (out : Bool) : State :=
  match s.barPlace c.team a port with
  | .none => s
  | .at l =>
    let r := s.barrierAt l ts (.update 0 0 (if out then 0 else -(n : Int)) (if out then -(n : Int) else 0))
    { r.1 with maxTs := max r.1.maxTs r.2.2 }
  | .far p => { s.sendFlit (loc .peer p 0) with outbox := s.outbox ++ [.peerCount p a n] }
  | .away => s.markFailed c.id
  | .bad r =>
    let t := s.team c.team
    s.unrepairable { id := 0, key := t.key, jn := t.jn, team := c.team, group := c.group, lanes := [], core := t.core,
                     kind := 9, op := .bar 0 .test, va := a, size := 16, major := 17, fn := 0, ctl := 0, stage := .core,
                     page := 0, locs := [], home := 0, port := 0, seq := 0, cause := 0, bytes := [], ts := ts,
                     poison := false } r

/-! ### Chunks -/

/-- The end of a copy (R221): the tile is READY, or released once it has no reader; until then it is DRAINING, and its
progress is the bytes that the copy has read out (R217). -/
def State.endCopy (s : State) (c : Copy) : State :=
  let s := match s.tile c.team c.tile with
    | some x =>
      s.setTile c.team c.tile
        (if c.rel && x.readers ≠ 0 then { x with failed := false, progress := c.done, rel := true }
         else { x with failed := false, progress := 0, state := if c.rel then .empty else .ready })
    | none => s
  let s := if c.kind = .gather then s.dropReader c.team c.idx else s
  ({ s with copies := s.copies.filter (fun x => x.id ≠ c.id) }).raiseTeam c.team c.ts

/-- A chunk landed: the tile's progress, the end with the last chunk, then the counts (R215, R222). -/
def State.landed (s : State) (c : Copy) (i total : Nat) (h : Chunk) (port : Option Nat) (ts : Nat) : State :=
  let c := { c with landed := i :: c.landed, done := c.done + h.n, ts := max c.ts ts }
  let s := s.setCopy c
  let s := match s.tile c.team c.tile with
    | some x => s.setTile c.team c.tile { x with progress := c.done }
    | none => s
  let s := if c.landed.length = total then s.endCopy c else s
  if !c.count then s
  else if c.kind.outward then
    (s.countOn c (c.quad.getD 2 0) none h.n ts true).countOn c (c.quad.getD 3 0) port h.n ts false
  else s.countOn c (c.quad.getD 2 0) none h.n ts false

/-- The far side of a chunk performed, piece by piece: the bytes read, or `b` written. Line-wide stores clear poison. -/
def State.chunkPieces (s : State) (a : Access) (store : Bool) (b : List Byte) (ts : Nat) : State × List Byte × Nat :=
  a.locs.foldl (fun (acc : State × List Byte × Nat) g =>
    let acc := (acc.1.sendFlit g.1, acc.2)
    let done := acc.2.1.length
    if store then
      let piece := (b.drop done).take g.2
      let w := acc.1.homeWrite (some a.core) (acc.1.drawOf a.key) acc.2.2 g.1 g.2 (some piece)
      let s := w.1.soil a.key (a.va + BitVec.ofNat 64 done) g.1 g.2
      (if wholeLine g then { s with poison := s.poison.filter (· ≠ lineOf g.1) } else s, acc.2.1 ++ piece, w.2)
    else
      let r := acc.1.homeRead (some a.core) (acc.1.drawOf a.key) acc.2.2 g.1 g.2
      (r.1, acc.2.1 ++ r.2.1, r.2.2)) (s, [], ts)

/-- Whether a slot that the copy's counts name holds no team of the context (R223). -/
def State.barrierGone (s : State) (c : Copy) (port : Option Nat) : Bool :=
  c.count && (s.barPlace c.team (c.quad.getD 2 0) none = .away ||
    (c.kind.outward && s.barPlace c.team (c.quad.getD 3 0) port = .away))

/-- The peer that homes the far side of a chunk, if one does. -/
def chunkPort : Option Access → Option Nat
  | some a => if a.home = 2 then some a.port else none
  | none => none

/-- The peer that homes the destination of a copy out, for a chunk without an access: the home of its first chunk with bytes
in bounds, else of its array's base (log 17). -/
def State.copyPort (s : State) (c : Copy) (hs : List Chunk) : Option Nat :=
  if c.kind ≠ .out then none
  else
    let a := match hs.find? (fun h => (c.inBounds h).2 ≠ 0) with | some h => c.farAddr h | none => c.desc.base
    match s.ctx (s.team c.team).key with
    | some x => (walk s.mem x.root a).bind (fun t => if t.home = 2 then some t.port else none)
    | none => none

/-- The peer that homes the destination of a copy as a whole (R220; log 17). -/
def State.copyHome (s : State) (c : Copy) : Option Nat :=
  match s.tile c.team c.tile with
  | some x => s.copyPort c (c.chunks x.off x.bytes)
  | none => none

/-- The peer whose barrier a chunk's inbound count may name (R220). -/
def State.portOf (s : State) (c : Copy) : Option Access → Option Nat
  | some a => chunkPort (some a)
  | none => s.copyHome c

/-- The far side of a chunk performed: in memory, or in the one register that its bytes lie in (R39, R40). -/
def State.farChunk (s : State) (a : Access) (reg : Option (RId × Nat)) (store : Bool) (b : List Byte) (ts : Nat) :
    State × List Byte × Nat :=
  match reg with
  | none => s.chunkPieces a store b ts
  | some (r, byte) =>
    if store then
      let w := s.storeReg r byte ts b
      (w.1, b, w.2)
    else s.readReg r byte a.size ts

/-- A chunk performed and landed; `a` is its access, if any byte of it is in bounds, and `reg` the register that it names in the
register aperture. A copy whose barriers are gone fails instead, with the chunk neither written nor counted (R223, log 16). -/
def State.doChunk (s : State) (c : Copy) (i : Nat) (a : Option Access) (reg : Option (RId × Nat) := none) : State :=
  if s.barrierGone c (s.portOf c a) then s.markFailed c.id
  else match s.tile c.team c.tile with
  | none => s
  | some x =>
    let hs := c.chunks x.off x.bytes
    match hs[i]? with
    | none => s
    | some h =>
      let ib := c.inBounds h
      let ts := max c.ts (s.groupPts c.team c.group)
      let port := s.portOf c a
      let s := match a with | some a => s.dropAcc a.id | none => s
      if c.kind.outward then
        let r := s.combRead false c.team (x.off + h.r) h.n ts
        let w := match a with
          | some a => r.1.farChunk a reg true ((r.2.1.drop ib.1).take ib.2) r.2.2
          | none => (r.1, [], r.2.2)
        w.1.landed c i hs.length h port w.2.2
      else
        let r := match a with
          | some a => s.farChunk a reg false [] ts
          | none => (s, [], ts)
        let b : List Byte := List.replicate ib.1 0 ++ r.2.1 ++ List.replicate (h.n - ib.1 - r.2.1.length) 0
        let w := r.1.combWrite false c.team (x.off + h.r) r.2.2 b
        w.1.landed c i hs.length h port w.2

/-- The access of a chunk's far side. -/
def State.sendChunk (s : State) (c : Copy) (i : Nat) (h : Chunk) : State :=
  let t := s.team c.team
  let s := s.setCopy { c with sent := i :: c.sent }
  { s with
    nextId := s.nextId + 1,
    accs := s.accs ++ [{
      id := s.nextId, key := t.key, jn := t.jn, team := c.team, group := c.group, lanes := [], core := t.core, kind := 4,
      op := .chunk c.id i c.kind.outward, va := c.farAddr h, size := (c.inBounds h).2, major := 17,
      fn := (match c.kind with | .inn => 0 | .out => 1 | .tt => 2 | .gather => 3), ctl := 0, stage := .core, page := 0,
      locs := [], home := 0, port := 0, seq := 0, cause := 0, bytes := [], ts := c.ts, poison := false }] }

/-- Whether a copy may send further chunks: its team is resident and not halted, nor any group of it at a BRK (R224), and what
its group issued before it is performed (R193). -/
def State.copyGoes (s : State) (c : Copy) : Bool :=
  (s.team c.team).runs && s.coreOn (s.team c.team).core && !s.paused c.team c.group && !c.failed &&
    !s.groupOlder c.team c.group c.id

/-- A gather's indices read when its run starts (R221). -/
def State.readIndex (s : State) (c : Copy) : State × Copy :=
  match c.kind, c.index, s.tile c.team c.idx with
  | .gather, none, some y =>
    let r := s.combRead false c.team y.off (4 * c.desc.box.getD 1 1) (max c.ts (s.groupPts c.team c.group))
    let c := { c with index := some (words4 r.2.1), ts := r.2.2 }
    (r.1.setCopy c, c)
  | _, _, _ => (s, c)

/-- Whether a team's image is being written or read: its chunks are then neither performed nor counted, but before or after (R313,
R318, R320). -/
def Phase.moving : Phase → Bool
  | .saving | .restoring _ => true
  | .resident | .named | .halting | .saved => false

/-- Whether the port that a chunk's flits leave by has room for them: one for each piece, and those of its counts (R364). -/
def State.chunkRoom (s : State) (c : Copy) (a : Option Access) : Bool :=
  match s.portOf c a with
  | some p => s.flitRoom p ((a.map (·.locs.length)).getD 0 + 2)
  | none => true

/-- The page of the first piece of an access that meets a test on its locations. -/
def Access.pageWith (a : Access) (p : Nat × Nat → Bool) : D64 :=
  let before := (a.locs.takeWhile (fun g => !p g)).foldl (fun (n : Nat) x => n + x.2) 0
  pageOf (a.va + BitVec.ofNat 64 (a.doneBytes + before))

/-- COPY_CHUNK: a chunk that has not been sent is sent, or landed at once when no byte of it is in bounds; a chunk whose
access is translated is performed, landed and counted. -/
def State.copyChunk (s : State) (id i : Nat) : State :=
  match s.copy id with
  | none => s
  | some c =>
    match s.accs.find? (fun a => match a.op with | .chunk x j _ => x = id && j = i | _ => false) with
    | some a =>
      if a.stage ≠ .ready || (s.team c.team).phase.moving then s
      else match s.placeOf a with
        | .mapped =>
          if a.locs.any (s.meetsPoison a) then s.park a 8 (a.pageWith (s.meetsPoison a))
          else if a.locs.all (fun g => s.reachable a.core g.1 g.2) && s.chunkRoom c (some a) then s.doChunk c i (some a) else s
        | .bytes l => s.doChunk c i (some { a with locs := a.pieces.map (fun g => (l + g.1, g.2)) })
        | .away => s.markFailed id
        | .bad r => s.unrepairable a r
        | .reg cl g lane n byte =>
          let r := s.rid ⟨a.team, g, lane⟩ cl n
          if (s.mark r).full && (s.group a.team g).off.isNone then s.doChunk c i (some a) (some (r, byte)) else s
    | none =>
      if c.sent.contains i || !s.copyGoes c then s
      else
        let r := s.readIndex c
        match r.1.tile c.team c.tile with
        | none => s
        | some x =>
          match (r.2.chunks x.off x.bytes)[i]? with
          | none => s
          | some h =>
            if (r.2.inBounds h).2 = 0 then
              if !s.chunkRoom c none then s else
              let c := { r.2 with sent := i :: r.2.sent }
              (r.1.setCopy c).doChunk c i none
            else r.1.sendChunk r.2 i h

/-- F set on a barrier that still exists (R223): here, or at the peer that homes it. -/
def State.setF (s : State) (c : Copy) (a : D64) (port : Option Nat) : State :=
  match s.barPlace c.team a port with
  | .at l => (s.barrierAt l c.ts .fail).1
  | .far p => { s.sendFlit (loc .peer p 0) with outbox := s.outbox ++ [.peerFail p a] }
  | _ => s

/-- COPY_FAILURE: a copy that is to fail ends so (R223). -/
def State.copyFail (s : State) (id : Nat) : State :=
  match s.copy id with
  | none => s
  | some c =>
    if !c.failed || !s.chunkRoom c none then s else
    let s := if c.count then
        let s' := s.setF c (c.quad.getD 2 0) none
        if c.kind.outward && c.quad.getD 3 0 ≠ c.quad.getD 2 0 then s'.setF c (c.quad.getD 3 0) (s.copyHome c) else s'
      else s
    let s := match s.tile c.team c.tile with
      | some x => s.setTile c.team c.tile
          { x with state := if c.kind.outward then .ready else .empty, failed := true, progress := 0 }
      | none => s
    let s := if c.kind = .gather then s.dropReader c.team c.idx else s
    ({ s with copies := s.copies.filter (fun x => x.id ≠ id) }).raiseTeam c.team c.ts

end Sys2Proof.Machine
end

