-- ==== Sys2Proof/Machine/Image.lean ====
section
/-! DEFINITION. The save image of a team and of a group saved off-core, in the context's save area (R283, R314 to R319, R351): its
sections, when it is written, and where completions go meanwhile. Log entries 26, 62 and 95. -/

namespace Sys2Proof.Machine

/-! ### Wait reasons (R317, R351) -/

/-- A wait reason of a lane's record. -/
inductive WaitReason where
  | none
  | source
  | mask
  | dest
  | fence
  | sleep
  | barrier
  | shared
  | service
  | te
  | limit
  | launch
  deriving DecidableEq, Repr

/-- The code of a wait reason. -/
def WaitReason.code : WaitReason → Nat
  | .none => 0
  | .source => 1
  | .mask => 2
  | .dest => 3
  | .fence => 4
  | .sleep => 5
  | .barrier => 6
  | .shared => 7
  | .service => 8
  | .te => 9
  | .limit => 10
  | .launch => 11

/-- The reason that a word gives for waiting, beside empty registers. Reason 8 stands for a full request ring alone. -/
def State.wordReason (s : State) (L : LaneId) : Instr → WaitReason
  | .fenceHost => .fence
  | .fenceSys => .fence
  | .sete _ => .shared
  | .shsend _ _ => .shared
  | .shtake _ _ => .shared
  | .svc _ _ _ => if s.svcWait L then .service else .limit
  | .launch _ _ _ => .limit
  | .tset _ _ => .limit
  | .binit _ _ => .limit
  | .binitReg _ _ => .limit
  | .barv _ _ => .limit
  | .barvb _ _ _ _ => .limit
  | .btst _ _ => .limit
  | .bdrop _ _ => .limit
  | .sread _ _ => .source
  | .swrite _ _ => .source
  | .wcfg _ _ => .dest
  | i => if isAccess i then .limit else .none

/-- Whether a lane waits at a word for a register that an unanswered SVC will fill (R283, R351). -/
def State.svcAwaited (s : State) (L : LaneId) (i : Instr) : Bool :=
  (s.awaited L i).any (fun r => !(s.mark r).full && s.svcRegs.contains r)

/-- The reason for which a word's registers hold a lane: a source or a register that an SVC will fill, SHTAKE's shared register, or a
destination. -/
def State.regReason (s : State) (L : LaneId) (i : Instr) : Option WaitReason :=
  if s.svcAwaited L i then some .source
  else if s.regWait L (srcUses i.uses) then some (match i with | .shtake _ _ => .shared | _ => .source)
  else if s.regWait L (dstUses i.uses) then some .dest
  else match i with
    | .waitfAll => some .dest
    | .laneget _ => some .source
    | i => if i.isXlane then some .source else none

/-- Why a lane waits (R317): its own wait, its clause's wait mask, or its word's registers, sources first. A lane that R294 holds at
its clause start has reason 10, and one that waits for its code has none (log entry 62). -/
noncomputable def State.waitReason (s : State) (L : LaneId) : WaitReason :=
  let l := s.lane L
  match l.wait with
  | .sleep _ _ => .sleep
  | .barrier _ _ _ => .barrier
  | .timed _ _ _ _ _ => .barrier
  | .launch _ => .launch
  | .te _ => .te
  | .none =>
    if !s.standsWaiting L then .none
    else if s.maskedAt L 15 then .mask
    else match s.peekSel L with
      | none => .none
      | some x =>
        let s' := { s with sel := x }
        match decode x.word with
        | .error _ => .none
        | .ok i =>
          match s'.regReason L i with
          | some r => r
          | none => if l.k = 1 && s.heldBack L.team then .limit else s'.wordReason L i

/-- The lanes that a test finds with their waiting flags and wait reasons noted, as a save records them. -/
noncomputable def State.noteWaits (s : State) (p : LaneId → Bool) : State :=
  { s with lanes := s.lanes.map (fun e =>
      if p e.1 then (e.1, { e.2 with flag := s.standsWaiting e.1, why := (s.waitReason e.1).code }) else e) }

/-! ### Sections of a fixed size (R314 to R317) -/

/-- The partition word of a team (R29). -/
def Team.partition (t : Team) : Nat := t.part0 % 4 * 2 ^ 17 + t.rows % 512 * 256 + t.base % 256

/-- The state code of an image (R315). -/
def Phase.code : Phase → Nat
  | .saving => 1
  | .saved => 2
  | .restoring _ => 3
  | .resident | .named | .halting => 0

/-- Registers of a class below `n` that a test finds, as a mask. -/
def State.regMask (s : State) (L : LaneId) (c : RegClass) (n : Nat) (test : Mark → Bool) : Nat :=
  maskOf ((List.range n).filter (fun i => test (s.mark (s.rid L c i))))

/-- Bytes laid out from (offset, size, value) fields over `n` bytes, the rest zero. -/
def layOut (n : Nat) (fields : List (Nat × Nat × Nat)) : List Byte :=
  leBytes n (fields.foldl (fun x f => x ||| (f.2.2 % 2 ^ (8 * f.2.1)) * 2 ^ (8 * f.1)) 0)

/-- A group record (R316). -/
def State.groupRecord (s : State) (t g : Nat) : List Byte :=
  let x := s.group t g
  let L : LaneId := ⟨t, g, 0⟩
  layOut 64 ([(0, 1, g), (1, 1, x.role), (2, 2, x.idx), (4, 1, x.part), (5, 1, x.slot), (6, 1, b2n x.off.isSome),
    (7, 1, x.joins.length), (8, 8, maskOf (s.liveLanes t g)),
    (0x10, 4, s.regMask L .s (s.hdr t).sregs (·.full)), (0x14, 4, s.regMask L .s (s.hdr t).sregs (·.poison)),
    (0x38, 8, x.off.getD 0)] ++
    (List.range x.joins.length).map (fun i => (0x18 + 8 * i, 8, (x.joins.getD i 0).toNat)))

/-- The cycles that a lane's sleep or deadline still has, from the time of its save. -/
def Wait.left (now : Nat) : Wait → Nat
  | .sleep till _ => till - now
  | .timed _ _ till _ _ => till - now
  | _ => 0

/-- A lane record (R317), at the time of the save. The older part of its call stack is beside the image (`State.stackParts`). -/
def State.laneRecord (s : State) (now : Nat) (L : LaneId) : List Byte :=
  let l := s.lane L
  let p := maskOf ((List.range 8).filter (fun i => i ≠ 0 && s.getP L i))
  layOut 128 ([(0, 8, l.hdr.toNat % 2 ^ 56 + l.k % 16 * 2 ^ 56), (8, 1, l.prio),
    (9, 1, b2n l.live + 2 * b2n l.flag + 4 * b2n l.mark + 8 * b2n l.inHandler),
    (0x0A, 1, l.why), (0x0B, 1, p),
    (0x0C, 1, s.regMask L .p 8 (·.full) / 2 * 2), (0x0D, 1, s.regMask L .p 8 (·.poison) / 2 * 2),
    (0x0E, 1, min 8 l.stack.length), (0x0F, 1, s.outstanding L), (0x10, 8, l.pts), (0x18, 4, l.mode.toNat),
    (0x1C, 4, l.prec.toNat), (0x20, 4, l.dctl.toNat), (0x24, 4, l.tcause.toNat), (0x28, 8, l.tpc.toNat),
    (0x30, 8, l.tval.toNat), (0x38, 4, l.stack.length - 8), (0x3C, 4, l.wait.left now)] ++
    (List.range (min 8 l.stack.length)).map (fun i => (0x40 + 8 * i, 8, (l.stack.getD i 0).toNat)))

/-- The register bitmaps of a lane (R314). -/
def State.laneBitmaps (s : State) (L : LaneId) : List Byte :=
  let h := s.hdr L.team
  let v := h.vregs L.group
  layOut 32 [(0, 8, s.regMask L .v v (·.full)), (8, 8, s.regMask L .v v (·.poison)),
    (16, 2, s.regMask L .d h.dregs (·.full)), (18, 2, s.regMask L .d h.dregs (·.poison)),
    (20, 4, s.regMask L .w 32 (·.full)), (24, 4, s.regMask L .w 32 (·.poison))]

/-- The watch table: 16 addresses, 0 for a free entry (R262, R314). -/
def State.watchBytes (s : State) (t : Nat) : List Byte :=
  layOut 128 ((List.range 16).map (fun i => (8 * i, 8, (((s.watch.get [] t).getD i 0) : D64).toNat)))

/-! ### The Comb copy, and the tile and tensor section (R29, R30, R314) -/

/-- A list of bytes cut or filled with zeros to a length. -/
def fitBytes (n : Nat) (b : List Byte) : List Byte := b.take n ++ List.replicate (n - b.length) 0

/-- The bytes of a d register and of a w register's header; the manual sizes them and orders no more (log entry 95). -/
def DVal.bytes (x : DVal) : List Byte :=
  fitBytes 64 (x.atoms.flatMap (fun a => leBytes 4 a.1.toNat) ++ x.atoms.flatMap (fun a => leBytes 2 a.2.toNat) ++
    leBytes 2 x.tag.toNat ++ leBytes 1 (b2n x.sorted))

/-- The registers of a group as its Comb rows hold them: each lane's v registers that are its own, its d registers, and its window
registers' headers and limbs; then the group's s registers (R30). -/
def State.groupRegs (s : State) (t g : Nat) : List Byte :=
  let h := s.hdr t
  let own := (List.range (h.vregs g)).filter (fun n => !(h.shared n && h.consumer g))
  (List.range h.width).flatMap (fun i =>
    let L : LaneId := ⟨t, g, i⟩
    let ws := (List.range 32).map (s.getW L)
    own.flatMap (fun n => leBytes 4 (s.getV L n).toNat) ++ (List.range h.dregs).flatMap (fun n => (s.getD L n).bytes) ++
      (if h.wlimbs = 0 then [] else
        ws.flatMap (fun x => x.record.take 8) ++ fitBytes (8 * h.wlimbs) (ws.flatMap (fun x => fitBytes (8 * x.cap) (x.record.drop 8))))) ++
    (List.range h.sregs).flatMap (fun n => leBytes 8 (s.getS ⟨t, g, 0⟩ n).toNat)

/-- Every row of a team's region: registers, where each partition's groups fill its quarter of the rows in ordinal order, then
scratchpad, then accumulator storage (R29, R30). -/
def State.combCopy (s : State) (t : Nat) : List Byte :=
  let h := s.hdr t
  let space := (h.scratch + h.acc + 4095) / 4096
  let regs := (s.team t).rows - space
  let quarter := fun (q : Nat) => fitBytes (1024 * regs) (((List.range h.groups).filter (fun g =>
    ((s.team t).part0 + g) % 4 = q)).flatMap (s.groupRegs t))
  let qs := (List.range 4).map quarter
  (List.range regs).flatMap (fun r => qs.flatMap (fun b => (b.drop (1024 * r)).take 1024)) ++
    fitBytes (4096 * space) (s.readSegs 0 [(loc .scratch t 0, h.scratch), (loc .acc t 0, h.acc)])

/-- The state code of a tile (R217). -/
def TileState.num : TileState → Nat
  | .empty => 0
  | .filling => 1
  | .ready => 2
  | .draining => 3

/-- A tile entry's 32 bytes, in a form of the model's own (log entry 95). -/
def tileEntry : Option Tile → List Byte
  | none => List.replicate 32 0
  | some x => layOut 32 [(0, 1, 1 + 2 * b2n x.acc + 4 * b2n x.ovf + 8 * b2n x.failed + 16 * b2n x.rel), (1, 1, x.fmt),
      (2, 1, x.state.num), (3, 1, x.readers), (4, 4, x.off), (8, 4, x.rows), (12, 4, x.cols), (16, 4, x.progress)]

/-- The 64 bytes of a descriptor (R218), with its mark in the reserved bytes: 1 pending, 2 invalid, 3 held. -/
def tensorEntry (x : Tensor) : List Byte :=
  let desc := fun (d : Desc) => leBytes 8 d.base.toNat ++ d.ext.flatMap (leBytes 4) ++ d.str.flatMap (fun y => leBytes 8 (wrapTo 64 y)) ++
    leBytes 4 (d.box.getD 0 0) ++ (d.box.drop 1).flatMap (leBytes 2)
  match x with
  | .unset => List.replicate 64 0
  | .pending => fitBytes 64 (List.replicate 63 0 ++ [1])
  | .invalid => fitBytes 64 (List.replicate 63 0 ++ [2])
  | .valid d => fitBytes 63 (desc d) ++ [3]

/-- The tiles and tensor ids (R314). -/
def State.tileSection (s : State) (t : Nat) : List Byte :=
  (List.range 32).flatMap (fun n => tileEntry (s.tile t n)) ++ (List.range 16).flatMap (fun n => tensorEntry (s.tensor t n))

/-! ### Stopped work and held completions (R314, R319) -/

/-- A record of the stopped-work section, with its length first; the manual gives it no layout (log entry 95). -/
def workRecord (kind group : Nat) (body : List Byte) : List Byte :=
  leBytes 4 (body.length + 8) ++ leBytes 2 kind ++ leBytes 2 group ++ body

/-- The code of a run's kind. -/
def RunKind.num : RunKind → Nat
  | .mma => 1
  | .mloop => 2
  | .mloops => 3
  | .attn => 4
  | .hadq => 5
  | .qnt => 6
  | .accz => 7
  | .accrd => 8
  | .accwr => 9

/-- A stopped run: its tiles, flags, parameters and progress. -/
def Run.record (r : Run) : List Byte :=
  workRecord r.kind.num r.group (leBytes 1 r.c ++ leBytes 1 r.a ++ leBytes 1 r.b ++ leBytes 1 r.f ++ leBytes 4 r.pos ++ leBytes 4 r.total ++
    leBytes 8 r.ts ++ fitBytes 32 (r.par.flatMap (fun x => leBytes 8 x.toNat)) ++ leBytes 4 r.eaten.length ++
    r.eaten.flatMap (leBytes 4) ++ r.causes.flatMap (leBytes 1) ++ leBytes 1 (b2n r.ovf))

/-- A stopped copy: the chunks that have landed, the captured descriptor and the quad (R224). -/
def Copy.record (c : Copy) : List Byte :=
  let k := match c.kind with | .inn => 16 | .out => 17 | .tt => 18 | .gather => 19
  workRecord k c.group (leBytes 1 c.tile ++ leBytes 1 c.idx ++ leBytes 1 (b2n c.count + 2 * b2n c.rel + 4 * b2n c.failed) ++ leBytes 4 c.done ++
    leBytes 8 c.ts ++ (tensorEntry (.valid c.desc)).take 63 ++ fitBytes 32 (c.quad.flatMap (fun x => leBytes 8 x.toNat)) ++
    leBytes 4 c.landed.length ++ c.landed.flatMap (leBytes 4))

/-- The bytes of a captured source: its class and number, and its value as a Comb row or a WREC holds it. -/
def RegW.bytes : RegW → List Byte
  | .v n x => leBytes 1 0 ++ leBytes 1 n ++ leBytes 4 x.toNat
  | .s n x => leBytes 1 1 ++ leBytes 1 n ++ leBytes 8 x.toNat
  | .p n x => leBytes 1 2 ++ leBytes 1 n ++ leBytes 1 (b2n x)
  | .d n x => leBytes 1 3 ++ leBytes 1 n ++ x.bytes
  | .w n x => leBytes 1 4 ++ leBytes 1 n ++ x.record

/-- A window word that its lane holds by TE: the lane, the word, the PREC that it captured and its source values (R180). -/
def Pend.record (p : Pend) : List Byte :=
  workRecord 32 p.group (leBytes 1 p.lane ++ leBytes 4 p.word.toNat ++ leBytes 4 p.prec.toNat ++ p.srcs.flatMap RegW.bytes)

/-- The stopped work of a team: runs and copies in issue order, then recorded words (R314). -/
def State.stoppedWork (s : State) (t : Nat) : List Byte :=
  let rs := (s.runs.filter (fun r => r.team = t)).map (fun r => (r.id, r.record))
  let cs := (s.copies.filter (fun c => c.team = t)).map (fun c => (c.id, c.record))
  (sortBy (fun (a b : Nat × List Byte) => a.1 < b.1) (rs ++ cs)).flatMap (·.2) ++ (s.pend.filter (fun p => p.team = t)).flatMap Pend.record

/-- The completions that are held for a team, in their order of arrival. -/
def State.heldOf (s : State) (t : Nat) : List Access := s.delayed.filter (fun a => a.team = t)

/-- A held completion with its key and data (R319). -/
def State.heldRecord (s : State) (a : Access) : List Byte :=
  workRecord a.kind a.group (leBytes 1 a.key ++ leBytes 4 a.jn ++ leBytes 6 (s.team a.team).lin ++ leBytes 8 (maskOf a.lanes) ++
    leBytes 2 a.op.destField ++ leBytes 1 (b2n a.poison) ++ a.bytes)

/-! ### The image (R313 to R315, R283) -/

/-- The CLOCK from which an image counts: that of its save. -/
def State.imageTime (s : State) (t : Nat) : Nat := if (s.team t).phase.code = 1 then s.clock else (s.team t).savedAt

/-- The lanes of a team, group by group. -/
def State.laneIds (s : State) (t : Nat) : List LaneId :=
  (List.range (s.hdr t).groups).flatMap (fun g => (List.range (s.hdr t).width).map (fun i => (⟨t, g, i⟩ : LaneId)))

/-- The sections of an image in their order (R314). What is held for the team counts as applied in the flags, the bitmaps and the Comb
copy (R318), and is kept for the restore in the last section (R319). -/
def State.imageBody (s : State) (t : Nat) : List Byte × List Byte × List Byte :=
  let x := (s.heldOf t).foldl (fun s a => s.applyAnswer a) s
  let ls := x.laneIds t
  ((List.range (x.hdr t).groups).flatMap (x.groupRecord t) ++ ls.flatMap (x.laneRecord (s.imageTime t)) ++ ls.flatMap x.laneBitmaps ++
    x.combCopy t ++ x.tileSection t ++ x.watchBytes t, s.stoppedWork t, (s.heldOf t).flatMap s.heldRecord)

/-- The header (R315). -/
def State.imageHeader (s : State) (t : Nat) (b : List Byte × List Byte × List Byte) : List Byte :=
  let m := s.team t
  let work := 64 + b.1.length
  let held := work + b.2.1.length
  layOut 64 [(0, 1, 1), (1, 1, m.key), (2, 2, (s.hdr t).groups), (4, 4, m.saveCore), (8, 4, m.jn), (0x0C, 4, m.lin),
    (0x10, 4, m.savePart), (0x14, 1, m.phase.code), (0x16, 2, m.lin / 2 ^ 32), (0x18, 8, m.savedAt), (0x20, 4, work), (0x24, 4, held),
    (0x28, 4, (s.heldOf t).length), (0x2C, 4, held + b.2.2.length)]

/-- A team's save image (R314). -/
def State.saveImage (s : State) (t : Nat) : List Byte :=
  let b := s.imageBody t
  s.imageHeader t b ++ b.1 ++ b.2.1 ++ b.2.2

/-- The parts of the lanes' call stacks that are not on chip, oldest entry first, each with its place beside its team's image (R265, R317;
log entry 95). -/
def State.stackParts (s : State) (t : Nat) : List (Nat × List Byte) :=
  (s.laneIds t).filterMap (fun L =>
    let old := ((s.lane L).stack.drop 8).reverse
    if old.isEmpty then none
    else some (loc .save t (2 ^ 31 + 65536 * (64 * L.group + L.lane)), old.flatMap (fun a => leBytes 8 a.toNat)))

/-- Whether a location is in a team's image, with the stacks beside it; the images of its groups lie above. -/
def inTeamImage (t a : Nat) : Bool := inSpace .save a && a / 2 ^ 64 % 2 ^ 40 = t && a % 2 ^ 64 < 2 ^ 32

/-- The image written to the context's save area (R313, R314). -/
def State.writeImage (s : State) (t : Nat) : State :=
  let m := (s.mem.forget (inTeamImage t)).splice (loc .save t 0) (s.saveImage t)
  { s with mem := (s.stackParts t).foldl (fun m x => m.putN x.1 x.2) m }

/-- A team's image as what has just happened leaves it: while the team is SAVED its image follows what is performed for it (R318,
R355). -/
def State.inImage (s : State) (t : Nat) : State := if (s.team t).phase = .saved then s.writeImage t else s

/-- The image of a group saved off-core: its record, its lanes' records and bitmaps, and its registers (R283, R351). It lies beside its
team's image (log entry 95). -/
def State.groupImage (s : State) (t g : Nat) : List Byte :=
  let ls := (List.range (s.hdr t).width).map (fun i => (⟨t, g, i⟩ : LaneId))
  s.groupRecord t g ++ ls.flatMap (s.laneRecord ((s.group t g).off.getD s.clock)) ++ ls.flatMap s.laneBitmaps ++ s.groupRegs t g
def State.writeGroup (s : State) (t g : Nat) : State :=
  { s with mem := s.mem.splice (loc .save t (2 ^ 32 + 2 ^ 24 * g)) (s.groupImage t g) }

/-! ### Where completions go (R299, R318) -/

/-- Whether a team's completions are held: while it is SAVING or RESTORING at its CTU, in arrival order, the first 256 in its buffer and
the others behind them; while it is SAVED in its image's held-completion section (R318, R319). -/
def Phase.holds : Phase → Bool
  | .saving | .saved | .restoring _ => true
  | .resident | .named | .halting => false

/-- A completion held for a team that is away, or for a group whose image is being read back (R318, R351). -/
def State.holdCompletion (s : State) (a : Access) : State :=
  State.inImage { s.dropAcc a.id with delayed := s.delayed ++ [a] } a.team

/-- Whether a completion for a group is held. -/
def State.holds (s : State) (t g : Nat) : Bool := (s.team t).phase.holds || (s.group t g).loading

/-- The answer of an access delivered: to its lanes' registers, to the image of a group saved off-core, or held while its team is away or
its group's image is read back (R299, R318, R351). -/
def State.deliver (s : State) (a : Access) : State :=
  if (s.teams.find a.team).isNone then s.dropAcc a.id
  else if s.holds a.team a.group then s.holdCompletion a
  else
    let t := (s.applyAnswer a).dropAcc a.id
    if (s.group a.team a.group).off.isSome then t.writeGroup a.team a.group else t

end Sys2Proof.Machine
end

