-- ==== Sys2Proof/Machine/Memev.lean ====
section
/-! DEFINITION. The events of memory: translation, being performed, answers, parking, replay, private pages and
delegation, translation changes, and the ends of contexts that pages and lines bring (R185 to R199, R270 to R273, R287 to
R308). An event that is not enabled changes nothing. -/

namespace Sys2Proof.Machine

/-! ### Private pages and delegation (R189 to R192) -/

/-- Invalidations sent for the copies of words that a test finds, each with the version of its page (R191). -/
def State.sendInvals (s : State) (p : Nat → Bool) : State :=
  { s with invals := s.invals ++ ((s.copies1.filter (fun e => p e.1.2)).map (fun e =>
      (e.1.1, e.1.2, (s.page (frameOf (4 * e.1.2))).version))).filter (fun x => !s.invals.contains x) }

/-- A private page becomes shared: its words keep the page's stamp, and its version rises (R190). -/
def State.share (s : State) (f : Nat) : State :=
  let p := s.page f
  if p.shared || p.owner.isNone then s
  else { s.sendInvals (fun w => frameOf (4 * w) = f) with
    pages := s.pages.set f { p with owner := none, shared := true, version := (p.version + 1) % 2 ^ 32 } }

/-- What the home does before it performs a piece: the page is reclassified and delegations elsewhere are recalled. -/
def State.makeReachable (s : State) (core l n : Nat) : State :=
  let s := if s.foreignPage l core then s.share (frameOf l) else s
  { s with deleg := (stampKeys l n).foldl (fun (d : Tbl Nat Nat) k => if d.get core k = core then d else d.del k) s.deleg }

/-- PAGE_RECLASSIFICATION (R190): for a miss of a core that does not own the page. -/
def execPageReclassification (frame core : Nat) (s : State) : Out :=
  ok (if s.accs.any (fun a => a.core = core && a.stage = .ready && a.locs.any (fun g => frameOf g.1 = frame && isHbm g.1)) &&
      (s.page frame).owner ≠ some core then s.share frame else s)

/-- INVALIDATION (R191): a copy of its version or an older one is dropped; it is on its way no longer. -/
def execInvalidation (core word version : Nat) (s : State) : Out :=
  let s := { s with invals := s.invals.filter (· ≠ (core, word, version)) }
  ok (match s.copies1.find (core, word) with
    | some c => if version < c.version then s else { s with copies1 := s.copies1.del (core, word) }
    | none => s)

/-- DELEGATION (R192): of a span that has its home at a slice. -/
def execDelegation (word core : Nat) (s : State) : Out :=
  ok (if copyable (4 * word) && (!isHbm (4 * word) || (s.page (frameOf (4 * word))).shared) && s.coreOn core &&
      (s.deleg.find word).isNone then { s with deleg := s.deleg.set word core } else s)

/-- DELEGATION_RECALL (R192). -/
def execDelegationRecall (word : Nat) (s : State) : Out := ok { s with deleg := s.deleg.del word }

/-! ### Page tables that firmware changes (R189, R196, R270) -/

/-- Firmware writes tables in the firmware region only (R270, R358). -/
def tableWrite (e : Nat × D64) : Bool := Config.firmwareBase ≤ e.1 && e.1 + 8 ≤ Config.hbmBytes && e.1 % 8 = 0

/-- The runs of device page frames that a context's tables map, and whether another context's tables map a frame of a list of
runs. -/
def Ctx.runsIn (c : Ctx) (m : Memory) : List (Nat × Nat) := mappedRuns m c.root
def State.othersMap (s : State) (key : Nat) (m : Memory) (l : List (Nat × Nat)) : Bool :=
  s.ctxs.any (fun e => e.1 ≠ key && runsMeet (e.2.runsIn m) l)

/-- Whether a range has bytes in one of a context's host windows, which are pinned (R274). -/
def Ctx.pinned (c : Ctx) (base : D64) (len : Nat) : Bool :=
  c.wins.any (fun w => w.1.toNat < base.toNat + len && base.toNat < w.1.toNat + w.2)

/-- Whether tables would move or unmap a page of one of a context's host windows (R274). -/
def State.winsMove (s : State) (c : Ctx) (m : Memory) : Bool :=
  c.wins.any (fun w => (List.range (w.2 / 4096)).any (fun i =>
    let at' := fun (m : Memory) => (walk m c.root (w.1 + BitVec.ofNat 64 (4096 * i))).map (fun t => (t.home, t.port, t.base))
    at' s.mem ≠ at' m))

/-- Table writes of firmware for a context. Firmware never maps one device page into two contexts (R268), nor moves a page of a host
window (R274): writes that would are not made (log entry 102). Frames that are mapped no longer, or anew, are unclassified (R189), and copies of their words are
invalidated (R191). -/
def State.applyTables (s : State) (key : Nat) (tables : List (Nat × D64)) : State :=
  match s.ctx key with
  | none => s
  | some c =>
    let m := writeTables s.mem (tables.filter tableWrite)
    let old := c.runsIn s.mem
    let new := c.runsIn m
    if s.othersMap key m new || s.winsMove c m then s
    else
      let changed := fun f => inRuns old f != inRuns new f
      { (s.sendInvals (fun w => isHbm (4 * w) && changed (frameOf (4 * w)))).unmapIf changed with mem := m }

/-- Whether an address lies in a range. -/
def inRange (base : D64) (len : Nat) (a : D64) : Bool := base.toNat ≤ a.toNat && a.toNat < base.toNat + len

/-- The leaf that translates an address, as a range: all of the page of its size. -/
def leafRange (t : Option Trans) (a : D64) : D64 × Nat :=
  let n := 4096 * (t.map (fun x => sizeFrames x.size)).getD 1
  (BitVec.ofNat 64 (a.toNat / n * n), n)

/-- What is left of the translations of a range once they change: TLB entries and host answers go, and so do the device's copies of
its host lines, whose dirty words are written back first (R196). -/
def State.forgetRange (s : State) (c : Ctx) (base : D64) (len : Nat) : State :=
  let mine := fun (line : Nat) => match c.pasid with
    | some p => inSpace .host (128 * line) && 128 * line / 2 ^ 64 % 2 ^ 40 = p && inRange base len (BitVec.ofNat 64 (128 * line % 2 ^ 64))
    | none => false
  let s := ((s.proxy.map (·.1)).filter mine).foldl (fun s l => s.giveUpLine l) s
  { s with
    copies1 := s.copies1.filter (fun e => !mine (lineOf (4 * e.1.2))),
    tlb := s.tlb.filter (fun e => !(e.1.2.1 = c.key && inRange base len e.1.2.2)),
    ats := s.ats.filter (fun e => !(some e.1.1 = c.pasid && inRange base len e.1.2)) }

/-- Whether a translated access of a context on a range is left to perform (R196). -/
def State.usesRange (s : State) (key : Nat) (base : D64) (len : Nat) : Bool :=
  s.accs.any (fun a => a.key = key && a.stage = .ready && (pagesOf a.va a.size).any (inRange base len))

/-- TLB_INVALIDATION (R196): of the page that holds an address, whole as the tables have it before and after the change. It
completes once no translated access on the page is left to perform. -/
def execTlbInvalidation (key : Nat) (page : D64) (tables : List (Nat × D64)) (s : State) : Out :=
  ok (match s.ctx key with
    | none => s
    | some c =>
      let t := s.applyTables key tables
      let before := leafRange (walk s.mem c.root page) page
      let after := leafRange (walk t.mem c.root page) page
      let r := if before.2 < after.2 then after else before
      if s.usesRange key r.1 r.2 then s else t.forgetRange c r.1 r.2)

/-! ### Instruction fetch (R198, R301 to R303) -/

/-- A line put into a core's instruction cache, as of the launch's acceptance; the cache holds at most 512 lines, and the oldest
goes for one more (R3; log entry 33). -/
def State.fillLine (s : State) (core jn : Nat) (line : D64) : State :=
  match s.launches.find jn with
  | none => s
  | some l =>
    if s.icache.any (fun e => e.core = core && e.jn = jn && e.line = line) then s
    else match s.codeLine l line with
      | none => s
      | some ws => { s.tick 128 with
          icache := keepNewest Config.codeLines (fun e => e.core = core) (s.icache ++ [⟨core, jn, line, ws⟩]) }

/-- A translated demand fetch brings its line, unless that is beyond a host link which is not up (R309). -/
def State.settleFetch (s : State) (id : Nat) : State :=
  match s.acc id with
  | some a =>
    match a.op, a.stage with
    | .fetch _, .ready =>
      if a.locs.any (fun g => s.linkAway g.1) then s else (s.fillLine a.core a.jn a.va).dropAcc id
    | _, _ => s
  | none => s

/-- The same where the line is not a peer's, whose answer the fetch has to wait for (R184, R275). -/
def State.settleNear (s : State) (id : Nat) : State :=
  match s.acc id with
  | some a => if a.home = 2 then s else s.settleFetch id
  | none => s

/-- The places that a branch word may go to, read from its fields (R54). -/
def State.rawTargets (s : State) (L : LaneId) (addr : D64) (w : W32) : List D64 :=
  if majorOf w ≠ 23 then []
  else match (fld 3 24 w).toNat with
    | 2 => [addr + ((fld 18 0 w).signExtend 64) * 4]
    | 3 => [s.indexed L (fld 6 18 w).toNat]
    | 5 => [s.indexed L (fld 6 18 w).toNat]
    | 6 => (s.lane L).stack.take 1
    | 7 => []
    | _ => [addr + ((fld 20 0 w).signExtend 64) * 4]

/-- The code addresses that a lane's clause and its way on may need, each with the header of the clause it belongs to. Which of
them a group demands now is `State.demands` (R301). -/
def State.codeNeeds (s : State) (L : LaneId) : List (D64 × D64) :=
  let l := s.lane L
  let word := fun a => s.wordAt (s.team L.team).core (s.team L.team).jn a
  match word l.hdr with
  | none => [(l.hdr, l.hdr)]
  | some h =>
    let at0 := fun (i : Nat) => l.hdr + BitVec.ofNat 64 (4 * i)
    let body := (List.range (headerN h)).map (fun i => (at0 (i + 1), l.hdr))
    let more := match word (at0 l.k) with
      | some w => ((s.rawTargets L (at0 l.k) w).filter codeAligned).map (fun a => (a, a))
      | none => []
    body ++ [(at0 (headerN h + 1), at0 (headerN h + 1))] ++ more

/-- INSTRUCTION_FETCH (R301, R302): a demand fetch of a group, translated at once. It brings the line or parks as kind 3, once for
each clause that needs a word of the line. The event comes for the addresses that the group demands (`State.admits1`). -/
def execInstructionFetch (team group : Nat) (addr : D64) (s : State) : Out :=
  let line := lineAddr addr
  let t := s.team team
  let lanes := (s.liveLanes team group).filter (fun i => (s.lane ⟨team, group, i⟩).wait = .none)
  let needs := lanes.flatMap (fun i => s.codeNeeds ⟨team, group, i⟩)
  match needs.find? (fun x => x.1 = addr) with
  | none => ok s
  | some x =>
    if !s.mayIssue team group || s.icache.any (fun e => e.core = t.core && e.jn = t.jn && e.line = line) ||
        s.accs.any (fun a => a.team = team && a.group = group && a.va = line && a.op = .fetch x.2) then
      ok s
    else
      let a : Access :=
        { id := s.nextId, key := t.key, jn := t.jn, team := team, group := group, lanes := [], core := t.core, kind := 3,
          op := .fetch x.2, va := line, size := 128, major := 0, fn := 0, ctl := 0, stage := .core, page := 0, locs := [],
          home := 0, port := 0, seq := 0, cause := 0, bytes := [], ts := 0, poison := false }
      ok (({ s with nextId := s.nextId + 1, accs := s.accs ++ [a] }.translate a false).settleNear a.id)

/-- PREFETCH (R303): it never parks, and it is dropped where the line cannot be had now. -/
def execPrefetch (core jn : Nat) (addr : D64) (s : State) : Out :=
  ok (match s.launches.find jn with
    | none => s
    | some l =>
      let line := lineAddr addr
      match s.look l.key (clusterOf core) (.fetch 0) false line 128 [(0, 128)] with
      | .ok locs _ _ =>
        if vspace line = .ordinary && s.coreOn core && !(locs.any (fun g => s.linkAway g.1)) then s.fillLine core jn line else s
      | _ => s)

/-! ### The life of an access -/

/-- CTU_TRANSLATE (R272, R287): once no older access of its lanes is before it. -/
def execCtuTranslate (acc : Nat) (s : State) : Out :=
  ok (match s.acc acc with
    | some a => if a.stage = .core && !s.held a then ((s.translate a false).settleNear acc).inImage a.team else s
    | none => s)

/-- RETURNED_REQUEST_RESEND (R294). -/
def execReturnedRequestResend (acc : Nat) (s : State) : Out :=
  ok (match s.acc acc with
    | some a =>
      let cl := clusterOf a.core
      if a.stage = .returned && ((s.parkedIn cl).length < Config.cappingEntries ||
          (s.spilledIn cl a.key).length < s.spillShare a.key) then s.setAcc { a with stage := .core }
      else s
    | none => s)

/-- The pages of an access that still lack the host's translation (R273). -/
def State.atsNeed (s : State) (a : Access) : List D64 :=
  (pagesOf a.va a.size).filter (fun p => (s.atsPerm a.key p).isNone &&
    match s.lookup (clusterOf a.core) a.key p with | some t => t.home = 1 | none => false)

/-- The host's answer for a page, cached under the PASID of a context (R273). -/
def State.setAts (s : State) (key : Nat) (page : D64) (g : Perm) : State :=
  match (s.ctx key).bind (·.pasid) with
  | some p => { s with ats := s.ats.set (p, page) g }
  | none => s

/-- ATS_RESPONSE (R273): the host's answer for the first page without one. -/
def execAtsResponse (acc : Nat) (grant : Option Perm) (s : State) : Out :=
  ok (match s.acc acc with
    | some a =>
      if a.stage ≠ .ats then s
      else
        match s.atsNeed a, grant with
        | p :: _, some g => (s.setAts a.key p g).setAcc { a with stage := .core }
        | p :: _, none => if a.op.quiet then (s.dropAcc acc).inImage a.team else s.park a 4 p
        | [], _ => s.setAcc { a with stage := .core }
    | none => s)

/-- The 64 bytes of a ring entry (R281). -/
def Req.bytes (r : Req) (key : Nat) : List Byte :=
  record64 ([(0, 1, r.code), (1, 1, key), (4, 4, r.core), (8, 1, r.group), (9, 1, r.lane), (0x0A, 1, r.d), (0x0C, 4, r.seq),
    (0x20, 8, r.pts)] ++ (List.range 4).map (fun i => (0x10 + 4 * i, 4, (r.args.getD i 0).toNat)))

/-- A service request enters its context's ring, which lies in firmware memory under key id 0 (R280, R281). -/
def State.svcAtHome (s : State) (a : Access) (d code : Nat) (args : List W32) (pts : Nat) : State :=
  match s.ctx a.key with
  | none => s
  | some c =>
    let r : Req := { seq := c.nextSeq, code := code, team := a.team, group := a.group, lane := a.lanes.headD 0, d := d,
                     args := args, pts := pts, core := s.coreOf a.team, issued := a.id, reply := none, ts := s.startTs a }
    let s := { s with mem := s.mem.putN (loc .ring a.key (64 * (c.nextSeq % c.ring))) (r.bytes a.key) }
    (s.setCtx { c with reqs := c.reqs ++ [r], nextSeq := (c.nextSeq + 1) % 2 ^ 32 }).dropAcc a.id

/-- Whether a request of a lower lane of the same word is still on its way: requests of one word act in lane order (R264,
R280). -/
def State.behindLane (s : State) (a : Access) : Bool :=
  s.accs.any (fun b => b.team = a.team && b.group = a.group && b.ctl = a.ctl && b.kind = a.kind && b.id < a.id &&
    match b.op, a.op with
    | .svc .., .svc .. => true
    | .launch .., .launch .. => true
    | _, _ => false)

/-- The next piece of an access to bytes, at its home: poison parks it, an unreachable line leaves it. CWB and CINV of a poisoned line
do nothing: R305 parks every request to such a line and R212 lets neither park, and the model takes R212 (log entry 107). -/
def State.bytesAtHome (s : State) (a : Access) : State :=
  match a.locs with
  | [] => s
  | g :: _ =>
    if s.meetsPoison a g then
      (if a.op.quiet then s.dropAcc a.id else s.park a 8 (pageOf (a.va + BitVec.ofNat 64 a.doneBytes)))
    else if s.reachable a.core g.1 g.2 then s.performPiece a false
    else s

/-- An access through an aperture, whose place is judged again when it is performed. -/
def State.apertureAtHome (s : State) (a : Access) : State :=
  match s.placeOf a with
  | .bytes l =>
    let d := a.doneBytes
    let locs := (a.pieces.map (fun g => (l + g.1, g.2))).filter (fun g => l + d ≤ g.1)
    s.performPiece { a with locs := locs } false
  | .reg c g lane n byte =>
    let r := s.rid ⟨a.team, g, lane⟩ c n
    if (s.mark r).full && (s.group a.team g).off.isNone then s.performReg a r byte else s
  | .bad r => s.unrepairable a r
  | _ => s.unrepairable a 1

/-- ACCESS_AT_HOME (R185): the next piece of a translated access, in its lanes' program order, and what that leaves of the image of a
SAVED team (R355). A fetch that had to wait for a peer or for the host link brings its line; what the launch unit reads is kept for
the next acceptance. Barrier accesses and copy chunks have events of their own. -/
def execAccessAtHome (acc : Nat) (s : State) : Out :=
  ok (match s.acc acc with
    | none => s
    | some a =>
      if a.stage ≠ .ready || s.held a then s
      else match a.op with
        | .bar .. | .chunk .. => s
        | .fetch _ =>
          if a.locs.all (fun g => s.reachable a.core g.1 g.2) then (a.locs.foldl (fun s g => s.sendFlit g.1) s).settleFetch acc else s
        | .svc d code args pts => if s.behindLane a then s else (s.svcAtHome a d code args pts).inImage a.team
        | _ => (if vspace a.va = .ordinary then s.bytesAtHome a else s.apertureAtHome a).inImage a.team)

/-- A key-block line that has been read: its run takes it, or it is discarded while the run is stopped or no longer wants
it (R136, R308). -/
def State.attnLine (s : State) (a : Access) (run line : Nat) : State :=
  let s := s.dropAcc a.id
  match s.run run with
  | none => s
  | some r =>
    let b := line / linesOf r.f
    if !(r.asked.contains b) then s
    else if s.runGoes r then s.setRun { r with lines := r.lines ++ [(line, a.bytes)], ts := max r.ts a.ts }
    else s.setRun { r with asked := r.asked.filter (· ≠ b), lines := r.lines.filter (fun e => e.1 / linesOf r.f ≠ b) }

/-- The answer of a performed access (R203, R299). Descriptors and launch records are taken by events of their own. -/
def State.finish (s : State) (id : Nat) : State :=
  match s.acc id with
  | some a =>
    if a.stage ≠ .done then s
    else match a.op with
      | .tset _ | .launch .. | .accept _ => s
      | .attn r l => s.attnLine a r l
      | _ => s.deliver a
  | none => s

/-- ACCESS_RESPONSE (R203). -/
def execAccessResponse (acc : Nat) (s : State) : Out := ok (s.finish acc)

/-- BARRIER_UPDATE (R257, R259, R260): one access at the barrier's home. It happens wholly before its team's save or wholly after the
restore (R265). -/
def execBarrierUpdate (acc : Nat) (s : State) : Out :=
  ok (match s.acc acc with
    | none => s
    | some a =>
      if a.stage ≠ .ready || s.held a || (s.team a.team).phase.holds then s
      else match a.op with
        | .bar _ op =>
          match s.placeOf a with
          | .bytes l =>
            let r := s.barrierAt l (s.startTs a) op
            let s := r.1.raise a r.2.2
            if op = .test then
              s.setAcc { a with stage := .done, locs := [], bytes := leBytes 4 (r.2.1.gen + 16 * b2n r.2.1.f), ts := r.2.2 }
            else s.dropAcc acc
          | .bad r => if a.op.leaves then s.dropAcc acc else s.unrepairable a r
          | _ => if a.op.leaves then s.dropAcc acc else s.unrepairable a 1
        | _ => s)

/-- TSET_DESCRIPTOR_ARRIVAL (R219): descriptors of one id arrive in the order of their TSETs, and while a later one is on its way the id
stays pending. -/
def execTsetDescriptorArrival (acc : Nat) (s : State) : Out :=
  ok (match s.acc acc with
    | none => s
    | some a =>
      match a.op, a.stage with
      | .tset x, .done =>
        let same := fun (p : Nat → Bool) => s.accs.any (fun b => b.team = a.team && b.op = .tset x && p b.id)
        if same (· < a.id) then s
        else if same (a.id < ·) then (s.dropAcc acc).inImage a.team
        else s.deliver a
      | _, _ => s)

/-- PTS_TICK (R187): one tick for each 256 cycles. It raises the time of every resident lane, and with it the least time of a core's
lanes, which a lane that makes no access for long has reached nevertheless: so 33 ticks put it past every lease of before (log
entry 108). -/
def execPtsTick (s : State) : Out :=
  ok (if s.clock < (s.ticks + 1) * 256 then s
    else { s with
      ticks := s.ticks + 1,
      cores := s.cores.map (fun e => (e.1, { e.2 with aged := e.2.least + 1 })),
      lanes := s.lanes.map (fun e =>
        if e.2.live && (s.team e.1.team).phase ≠ .saved then (e.1, { e.2 with pts := e.2.pts + 1 }) else e) })

/-! ### Reporting, replay and discarding (R293 to R300, R306) -/

/-- REFILL (R293): the spilled entry with the lowest sequence number. -/
def execRefill (cluster : Nat) (s : State) : Out :=
  ok (if Config.cappingEntries ≤ (s.parkedIn cluster).length then s
    else match minBy (·.seq) (s.accs.filter (fun a => a.stage = .spilled && clusterOf a.core = cluster)) with
      | some a => s.setAcc { a with stage := .parked }
      | none => s)

/-- The entries of a page in a cluster, resident and spilled. -/
def State.entriesOn (s : State) (cluster key : Nat) (page : D64) : List Access :=
  s.accs.filter (fun a => (a.stage = .parked || a.stage = .spilled) && clusterOf a.core = cluster && a.key = key && a.page = page)

/-- The union of the causes of a list of entries, and the mask of their kinds. -/
def causesOf (l : List Access) : Nat := l.foldl (fun (m : Nat) a => m ||| a.cause) 0
def kindsOf (l : List Access) : Nat := maskOf (l.map (·.kind))

/-- An entry of a batch (R296). -/
def State.batchEntry (s : State) (cluster : Nat) (p : PageKey) : List Byte :=
  let es := s.entriesOn cluster p.key p.page
  leBytes 8 p.page.toNat ++ leBytes 1 p.key ++ leBytes 1 (causesOf es) ++ leBytes 2 (kindsOf es) ++ leBytes 4 es.length

/-- The Preron cores that boot flash enables and that have not failed (R295, R328). -/
def State.preronsOn (s : State) : List Nat :=
  (List.range 64).filter (fun n => !(s.board.flash.preronOff.contains n) && !(s.board.preronFailed.contains n))

/-- The first of the numbers from `n` on, wrapping. -/
def nextFrom (l : List Nat) (n m : Nat) : Nat := (minBy (fun x => (x + m - n) % m) l).getD 0

/-- The Preron core whose rings hold a context's batches and its request ring: those that boot flash enables have one (R281, R295). -/
def State.ringOf (s : State) (key : Nat) : Nat :=
  nextFrom ((List.range 64).filter (fun n => !(s.board.flash.preronOff.contains n))) (key % 64) 64

/-- The Preron core that serves them now: that one, or the one that has taken its rings over (R328). -/
def State.preronOf (s : State) (key : Nat) : Nat := nextFrom s.preronsOn (s.ringOf key) 64

/-- The 16 bytes of a Preron core's journal, in a form of the model's own, and the cores whose rings it has (R328; log entry 95). -/
def Preron.bytes (p : Preron) : List Byte := leBytes 8 p.mailPos ++ leBytes 8 p.ringPos ++ p.taken.flatMap (leBytes 1)

/-- A Preron core's journal written under key id 0 (R328). -/
def State.setPreron (s : State) (n : Nat) (p : Preron) : State :=
  { s with board := { s.board with prerons := s.board.prerons.set n p }, mem := s.mem.putN (loc .preron n 0) p.bytes }

/-- The journal of a Preron core. -/
def State.preron (s : State) (n : Nat) : Preron := s.board.prerons.get ⟨0, 0, []⟩ n

/-- Outstanding PRI page request groups of one PASID (R273). -/
def priLimit : Nat := 512

/-- One PRI page request group, unless the page has one outstanding or its PASID has 512 (R273). -/
def State.askPri (s : State) (key : Nat) (page : D64) : State :=
  match (s.ctx key).bind (·.pasid) with
  | none => s
  | some p =>
    if s.pri.contains (p, key, page) || priLimit ≤ (s.pri.filter (fun e => e.1 = p)).length then s
    else { s with pri := s.pri ++ [(p, key, page)], outbox := s.outbox ++ [.priRequest key page] }

/-- Firmware asks the host for the reported pages of a cluster that the host has refused (R273). -/
def State.askHost (s : State) (cluster : Nat) : State :=
  ((s.cluster cluster).pages.filter (fun p => p.reported && bitOf (causesOf (s.entriesOn cluster p.key p.page)) 2)).foldl
    (fun s p => s.askPri p.key p.page) s

/-- BATCH_DELIVERY (R295, R296): the window closes after 4,000 cycles or at 512 page keys. Firmware asks the host for pages
that the host refused (R273). -/
def execBatchDelivery (cluster : Nat) (s : State) : Out :=
  let c := s.cluster cluster
  let new := c.pages.filter (fun p => !p.reported)
  match c.window with
  | none => ok s
  | some t =>
    if s.clock < t + 4000 && new.length < 512 then ok s
    else
      let ps := sortBy (fun (a b : PageKey) => a.key < b.key || (a.key = b.key && a.page.toNat < b.page.toNat)) (new.take 512)
      let head := record64 [(0, 2, ps.length), (2, 1, cluster), (4, 4, c.batchSeq), (8, 8, s.clock)]
      let key := (ps.map (·.key)).headD 0
      let p := s.preron (s.ringOf key)
      let s' := s.setCluster cluster { c with
        pages := c.pages.map (fun p => if ps.contains p then { p with reported := true, seen := s.clock } else p),
        window := if 512 < new.length then some s.clock else none,
        batchSeq := (c.batchSeq + 1) % 2 ^ 32 }
      let s' := s'.setPreron (s.ringOf key) { p with mailPos := p.mailPos + 1 }
      ok (State.askHost { s' with outbox := s.outbox ++ [.batch (s.preronOf key) (head ++ ps.flatMap (s.batchEntry cluster))] } cluster)

/-- The pieces of a replayed access, all performed now, as far as its lines can be had. A record load that has read its header is
translated for its limbs, and goes on with them (R176, R298). -/
def State.performAll (s : State) (id : Nat) (poisoned : Bool) : Nat → State
  | 0 => s
  | k + 1 =>
    match s.acc id with
    | none => s
    | some a =>
      match a.stage, a.locs with
      | .ready, g :: _ =>
        let s := s.makeReachable a.core g.1 g.2
        if s.reachable a.core g.1 g.2 then
          (s.performPiece a (poisoned && s.poison.contains (lineOf g.1))).performAll id poisoned k
        else s
      | .core, _ => (s.translate a poisoned).performAll id poisoned k
      | _, _ => s

/-- A replayed chunk is performed whole; while its team's image is being written or read it stays with COPY_CHUNK. -/
def State.performChunk (s : State) (a : Access) (copy chunk : Nat) : State :=
  let s := a.locs.foldl (fun s g => s.makeReachable a.core g.1 g.2) s
  match s.copy copy with
  | some c =>
    if a.locs.all (fun g => s.reachable a.core g.1 g.2) && s.chunkRoom c (some a) && !(s.team a.team).phase.moving then
      s.doChunk c chunk (some a)
    else s
  | none => s.dropAcc a.id

/-- One entry replayed (R298): translated again, performed and delivered, or parked again. `poisoned` is RESOLVE.POISON
(R306). -/
def State.replay (s : State) (poisoned : Bool) (id : Nat) : State :=
  match s.acc id with
  | none => s
  | some a =>
    let s := s.translate a poisoned
    match s.acc id with
    | none => s
    | some b =>
      if b.stage ≠ .ready then s
      else
        let bad := fun (g : Nat × Nat) => s.poison.contains (lineOf g.1)
        if poisoned && b.locs.any bad && 3 ≤ b.kind && b.kind ≤ 6 then
          s.incident b.key 3 (s.record17 b.key (clusterOf b.core) (b.pageWith bad) 8 3)
        else match b.op with
          | .fetch _ => s.settleNear id
          | .chunk c i _ => s.performChunk b c i
          | _ => (s.performAll id poisoned 64).finish id

/-- Whether an access of a chain can be sent on: every older one of its lanes has been sent before it (R291, R298). -/
def State.sendable (s : State) (a : Access) : Bool :=
  a.stage = .core && !(s.accs.any (fun b => b.id < a.id && b.team = a.team && b.group = a.group &&
    b.lanes.any (fun l => a.lanes.contains l) && b.stage ≠ .ready && !b.performed)) &&
    !(a.lanes.any (fun l => s.behindSender ⟨a.team, a.group, l⟩ a.id))

/-- The accesses of a chain sent on as new requests, in order, until one of them parks (R298). -/
def State.sendOn (s : State) : List Nat → State
  | [] => s
  | id :: rest =>
    match s.acc id with
    | none => s.sendOn rest
    | some h => if s.sendable h then (s.translate h false).sendOn rest else s

/-- The chain of an access: the younger accesses of its lanes that are held (R291). -/
def State.chainOf (s : State) (a : Access) : List Nat :=
  (s.accs.filter (fun b => a.id < b.id && b.team = a.team && b.group = a.group && b.lanes.any (fun l => a.lanes.contains l) &&
    b.stage = .core)).map (·.id)

/-- An entry replayed, with what that leaves of the image of a SAVED team (R355), and its chain sent on once it has been performed
(R298). -/
def State.replayOn (s : State) (poisoned : Bool) (a : Access) : State :=
  let s := (s.replay poisoned a.id).inImage a.team
  if s.pendingAcc a.id then s else s.sendOn (s.chainOf a)

/-- The entries that a RESOLVE acts on, in sequence order, and the page key resolved (R295, R298). -/
def State.resolvePage (s : State) (cluster key : Nat) (page : D64) (poisoned : Bool) : State :=
  let c := s.cluster cluster
  let rep := c.isReported key page
  let es := sortBy (fun (a b : Access) => a.seq < b.seq)
    ((s.entriesOn cluster key page).filter (fun a => rep || a.stage = .spilled))
  let s := s.setCluster cluster
    { c with pages := c.pages.filter (fun p => !(p.key = key && p.page = page && p.reported)) }
  let s := { s with tlb := s.tlb.del (cluster, key, page) }
  es.foldl (fun s a => s.replayOn poisoned a) s

/-- RESOLVE (R298): after the table writes of firmware. -/
def execResolve (key cluster : Nat) (page : D64) (tables : List (Nat × D64)) (s : State) : Out :=
  ok (match s.ctx key with
    | some _ => (s.applyTables key tables).resolvePage cluster key page false
    | none => s)

/-- RESOLVE_POISON (R306). -/
def execResolvePoison (key cluster : Nat) (page : D64) (s : State) : Out :=
  ok (match s.ctx key with
    | some _ => s.resolvePage cluster key page true
    | none => s)

/-- The entries of a context in a cluster, in sequence order (R297). -/
def State.listing (s : State) (key cluster : Nat) : List Byte :=
  (sortBy (fun (a b : Access) => a.seq < b.seq) (s.accs.filter (fun a =>
    (a.stage = .parked || a.stage = .spilled) && clusterOf a.core = cluster && a.key = key))).flatMap s.entryBytes

/-- LIST (R297). -/
def execList (key cluster : Nat) (s : State) : Out := ok { s with outbox := s.outbox ++ [.listing (s.listing key cluster)] }

/-- A command of firmware through the mailbox (R297): 16 bytes. One with an unassigned code or a reserved byte that is not zero is
ignored and logged. -/
def State.mailCommand (s : State) (b : List Byte) (tables : List (Nat × D64)) : Out :=
  let code := leAt b 0 1
  let page := pageOf (BitVec.ofNat 64 (leAt b 8 8))
  if b.length ≠ 16 || leAt b 3 5 ≠ 0 then ok { s with outbox := s.outbox ++ [.ignored b] }
  else if code = 1 then execResolve (leAt b 1 1) (leAt b 2 1) page tables s
  else if code = 2 then execResolvePoison (leAt b 1 1) (leAt b 2 1) page s
  else if code = 3 then execList (leAt b 1 1) (leAt b 2 1) s
  else ok { s with outbox := s.outbox ++ [.ignored b] }

/-- Whether a block of a context's heap has bytes on the page of an address. -/
def Ctx.onHeap (c : Ctx) (a : D64) : Bool := c.heap.any (fun b => b.1 / 4096 * 4096 ≤ a.toNat && a.toNat < b.1 + b.2)

/-- The permissions that firmware granted a context at an address: those of PAGEMAP's ranges, and read and write in the
heap's blocks; none outside them. -/
def Ctx.grantsAt (c : Ctx) (a : D64) : List Perm :=
  ((c.granted.filter (fun g => g.1.toNat ≤ a.toNat && a.toNat < g.1.toNat + g.2.1)).map (fun g => g.2.2)) ++
    (if c.onHeap a then [⟨true, true, false⟩] else [])

/-- Whether firmware granted a page, and whether it granted what is needed there. -/
def Ctx.grants (c : Ctx) (a : D64) : Bool := !(c.grantsAt a).isEmpty
def Ctx.grantsNeed (c : Ctx) (a : D64) (need : Perm) : Bool :=
  permGrants ⟨(c.grantsAt a).any (·.r), (c.grantsAt a).any (·.w), (c.grantsAt a).any (·.x)⟩ need

/-- A reported page that ends its context (R300). -/
def State.notRepaired (s : State) (key cluster : Nat) (page : D64) (reason : Nat) : State :=
  s.incident key 3 (s.record17 key cluster page (causesOf (s.entriesOn cluster key page)) reason)

/-- PAGE_REPAIR_TIMEOUT (R300): a reported page that was not granted, or not with a permission that an entry on it needs,
reason 0; or one not repaired within 1 s, reason 2. -/
def execPageRepairTimeout (key cluster : Nat) (page : D64) (reason : Nat) (s : State) : Out :=
  ok (match s.ctx key, (s.cluster cluster).pages.find? (fun p => p.key = key && p.page = page && p.reported) with
    | some c, some p =>
      if (reason = 0 && (!c.grants page || (s.entriesOn cluster key page).any (fun a => !c.grantsNeed page a.op.need))) ||
          (reason = 2 && p.seen + 1000000000 ≤ s.clock) then s.notRepaired key cluster page reason
      else s
    | _, _ => s)

/-- A PRI page request group of a page that has been answered. -/
def State.priDone (s : State) (key : Nat) (page : D64) : State :=
  { s with pri := s.pri.filter (fun e => !(e.2 = (key, page))) }

/-- Whether the host has been asked for a page of a context (R273). -/
def State.priOut (s : State) (key : Nat) (page : D64) : Bool := s.pri.any (fun e => e.2 = (key, page))

/-- PRI_RESPONSE (R273): Success replays the page's entries under the new translation, another answer ends the context. A page that
other clusters have reported too is replayed there as well, and pages that waited for a group are asked for. -/
def execPriResponse (key cluster : Nat) (page : D64) (grant : Option Perm) (s : State) : Out :=
  ok (if !(s.cluster cluster).isReported key page || !s.priOut key page then s
    else match grant with
      | some g =>
        let others := (List.range Config.clusters).filter (fun c => c ≠ cluster && (s.cluster c).isReported key page)
        let s := (cluster :: others).foldl (fun s c => s.resolvePage c key page false) ((s.priDone key page).setAts key page g)
        (List.range Config.clusters).foldl (fun s c => s.askHost c) s
      | none => s.notRepaired key cluster page 1)

/-! ### Uncorrectable errors (R305, R306) -/

/-- An error counted on a die. -/
def bumpDie (l : List Nat) (d : Nat) : List Nat := l.set d (l.getD d 0 + 1)

/-- The table pages through which a context translates, as far as the tables in memory lead: the root and the tables that
valid entries name. -/
def State.tableLine (s : State) (c : Ctx) (line : Nat) : Bool :=
  let pa := 128 * line
  let ts := levelTables s.mem c.root
  (c.root ≤ pa && pa < c.root + 2 ^ 20) || (ts.1 ++ ts.2.1 ++ ts.2.2).any (fun b => b ≤ pa && pa < b + 4096)

/-- The contexts that depend on a line of firmware's (R306): those whose tables it holds, and the owner of the save image, the
request ring or the spill area that it lies in. -/
def State.dependents (s : State) (line : Nat) : List Nat :=
  let pa := 128 * line
  let sub := pa / 2 ^ 64 % 2 ^ 40
  if isHbm pa then
    (if Config.firmwareBase ≤ pa then (s.ctxs.filter (fun e => s.tableLine e.2 line)).map (fun e => e.1) else [])
  else if inSpace .save pa then ((s.teams.find sub).map (fun t => [t.key])).getD []
  else if inSpace .ring pa || inSpace .spill pa then [sub]
  else []

/-- UNCORRECTABLE_ERROR (R305): the home line is marked poisoned. A line of firmware's ends the contexts that depend on it (R306); that
no cluster reported it, the record says with cluster 0, and it names the line's own page, cause 8 and reason 3, which the manual does
not lay down (log entry 57). -/
def execUncorrectableError (line : Nat) (s : State) : Out :=
  let pa := 128 * line
  if (isHbm pa && Config.hbmBytes ≤ pa) || inSpace .peer pa || inSpace .scratch pa || inSpace .acc pa then ok s
  else
    let s := { s with
      poison := if s.poison.contains line || !(isHbm pa || inSpace .host pa) then s.poison else s.poison ++ [line],
      board := { s.board with uncorrected := bumpDie s.board.uncorrected (dieOfPa pa) } }
    ok ((s.dependents line).foldl (fun s k => s.incident k 3 (s.record17 k 0 (BitVec.ofNat 64 (pa % 2 ^ 64 / 4096 * 4096)) 8 3)) s)

end Sys2Proof.Machine
end

