-- ==== Sys2Proof/Machine/Place.lean ====
section
/-! DEFINITION. Launch records, kernel headers and where teams fit: the checks of acceptance, the shape of a team, and its
placement on a core (R6, R26, R30, R32 to R35, R226, R233, R234). -/

namespace Sys2Proof.Machine

/-! ### Records and headers -/

/-- The record that 64 bytes hold, and whether every field is legal (R226). -/
def recordOf (b : List Byte) : Record :=
  { kernel := BitVec.ofNat 64 (leAt b 0 8), gx := leAt b 8 4, gy := leAt b 0x0C 4, gz := leAt b 0x10 4, plen := leAt b 0x14 4,
    paddr := BitVec.ofNat 64 (leAt b 0x18 8), status := BitVec.ofNat 64 (leAt b 0x20 8), prio := leAt b 0x28 1 % 8,
    dep := bitOf (leAt b 0x29 1) 0, tag := BitVec.ofNat 32 (leAt b 0x2C 4) }

/-- Whether a status address is one that may be written: 0 stands for none (R226, R227). -/
def Record.statusOk (r : Record) : Bool := r.status = 0 || (r.status.toNat % 8 = 0 && vspace r.status = .ordinary)

/-- Teams of a launch. -/
def Record.total (r : Record) : Nat := r.gx * r.gy * r.gz

/-- Whether the fields of a record are legal (R226). -/
def recordOk (b : List Byte) : Bool :=
  let r := recordOf b
  r.kernel.toNat % 64 = 0 && 1 ≤ r.gx && r.gx < 2 ^ 31 && 1 ≤ r.gy && r.gy ≤ 65535 && 1 ≤ r.gz && r.gz ≤ 65535 &&
    r.plen ≤ 65536 && r.plen % 4 = 0 && (r.plen = 0 || r.paddr.toNat % 4 = 0) && r.statusOk && leAt b 0x28 1 < 8 &&
    leAt b 0x29 1 < 2 && leAt b 0x2A 2 = 0 && leAt b 0x30 16 = 0 && r.total < 2 ^ 48

/-- The header that 64 bytes hold, rounded (R32, R33). -/
def headerOf (b : List Byte) : Header :=
  let n := leAt b
  let fl := n 7 1
  { width := 2 ^ n 6 1, coRes := bitOf fl 0, restart := bitOf fl 1, roles := bitOf fl 2, groupsA := n 8 2, groupsB := n 0x0A 2,
    vregsA := roundUp (n 0x0C 1) 8, vregsB := roundUp (n 0x0D 1) 8, sregs := roundUp (n 0x0E 1) 8, dregs := n 0x0F 1,
    wlimbs := n 0x10 2, tiles := n 0x12 1, tensors := n 0x13 1, scratch := roundUp (n 0x14 4) 1024,
    acc := roundUp (n 0x18 4) 1024, stack := roundUp (n 0x1C 4) 64, lease := if n 0x20 2 = 0 then 256 else n 0x20 2,
    shBase := n 0x22 1, shCount := n 0x23 1, patches := n 0x24 2, patchOff := n 0x28 4, first := n 0x2C 4, trap := n 0x30 4 }

/-- An offset of a clause: a multiple of 4, at least 64. -/
def clauseOff (x : Nat) : Bool := x % 4 = 0 && 64 ≤ x

/-- Bytes of registers of one lane of a role (R30). -/
def Header.laneBytes (h : Header) (v : Nat) : Nat :=
  4 * v + 64 * h.dregs + (if 0 < h.wlimbs then 8 * h.wlimbs + 256 else 0)

/-- Bytes of registers of a group (R30). -/
def Header.groupBytes (h : Header) (g : Nat) : Nat :=
  h.width * h.laneBytes (h.vregs g) - h.width * 4 * (if h.consumer g then h.shCount else 0) + 8 * h.sregs

/-- Rows of a team's region (R30). -/
def Header.rows (h : Header) : Nat :=
  let used := fun q => ((List.range h.groups).filter (fun g => g % 4 = q)).foldl (fun (n : Nat) g => n + h.groupBytes g) 0
  let reg := (List.range 4).foldl (fun (m : Nat) q => max m ((used q + 1023) / 1024)) 0
  reg + (h.scratch + h.acc + 4095) / 4096

/-- Whether the fields of a header are legal, its shared range too, and its team fits a core (R26, R30, R32, R34). -/
def headerOk (b : List Byte) : Bool :=
  let n := leAt b
  let h := headerOf b
  let roles := h.roles
  n 0 4 = 0x314E4B4C && n 4 2 = 1 && 3 ≤ n 6 1 && n 6 1 ≤ 6 && n 7 1 < 8 && 1 ≤ n 8 2 && n 8 2 ≤ 64 &&
    (if roles then 1 ≤ n 0x0A 2 && n 0x0A 2 ≤ 63 else n 0x0A 2 = 0) && 1 ≤ n 0x0C 1 && n 0x0C 1 ≤ 64 &&
    (if roles then 1 ≤ n 0x0D 1 && n 0x0D 1 ≤ 64 else n 0x0D 1 = 0) && 1 ≤ n 0x0E 1 && n 0x0E 1 ≤ 32 && n 0x0F 1 ≤ 16 &&
    n 0x10 2 ≤ 256 && n 0x12 1 ≤ 32 && n 0x13 1 ≤ 16 && n 0x14 4 ≤ 1048576 && n 0x18 4 ≤ 1048576 && n 0x1C 4 ≤ 65536 &&
    n 0x20 2 ≤ 4096 && n 0x22 1 ≤ 63 && n 0x23 1 ≤ 64 && n 0x24 2 ≤ 4096 && n 0x26 2 = 0 && n 0x28 4 % 8 = 0 &&
    clauseOff (n 0x2C 4) && (n 0x30 4 = 0 || clauseOff (n 0x30 4)) && n 0x34 12 = 0 &&
    (h.shCount = 0 || (roles && h.shBase + h.shCount ≤ h.vregsA && h.shBase + h.shCount ≤ h.vregsB)) &&
    h.groups ≤ 64 && h.rows ≤ 256

/-- A patch entry (R35): word, byte offset of the parameter word, half; none where a reserved bit is set. -/
def patchEntry (x : Nat) : Option (Nat × Nat × Bool) :=
  if bits x 49 15 = 0 && bits x 32 16 % 4 = 0 then some (bits x 0 32, bits x 32 16, bitOf x 48) else none

/-- Whether a word may be patched: major 9 with fn 0 to 5 (R35). -/
def patchable (w : W32) : Bool := majorOf w = 9 && (fld 5 22 w).toNat ≤ 5

/-! ### Placement (R29, R30, R233, R234) -/

/-- Whether a team still takes its slot and rows: it is placed, and a lane, a run, a copy or a pending word of it is left. -/
def State.occupies (s : State) (t : Nat) : Bool :=
  (s.team t).phase ≠ .saved &&
    (s.teamLive t || s.runs.any (fun r => r.team = t) || s.copies.any (fun c => c.team = t) || s.pend.any (fun p => p.team = t))

/-- The teams that take room on a core; `gone` counts as given back. -/
def State.teamsOn (s : State) (core : Nat) (gone : List Nat) : List (Nat × Team) :=
  s.teams.filter (fun e => e.2.core = core && !(gone.contains e.1) && s.occupies e.1)

/-- The groups that a team still holds in a partition. A group that has ended counts until its team is gone: R233 counts resident
groups, and the manual does not say whether such a group is still one (log entry 97). -/
def State.groupsIn (s : State) (t q : Nat) : Nat :=
  (s.groups.filter (fun e => e.1.1 = t && e.2.part = q)).length

/-- A place for a team on a core: slot, first row, part0. -/
structure Fit where
  slot : Nat
  base : Nat
  part0 : Nat
  deriving DecidableEq, Repr

/-- The lowest run of `n` rows that no team holds and that is not retired (R325). -/
def freeRun (taken : List (Nat × Nat)) (retired : List Nat) (n : Nat) : Option Nat :=
  (List.range 257).find? (fun b => b + n ≤ 256 && taken.all (fun x => b + n ≤ x.1 || x.1 + x.2 ≤ b) &&
    retired.all (fun r => r < b || b + n ≤ r))

/-- How a team of a header fits a core (R233). -/
def State.fitCore (s : State) (h : Header) (core : Nat) (gone : List Nat) : Option Fit :=
  let ts := s.teamsOn core gone
  if !s.coreOn core then none else
  match (List.range 16).find? (fun i => ts.all (fun e => e.2.slot ≠ i)),
      freeRun (ts.map (fun e => (e.2.base, e.2.rows))) (s.core core).retired h.rows with
  | some slot, some base =>
    let have0 := fun q => ts.foldl (fun (n : Nat) e => n + s.groupsIn e.1 q) 0
    let part0 := (minBy have0 (List.range 4)).getD 0
    let more := fun q => ((List.range h.groups).filter (fun g => (part0 + g) % 4 = q)).length
    if (List.range 4).all (fun q => have0 q + more q ≤ 16) then some ⟨slot, base, part0⟩ else none
  | _, _ => none

/-- The first core of a list that a team fits. -/
def State.fitIn (s : State) (h : Header) (gone : List Nat) : List Nat → Option (Nat × Fit)
  | [] => none
  | c :: t =>
    match s.fitCore h c gone with
    | some f => some (c, f)
    | none => s.fitIn h gone t

/-- The cores of a cluster, ascending. -/
def coresOf (cluster : Nat) : List Nat := (List.range 192).map (fun i => 192 * cluster + i)

/-- The lowest free slot number of a partition, for a group of a team that is being seated: its groups below `g` have their numbers
already, and what the others of that team hold is from an earlier stay. R241 asks only for a number from 0 to 15; which one is the
model's choice (log entry 97). -/
def State.slotIn (s : State) (core part t g : Nat) : Nat :=
  let used := s.groups.filter (fun e => (s.team e.1.1).core = core && e.2.part = part && s.occupies e.1.1 &&
    (e.1.1 ≠ t || e.1.2 < g))
  ((List.range 16).find? (fun i => used.all (fun e => e.2.slot ≠ i))).getD 0

/-- The priority of a launch's first clause, as of acceptance (R45). -/
def State.firstPrio (s : State) (l : Launch) : Nat :=
  match s.codeLine l (lineAddr l.firstAddr) with
  | some ws => headerP (ws.getD (l.firstAddr.toNat % 128 / 4) 0)
  | none => 0

/-- The groups of a team get their partitions and slot numbers on a core (R29, R241). -/
def State.seatGroups (s : State) (t core part0 : Nat) (n : Nat) (h : Header) (fresh : Bool) : State :=
  (List.range n).foldl (fun s g =>
    let part := (part0 + g) % 4
    let slot := s.slotIn core part t g
    let x := if fresh then
        { Group.none with role := if h.roles then (if h.consumer g then 2 else 1) else 0,
                          idx := if h.consumer g then g - h.groupsA else g }
      else s.group t g
    s.setGroup t g { x with part := part, slot := slot, issued := s.clock }) s

/-- A team starts on a core (R22, R25, R27, R29, R230): every register holds its value of R25, since no register of a new
team number is in the tables. -/
def State.startTeam (s : State) (jn lin core : Nat) (f : Fit) : State :=
  match s.launches.find jn with
  | none => s
  | some l =>
    let t := s.nextId
    let pts := if l.record.dep then max l.ts s.maxTs else l.ts
    let prio := s.firstPrio l
    let s := { s with
      nextId := s.nextId + 1,
      teams := s.teams.set t { key := l.key, jn := jn, lin := lin, core := core, slot := f.slot, base := f.base, rows := l.hdr.rows,
                               part0 := f.part0, inst := Config.freeDraw s.fresh, phase := .resident, since := s.clock,
                               savedAt := 0 } }
    let s := s.tick 1
    let lanes := (List.range l.hdr.groups).flatMap (fun g => (List.range l.hdr.width).map (fun i =>
      ((⟨t, g, i⟩ : LaneId),
        { Lane.none with live := true, hdr := l.firstAddr, k := 1, prio := prio, arrive := s.nextId, since := s.clock, pts := pts })))
    let s := { s with lanes := s.lanes ++ lanes }
    s.seatGroups t core f.part0 l.hdr.groups l.hdr true

/-- A launch counts teams that started or were dispatched (R231, R323). -/
def State.countTeams (s : State) (jn n : Nat) : State :=
  match s.launches.find jn with
  | some l =>
    let st := if l.state = .accepted then .placing else l.state
    s.setLaunch jn { l with dispatched := l.dispatched + n, state := st }
  | none => s

/-- Teams `i` of a co-resident launch from `lin` on, each given the first core that fits; none when one does not (R234). -/
def State.startAll (s : State) (jn : Nat) (h : Header) (cores : List Nat) (lin : Nat) : Nat → Option State
  | 0 => some s
  | n + 1 =>
    match s.fitIn h [] cores with
    | some (c, f) => (s.startTeam jn lin c f).startAll jn h cores (lin + 1) n
    | none => none

/-- Every core in the order (die, cluster, core). -/
def allCores : List Nat := List.range Config.cores

/-- The module with no resident work. -/
def State.bare (s : State) : State := { s with teams := [], groups := [], lanes := [], runs := [], copies := [], pend := [] }

/-- Whether a launch could ever start on the module with no resident work: a team of it, or all of a co-resident launch
(R227). -/
def State.couldStart (s : State) (jn : Nat) (l : Launch) : Bool :=
  let e := { s.bare with launches := s.launches.set jn l }
  if l.hdr.coRes then l.record.total ≤ 16 * Config.cores && (e.startAll jn l.hdr allCores 0 l.record.total).isSome
  else (e.fitIn l.hdr [] allCores).isSome

end Sys2Proof.Machine
end

