-- ==== Sys2Proof/Machine/Runev.lean ====
section
/-! DEFINITION. The events of runs, copies, pending operations and waits: the escapement, steps, chunks, completions, sleeps,
barrier waits, the watchdog, and a word that is no instruction (R44, R60, R125 to R137, R144, R170, R222, R223, R255, R260 to
R263). -/

namespace Sys2Proof.Machine

/-- PAIR_GRANT (R127). -/
def execPairGrant (core : Nat) (s : State) : Out := ok (s.pairGrant core)

/-- LEASE_EXPIRY (R128). -/
def execLeaseExpiry (core : Nat) (s : State) : Out := ok (s.leaseExpiry core)

/-- MATRIX_STEP (R125, R131). -/
def execMatrixStep (core : Nat) (s : State) : Out := ok (s.matrixStep core)

/-- ATTN_BLOCK (R134, R136). -/
def execAttnBlock (run : Nat) (s : State) : Out := ok (s.attnBlock run)

/-- ACC_RUN (R137). -/
def execAccRun (run : Nat) (s : State) : Out := ok (s.accRun run)

/-- What a copy's event leaves of the image of its team, where that is SAVED: a chunk that lands then is recorded in it (R224, R318). -/
def State.copyImage (s : State) (copy : Nat) (t : State) : State :=
  match s.copy copy with
  | some c => t.inImage c.team
  | none => t

/-- COPY_CHUNK (R222). -/
def execCopyChunk (copy chunk : Nat) (s : State) : Out := ok (s.copyImage copy (s.copyChunk copy chunk))

/-- COPY_FAILURE (R223). -/
def execCopyFailure (copy : Nat) (s : State) : Out := ok (s.copyImage copy (s.copyFail copy))

/-- A lane's wait ends, and it goes on. -/
def State.release (s : State) (L : LaneId) (n : Next) : State :=
  (s.setLane L { s.lane L with wait := .none }).goTo L n

/-- The end of a word that its lane was held at by TE: trap 7, or the writes, and the lane goes on (R169). -/
def State.endHold (s : State) (p : Pend) : State :=
  let L : LaneId := ⟨p.team, p.group, p.lane⟩
  let l := s.lane L
  match p.trap, l.wait with
  | some v, _ => s.takeTrap L 7 v l.hdr l.k
  | none, .te n => (s.writes L p.writes).release L n
  | none, _ => s

/-- A distribution or window word completes: its writes, then its flags (R86, R144, R170). Of a lane that is gone nothing
remains to write. A word that TE holds is performed when its team is restored, on the source values that were recorded (R180). -/
def State.complete (s : State) (id : Nat) (window : Bool) : State :=
  match s.pend.find? (fun p => p.id = id && p.window = window) with
  | none => s
  | some p =>
    if p.te && (s.team p.team).phase.holds then s
    else
      let s := { s with pend := s.pend.filter (fun q => q.id ≠ id) }
      let L : LaneId := ⟨p.team, p.group, p.lane⟩
      if !s.receives L then s
      else if p.te then s.endHold p
      else (s.writes L p.writes).mergeFlags L p.dflags p.pflags

/-- DIST_COMPLETION (R144). -/
def execDistCompletion (pend : Nat) (s : State) : Out := ok (s.complete pend false)

/-- WINDOW_COMPLETION (R170). -/
def execWindowCompletion (pend : Nat) (s : State) : Out := ok (s.complete pend true)

/-! ### Waits of lanes (R255, R260) -/

/-- SLEEP_EXPIRY (R255). -/
def execSleepExpiry (team group lane : Nat) (s : State) : Out :=
  let L : LaneId := ⟨team, group, lane⟩
  ok (match (s.lane L).wait with
    | .sleep till n => if till ≤ s.clock && s.mayIssue team group then s.release L n else s
    | _ => s)

/-- What one check of a barrier wait finds: an unrepairable address with its reason, or whether the generation differs,
with the state and the timestamp of the load. -/
inductive Check where
  | bad (reason : Nat)
  | seen (differs : Bool) (s : State) (ts : Nat)

/-- The load of the object by BWAIT and BWAITT (R257, R260). -/
def State.checkBarrier (s : State) (L : LaneId) (addr : D64) (token : Nat) : Check :=
  let t := s.team L.team
  if !(vspace addr = .own || vspace addr = .cluster) || addr.toNat % 16 ≠ 0 then .bad 7
  else match s.place L.team t.key t.core addr 16 with
    | .bytes l =>
      let p := max (s.lane L).pts (s.core t.core).least
      let r := s.barrierAt l p .test
      .seen (r.2.1.gen ≠ token % 16) r.1 r.2.2
    | .bad r => .bad r
    | _ => .bad 1

/-- The access of a check by BWAIT or, with a predicate, by BWAITT, for its incident record: the lane's own load (R258, R260). -/
def State.waitAccess (s : State) (L : LaneId) (addr : D64) (pd : Option Nat) : Access :=
  let t := s.team L.team
  { id := s.nextId, key := t.key, jn := t.jn, team := L.team, group := L.group, lanes := [L.lane], core := t.core, kind := 9,
    op := .bar 0 .test, va := addr, size := 16, major := 18, fn := if pd.isSome then 4 else 3, ctl := 0, stage := .core, page := 0, locs := [],
    home := 0, port := 0, seq := 0, cause := 0, bytes := [], ts := 0, poison := false }

/-- Whether a lane's check may be made: its group runs, and the accesses after which it stands are performed (R182, R254). -/
def State.mayCheck (s : State) (L : LaneId) : Bool :=
  s.mayIssue L.team L.group && (s.standing L).isEmpty

/-- A lane released by a new generation: it has observed the completing update (R193, R260). -/
def State.observe (s : State) (L : LaneId) (ts : Nat) (ws : List RegW) (n : Next) : State :=
  let s := s.setLane L { s.lane L with pts := max (s.lane L).pts ts }
  ({ s.writes L ws with maxTs := max s.maxTs ts }).release L n

/-- One check of a barrier wait; `pd` is BWAITT's predicate, and `late` says that its deadline has come. -/
def State.tryBarrier (s : State) (L : LaneId) (addr : D64) (token : Nat) (pd : Option Nat) (late : Bool) (n : Next) : State :=
  match s.checkBarrier L addr token with
  | .bad r => s.unrepairable (s.waitAccess L addr pd) r
  | .seen true s' ts => s'.observe L ts (match pd with | some p => [.p p true] | none => []) n
  | .seen false _ _ =>
    match pd, late with
    | some p, true => (s.write L (.p p false)).release L n
    | _, _ => s

/-- BWAIT_RELEASE (R260): a check of a waiting lane. -/
def execBwaitRelease (team group lane : Nat) (s : State) : Out :=
  let L : LaneId := ⟨team, group, lane⟩
  ok (if !s.mayCheck L then s
    else match (s.lane L).wait with
      | .barrier a k n => s.tryBarrier L a k none false n
      | .timed a k _ p n => s.tryBarrier L a k (some p) false n
      | _ => s)

/-- BWAITT_DEADLINE (R260): the generation is tested before the deadline. -/
def execBwaittDeadline (team group lane : Nat) (s : State) : Out :=
  let L : LaneId := ⟨team, group, lane⟩
  ok (if !s.mayCheck L then s
    else match (s.lane L).wait with
      | .timed a k till p n => if till ≤ s.clock then s.tryBarrier L a k (some p) true n else s
      | _ => s)

/-! ### The watchdog (R262, R263, R348) -/

/-- Whether the watchdog fires on an object. -/
def Barrier.overdue (b : Barrier) (clock : Nat) : Bool :=
  b.a && b.e ≠ 0 && 2 ^ b.e + 1 ≤ (clock / 1024 % 2 ^ 16 + 2 ^ 16 - b.stamp) % 2 ^ 16

/-- The groups of a team with a lane in BWAIT or BWAITT on the barrier at a location. -/
def State.waitersOn (s : State) (t l : Nat) : Nat :=
  let tm := s.team t
  let on := fun (a : D64) => s.place t tm.key tm.core a 16 = .bytes l
  maskOf ((List.range (s.hdr t).groups).filter (fun g => (s.liveLanes t g).any (fun i =>
    match (s.lane ⟨t, g, i⟩).wait with
    | .barrier a _ _ => on a
    | .timed a _ _ _ _ => on a
    | _ => false)))

/-- The kind-9 record. -/
def State.record9 (s : State) (t : Nat) (va : D64) (b : Barrier) : List Byte :=
  let tm := s.team t
  let x := ofLe b.bytes
  record64 [(0, 1, 9), (1, 1, tm.key), (4, 4, s.coreOf t), (8, 8, va.toNat), (0x10, 16, x), (0x20, 8, s.clock),
    (0x28, 4, match s.launches.find tm.jn with | some l => l.record.tag.toNat | none => 0), (0x2C, 4, tm.lin),
    (0x30, 8, s.waitersOn t (loc .scratch t (va.toNat % 2 ^ 48))), (0x38, 2, tm.lin / 2 ^ 32)]

/-- One watched barrier judged by one access at its home. -/
def State.watchOne (s : State) (t : Nat) (va : D64) : State :=
  if (s.teams.find t).isNone then s
  else
    let l := loc .scratch t (va.toNat % 2 ^ 48)
    let r := s.fetchBytes 0 l 16
    let b := Barrier.of r.1
    if !b.overdue s.clock then s
    else
      let w := { b with w := true }
      let h := r.2.homeWrite none 0 0 l 16 (some w.bytes)
      h.1.incident (s.team t).key 3 (h.1.record9 t va w)

/-- Whether a team is resident in the sense of R262 and R318: its image is neither written nor read back. -/
def Phase.home : Phase → Bool
  | .resident | .named | .halting | .saving => true
  | .saved | .restoring _ => false

/-- WATCHDOG_CHECK (R262): once in each 1,024-cycle unit, every entry of every resident team of the core. -/
def execWatchdogCheck (core : Nat) (s : State) : Out :=
  let c := s.core core
  ok (if s.clock / 1024 ≤ c.checked || !s.coreOn core then s
    else
      let ts := s.teams.filter (fun e => e.2.core = core && e.2.phase.home && s.teamLive e.1)
      (ts.flatMap (fun e => (s.watch.get [] e.1).map (fun a => (e.1, a)))).foldl (fun s x => s.watchOne x.1 x.2)
        (s.setCore core { c with checked := s.clock / 1024 }))

/-! ### A clause that is faulty, or a word that is no instruction (R44, R60, R64) -/

/-- TVAL of an illegal clause (R62). -/
def clauseTval (reason idx : Nat) (w : W32) : D64 := BitVec.ofNat 64 (w.toNat + idx * 2 ^ 32 + reason * 2 ^ 36)

/-- ILLEGAL_INSTRUCTION (R44, R60), for the lanes of the issue opportunity. A handler clause that is no header ends the
context (R64); its record has the time of the trap, at which the lane went there. -/
def execIllegalInstruction (s : State) : Out :=
  let t := s.sel.team
  let L := s.sel.lane (s.sel.lanes.headD 0)
  let l := s.lane L
  ok (match s.clauseAtFault t l with
    | some (8, _, _) => s.incident (s.team t).key 3 (s.record24At l.since L 2 l.tcause.toNat l.tpc l.tval)
    | some (r, i, w) => s.sel.lanes.foldl (fun s x => s.takeTrap (s.sel.lane x) 2 (clauseTval r i w) s.sel.hdr 0) s
    | none => s.trapAll 1 (s.sel.word.zeroExtend 64))

end Sys2Proof.Machine
end

