-- ==== Sys2Proof/Machine/Launchev.lean ====
section
/-! DEFINITION. The events of launching: doorbells, acceptance, dispatch, starts, forager donation, pre-emption, save and
restore, completion (R225 to R237, R264, R283, R312 to R320, R323, R351, R354). An event that is not enabled changes
nothing. -/

namespace Sys2Proof.Machine

/-- Whether the launch unit and the schedulers work: the module is ready and the compute clocks run (R366, R367). -/
def State.working (s : State) : Bool := s.board.state = .ready && !s.board.clocksOff && s.board.powered

/-! ### Queues and acceptance (R225 to R227) -/

/-- The backlog of a queue (R225). -/
def Queue.backlog (q : Queue) : Nat := (q.wr - q.rd).toNat

/-- DOORBELL (R225): a write that breaks the backlog limit, or for a disabled queue, is dropped. -/
def execDoorbell (q : Nat) (w : W32) (s : State) : Out :=
  let x := s.queues.get Queue.idle q
  ok (if x.enable && (w - x.rd).toNat ≤ 2 ^ x.size && s.board.link = .up then
      { s with queues := s.queues.set q { x with wr := w } }
    else s)

/-- What the launch unit's reads of a launch come to; a read that stops is given with its address and size. -/
inductive UnitRead where
  | ok (b : List Byte) (s : State) (ts : Nat)
  | stop (l : Look) (va : D64) (n : Nat)

/-- A read of the launch unit that has been performed, and waits for the acceptance that made it. -/
def State.unitDone (s : State) (q : Nat) (va : D64) (n : Nat) : Option Access :=
  s.accs.find? (fun a => a.op = .accept q && a.va = va && a.size = n && a.performed)

/-- Bytes read for a context by the launch unit, at most 64 at a time (R227, R287). What a peer or a host link that is not up has to
answer is read by an access in flight, and stops the acceptance until then (R275, R309). -/
def State.unitRead (s : State) (key cl q : Nat) (va : D64) (n ts : Nat) : UnitRead :=
  (cutAt 64 va.toNat n).foldl (fun (acc : UnitRead) g =>
    match acc with
    | .stop l a k => .stop l a k
    | .ok b s ts =>
      let a := va + BitVec.ofNat 64 g.1
      if vspace a ≠ .ordinary then .stop (.bad 0) a g.2
      else match s.unitDone q a g.2 with
      | some x => if x.poison then .stop (.bad 4) a g.2 else .ok (b ++ x.bytes) s (max ts x.ts)
      | none =>
        match s.look key cl (.accept q) false a g.2 [(0, g.2)] with
        | .ok locs home port =>
          match locs with
          | x :: _ =>
            if home = 2 || s.linkAway x.1 then .stop (.ok locs home port) a g.2
            else
              let r := s.homeRead none (s.drawOf key) ts x.1 x.2
              .ok (b ++ r.2.1) r.1 r.2.2
          | [] => .stop (.bad 0) a g.2
        | l => .stop l a g.2) (.ok [] s ts)

/-- The reads chained: what one gives the next may depend on. -/
def UnitRead.bind (r : UnitRead) (f : List Byte → State → Nat → UnitRead) : UnitRead :=
  match r with
  | .ok b s ts => f b s ts
  | .stop l a k => .stop l a k

/-- The words at instruction offsets from the first clause, 4 bytes each. -/
def State.unitWords (s : State) (key cl q : Nat) (first : D64) (offs : List Nat) (ts : Nat) : UnitRead :=
  offs.foldl (fun (acc : UnitRead) o => acc.bind (fun b s ts =>
    (s.unitRead key cl q (first + BitVec.ofNat 64 (4 * o)) 4 ts).bind (fun c s ts => .ok (b ++ c) s ts))) (.ok [] s ts)

/-- The cluster at which the launch unit's reads are translated: that of the first enabled core. -/
def State.unitCluster (s : State) : Nat := s.clustersOn.headD 0

/-- How an acceptance goes. -/
inductive Verdict3 where
  | reject (r : Record) (s : State) (ts : Nat)
  | accept (l : Launch) (s : State)
  | stop (l : Look) (va : D64) (n : Nat)

/-- The checks of the patch table (R35). -/
def patchesOk (es : List (Option (Nat × Nat × Bool))) (words : List W32) (plen : Nat) : Bool :=
  es.all (fun e => match e with | some (_, p, _) => p + 4 ≤ plen | none => false) && words.all patchable &&
    (nub (es.filterMap (fun e => e.map (·.1)))).length = es.length

/-- The patched halves of R36, by instruction word. -/
def patchHalves (es : List (Option (Nat × Nat × Bool))) (params : List Byte) : List (Nat × H16) :=
  es.filterMap (fun e => e.map (fun x =>
    (x.1, BitVec.ofNat 16 (leAt params x.2.1 4 / (if x.2.2 then 65536 else 1)))))

/-- A record without fields, for a record that could not be read. -/
def Record.none : Record := ⟨0, 0, 0, 0, 0, 0, 0, 0, false, 0⟩

/-- Steps 1 and 2 of R227, for the record at the head of queue `q` of a context: every read, then every check. -/
def State.judge (s : State) (q : Nat) (x : Queue) (c : Ctx) : Verdict3 :=
  let cl := s.unitCluster
  let ra := x.base + BitVec.ofNat 64 (64 * (x.rd.toNat % 2 ^ x.size))
  match s.unitRead c.key cl q ra 64 s.maxTs with
  | .stop (.bad _) _ _ => .reject Record.none s s.maxTs
  | .stop l a k => .stop l a k
  | .ok rb s ts =>
    let r := recordOf rb
    let rej := { r with status := if r.statusOk then r.status else 0 }
    if !recordOk rb then .reject rej s ts
    else match s.unitRead c.key cl q r.kernel 64 ts with
      | .stop (.bad _) _ _ => .reject rej s ts
      | .stop l a k => .stop l a k
      | .ok hb s ts =>
        let h := headerOf hb
        if !headerOk hb then .reject rej s ts
        else
          let first := r.kernel + BitVec.ofNat 64 h.first
          let reads :=
            (s.unitRead c.key cl q (r.kernel + BitVec.ofNat 64 h.patchOff) (8 * h.patches) ts).bind (fun pt s ts =>
              (s.unitRead c.key cl q r.paddr r.plen ts).bind (fun pb s ts =>
                let es := (List.range h.patches).map (fun i => patchEntry (leAt pt (8 * i) 8))
                (s.unitWords c.key cl q first (0 :: es.filterMap (fun e => e.map (·.1))) ts).bind (fun ws s ts =>
                  .ok (pt ++ pb ++ ws) s ts)))
          match reads with
          | .stop (.bad _) _ _ => .reject rej s ts
          | .stop l a k => .stop l a k
          | .ok b s ts =>
            let es := (List.range h.patches).map (fun i => patchEntry (leAt b (8 * i) 8))
            let pb := (b.drop (8 * h.patches)).take r.plen
            let ws := (words4 (b.drop (8 * h.patches + r.plen))).map (fun w => BitVec.ofNat 32 w)
            let l : Launch := { key := c.key, queue := q, index := x.rd.toNat, record := r, hdr := h,
                                patch := patchHalves es pb, snap := s.view, keys := s.lineKey, root := c.root, ts := ts, dispatched := 0,
                                state := .accepted, draw := c.draw }
            if isHeader (ws.headD 0) && patchesOk es (ws.drop 1) r.plen && s.couldStart s.launches.length l then .accept l s
            else .reject rej s ts

/-- A journal entry for a record, and the read index moved on (R227, R323). What was read for it is used up. -/
def State.journal (s : State) (q : Nat) (x : Queue) (l : Launch) : State :=
  { s.setLaunch s.launches.length l with queues := s.queues.set q { x with rd := x.rd + 1 }, maxTs := max s.maxTs l.ts,
                                         accs := s.accs.filter (fun a => a.op ≠ .accept q) }

/-- The launch unit's read of `n` bytes as an access that parks, or waits for the host or a peer (R287, R289). -/
def State.unitAccess (s : State) (q key : Nat) (va : D64) (n : Nat) (stage : Stage) : Access :=
  { id := s.nextId, key := key, jn := 0, team := 0, group := 255, lanes := [], core := 192 * s.unitCluster, kind := 6,
    op := .accept q, va := va, size := n, major := 0, fn := 0, ctl := 0, stage := stage, page := pageOf va, locs := [],
    home := 0, port := 0, seq := 0, cause := 0, bytes := [], ts := s.maxTs, poison := false }

/-- What an acceptance does that cannot read: its read is in flight, parks, waits for the host, or ends the context. -/
def State.unitStop (s : State) (q key : Nat) (l : Look) (va : D64) (n : Nat) : State :=
  let add := fun (a : Access) => { s with nextId := s.nextId + 1, accs := s.accs ++ [a] }
  match l with
  | .ok locs home port => add { s.unitAccess q key va n .ready with locs := locs, home := home, port := port }
  | .park cause page =>
    let a := s.unitAccess q key va n .core
    (add a).park a cause page
  | .ats _ => add (s.unitAccess q key va n .ats)
  | .noPasid page => s.incident key 3 (s.record17 key s.unitCluster page 4 1)
  | .linkLost => s.endContext key 5
  | _ => s

/-- LAUNCH_ACCEPTANCE (R227): the queue is enabled, has a backlog, and holds fewer than 64 records without a terminal
status. -/
def execLaunchAcceptance (q : Nat) (s : State) : Out :=
  let x := s.queues.get Queue.idle q
  let open0 := (s.launches.filter (fun e => e.2.queue = q && !e.2.state.over)).length
  ok (if !s.working || !x.enable || x.backlog = 0 || 64 ≤ open0 ||
        s.accs.any (fun a => a.op = .accept q && !a.performed) then s
    else match s.ctx x.owner with
      | none => s
      | some c =>
        match s.judge q x c with
        | .accept l s' => s'.journal q x l
        | .reject r s' ts =>
          let l : Launch := { key := c.key, queue := q, index := x.rd.toNat, record := r, hdr := Header.none, patch := [],
                              snap := [], keys := [], root := 0, ts := ts, dispatched := 0, state := .accepted,
                              draw := c.draw }
          (s'.journal q x l).terminate s'.launches.length 2
        | .stop l va n => s.unitStop q c.key l va n)

/-- What the launch unit makes of a record that LAUNCH read: its answer, and the state with the record in the queue where it is
taken. The queue is disabled or another context's (2), or full (1) (R264). -/
def State.takeRecord (s : State) (a : Access) (q : Nat) : Nat × W32 × State :=
  let x := s.queues.get Queue.idle q
  if !x.enable || x.owner ≠ a.key then (2, 0, s)
  else if x.backlog = 2 ^ x.size then (1, 0, s)
  else match s.ctx a.key with
    | some c =>
      let s := s.ctxStore c (x.base + BitVec.ofNat 64 (64 * (x.wr.toNat % 2 ^ x.size))) a.bytes
      (0, x.wr, { s with queues := s.queues.set q { x with wr := x.wr + 1 } })
    | none => (2, 0, s)

/-- The answer of LAUNCH written, and its lane goes on (R264); while the team is away it is held (R318), and the lane goes on when
the team resumes. -/
def State.answerLaunch (s : State) (a : Access) (d : Nat) (x : Nat × W32) : State :=
  let L : LaneId := ⟨a.team, a.group, a.lanes.headD 0⟩
  if s.holds a.team a.group then s.deliver { a with op := .ld d false, bytes := leBytes 4 x.1 ++ leBytes 4 x.2.toNat }
  else if !s.receives L then s
  else
    let s := s.writes L [.v d (BitVec.ofNat 32 x.1), .v (d + 1) x.2]
    match (s.lane L).wait with
    | .launch n => s.release L n
    | _ => s

/-- LAUNCH_RECORD_READ (R264): the launch unit's decision for one lane, in lane order. -/
def execLaunchRecordRead (acc : Nat) (s : State) : Out :=
  ok (match s.acc acc with
    | none => s
    | some a =>
      match a.op, a.stage with
      | .launch d q, .done =>
        if s.behindLane a then s
        else
          let r := s.takeRecord a q
          (r.2.2.dropAcc acc).answerLaunch a d (r.1, r.2.1)
      | _, _ => s)

/-! ### Dispatch and starts (R229 to R235) -/

/-- The head record of a queue (R231). -/
def State.headOf (s : State) (q : Nat) : Option (Nat × Launch) :=
  minBy (fun e => e.1) (s.launches.filter (fun e => e.2.queue = q && !e.2.state.over && e.2.dispatched < e.2.record.total))

/-- Whether a record holds back later, dependent ones of its queue no longer (R229): its status word is written, where it has one, and it is
terminal. A word that was never stored binds nothing after the end of the context that it was accepted for (log entry 12). -/
def State.settled (s : State) (l : Launch) : Bool :=
  match l.state with
  | .written _ => true
  | .terminal _ => (match s.ctx l.key with | some c => c.draw ≠ l.draw | none => true)
  | _ => false

/-- Whether R229 admits a launch: it is not dependent, or every earlier record of its queue has its status written. -/
def State.admits (s : State) (jn : Nat) (l : Launch) : Bool :=
  !l.record.dep || s.launches.all (fun e => e.2.queue ≠ l.queue || jn ≤ e.1 || s.settled e.2)

/-- Whether CKPT holds a context (R354, R370). -/
def State.ctxHeld (s : State) (key : Nat) : Bool := match s.ctx key with | some c => c.held | none => true

/-- Whether a co-resident launch waits to start, and whether one waits to be restored (R234, R237). -/
def State.coWaits (s : State) (jn : Nat) (l : Launch) : Bool :=
  l.hdr.coRes && !l.state.over && !s.ctxHeld l.key && s.admits jn l &&
    (match s.headOf l.queue with | some (j, _) => j = jn && l.dispatched = 0 | none => false)
def State.coSaved (s : State) (jn : Nat) (l : Launch) : Bool :=
  l.hdr.coRes && !l.state.over && !s.ctxHeld l.key && s.teams.any (fun e => e.2.jn = jn && e.2.phase = .saved) &&
    s.teams.all (fun e => e.2.jn ≠ jn || e.2.phase = .saved || !s.teamLive e.1)

/-- The waiting co-resident launch that holds the right of R235: the highest priority, the first accepted. -/
def State.coTop (s : State) : Option (Nat × Launch) :=
  minBy (fun e => (7 - e.2.record.prio) * 2 ^ 64 + e.1)
    (s.launches.filter (fun e => s.coWaits e.1 e.2 || s.coSaved e.1 e.2))

/-- Whether R235 holds back a launch. -/
def State.heldByCo (s : State) (l : Launch) : Bool :=
  match s.coTop with
  | some (_, c) => l.record.prio ≤ c.record.prio
  | none => false

/-- Whether a queue is ready, with its head record (R231). -/
def State.readyHead (s : State) (q : Nat) : Option (Nat × Launch) :=
  match s.headOf q with
  | some (jn, l) => if s.admits jn l && !l.hdr.coRes && !s.heldByCo l then some (jn, l) else none
  | none => none

/-- The enabled cluster with the fewest unstarted TCBs and a free place (R232). -/
def State.dispatchTo (s : State) : Option Nat :=
  minBy (fun c => (s.cluster c).tcbs.length) (s.clustersOn.filter (fun c => (s.cluster c).tcbs.length < 512))

/-- TCB_DISPATCH (R231, R232). -/
def execTcbDispatch (s : State) : Out :=
  let heads := (List.range 64).filterMap (fun q => (s.readyHead q).map (fun e => (q, e.1, e.2)))
  let top := heads.foldl (fun (m : Nat) x => max m x.2.2.record.prio) 0
  let level := heads.filter (fun x => x.2.2.record.prio = top)
  let ptr := s.levels.get 0 top
  ok (if !s.working then s
    else match minBy (fun x => (x.1 + 64 - ptr) % 64) level, s.dispatchTo with
      | some (q, jn, l), some c =>
        let k := s.cluster c
        let s := s.setCluster c { k with tcbs := k.tcbs ++ [(jn, l.dispatched)] }
        { s.countTeams jn 1 with levels := s.levels.set top ((q + 1) % 64) }
      | _, _ => s)

/-- The priority of a launch. -/
def State.prioOf (s : State) (jn : Nat) : Nat := match s.launches.find jn with | some l => l.record.prio | none => 0

/-- Start order (R233): priority descending, then acceptance order, then linear index. -/
def State.earlier (s : State) (a b : Nat × Nat) : Bool :=
  s.prioOf b.1 < s.prioOf a.1 || (s.prioOf a.1 = s.prioOf b.1 && (a.1 < b.1 || (a.1 = b.1 && a.2 < b.2)))

/-- The unstarted TCBs of a cluster that nothing holds back, in start order. -/
def State.startOrder (s : State) (cluster : Nat) : List (Nat × Nat) :=
  sortBy s.earlier ((s.cluster cluster).tcbs.filter (fun t => match s.launches.find t.1 with
    | some l => !s.ctxHeld l.key && !s.heldByCo l
    | none => false))

/-- Whether a saved team may be restored by itself: its launch is not co-resident, or the failure of a core has saved it alone, while
other teams of its launch are resident and none is on its way (R237, R324). -/
def State.restoresAlone (s : State) (t : Nat) : Bool :=
  !(s.hdr t).coRes ||
    (let of := s.teams.filter (fun e => e.2.jn = (s.team t).jn && s.teamLive e.1)
     of.any (fun e => e.2.phase = .resident) && of.all (fun e => e.2.phase = .resident || e.2.phase = .saved))

/-- The saved teams of a cluster that may be restored by themselves, in start order. -/
def State.savedOrder (s : State) (cluster : Nat) : List Nat :=
  (sortBy (fun (a b : Nat × Team) => s.earlier (a.2.jn, a.2.lin) (b.2.jn, b.2.lin)) (s.teams.filter (fun e =>
    e.2.phase = .saved && clusterOf e.2.core = cluster && !s.ctxHeld e.2.key && s.restoresAlone e.1))).map (fun e => e.1)

/-- The first of a cluster's start order: a saved team stands before unstarted ones of its priority. -/
inductive First where
  | none
  | team (t : Nat)
  | tcb (jn lin : Nat)
  deriving DecidableEq, Repr

def State.firstOf (s : State) (cluster : Nat) : First :=
  match s.savedOrder cluster, s.startOrder cluster with
  | [], [] => .none
  | t :: _, [] => .team t
  | [], x :: _ => .tcb x.1 x.2
  | t :: _, x :: _ => if s.prioOf x.1 ≤ s.prioOf (s.team t).jn then .team t else .tcb x.1 x.2

/-- TEAM_START (R233). -/
def execTeamStart (cluster : Nat) (s : State) : Out :=
  ok (match s.firstOf cluster with
    | .tcb jn lin =>
      match s.launches.find jn with
      | none => s
      | some l =>
        match s.fitIn l.hdr [] (coresOf cluster) with
        | some (core, f) =>
          let k := s.cluster cluster
          if s.working then (s.setCluster cluster { k with tcbs := k.tcbs.filter (· ≠ (jn, lin)) }).startTeam jn lin core f else s
        | none => s
    | _ => s)

/-- CO_RESIDENT_START (R234): every team at once, or none. -/
def execCoResidentStart (s : State) : Out :=
  ok (match s.coTop with
    | some (jn, l) =>
      if s.working && s.coWaits jn l then
        match s.startAll jn l.hdr allCores 0 l.record.total with
        | some s' => s'.countTeams jn l.record.total
        | none => s
      else s
    | none => s)

/-! ### Forager donation (R236) -/

/-- The other clusters in the order in which a cluster asks them. -/
def victims (cluster : Nat) : List Nat :=
  let die := cluster / 4
  let own := (List.range 3).map (fun i => 4 * die + (cluster % 4 + i + 1) % 4)
  own ++ ((List.range 15).map (fun i => (cluster + i + 1) % 16)).filter (fun c => c / 4 ≠ die)

/-- What a victim ships (R236): half of the TCBs of its first launch in start order, the last ones; none of a co-resident launch. -/
def State.shipment (s : State) (victim : Nat) : List (Nat × Nat) :=
  let alone := fun (t : Nat × Nat) => match s.launches.find t.1 with | some l => !l.hdr.coRes | none => true
  let order := sortBy s.earlier ((s.cluster victim).tcbs.filter alone)
  match order with
  | [] => []
  | x :: _ =>
    let mine := order.filter (fun t => t.1 = x.1)
    mine.drop (mine.length - max 1 (mine.length / 2))

/-- Whether a core has a free team slot. -/
def State.freeSlot (s : State) (core : Nat) : Bool := s.coreOn core && (s.teamsOn core []).length < 16

/-- FORAGER_REQUEST (R236): the next victim of the round is asked; it ships at once what it gives. A round that the arrival of a TCB
interrupts goes on later with the victim that comes next, which R236 does not say (log entry 107). -/
def execForagerRequest (cluster : Nat) (s : State) : Out :=
  let k := s.cluster cluster
  ok (if !s.working || k.asking.isSome || !k.tcbs.isEmpty || s.clock < k.retryAt || !((coresOf cluster).any s.freeSlot) then s
    else match (victims cluster)[k.round]? with
      | none => s
      | some v =>
        let give := s.shipment v
        let kv := s.cluster v
        (s.setCluster v { kv with tcbs := kv.tcbs.filter (fun t => !(give.contains t)) }).setCluster cluster
          { k with asking := some v, shipped := give })

/-- FORAGER_ANSWER (R236): the shipment arrives, or the next victim is asked; after a round of empty answers the cluster
waits 1,024 cycles. -/
def execForagerAnswer (cluster : Nat) (s : State) : Out :=
  let k := s.cluster cluster
  ok (match k.asking with
    | none => s
    | some _ =>
      if !k.shipped.isEmpty then
        s.setCluster cluster { k with tcbs := k.tcbs ++ k.shipped, shipped := [], asking := none, round := 0 }
      else if k.round + 1 < (victims cluster).length then s.setCluster cluster { k with asking := none, round := k.round + 1 }
      else s.setCluster cluster { k with asking := none, round := 0, retryAt := s.clock + 1024 })

/-! ### Pre-emption (R237, R244, R312) -/

/-- Teams that a pre-emption has been asked of: they are on their way out. -/
def State.leaving (s : State) : List Nat :=
  (s.teams.filter (fun e => e.2.phase = .named || e.2.phase = .halting || e.2.phase = .saving ||
    e.2.phase = .restoring true)).map (fun e => e.1)

/-- The eligible victims for a priority on a list of clusters, in the order of R237. -/
def State.victimTeams (s : State) (prio : Nat) (clusters : List Nat) : List Nat :=
  let es := s.teams.filter (fun e => e.2.phase = .resident && s.teamLive e.1 && clusters.contains (clusterOf e.2.core) &&
    s.prioOf e.2.jn < prio && e.2.since + 50000 ≤ s.clock)
  (sortBy (fun (a b : Nat × Team) =>
    let pa := s.prioOf a.2.jn
    let pb := s.prioOf b.2.jn
    pa < pb || (pa = pb && (b.2.since < a.2.since || (a.2.since = b.2.since &&
      (b.2.core < a.2.core || (b.2.core = a.2.core && b.2.slot < a.2.slot)))))) es).map (fun e => e.1)

/-- A victim with what it brings along: every team of a co-resident launch that has not ended, one that is RESTORING among them, which
the request reaches when it has resumed (R237, R246, R320). -/
def State.broughtBy (s : State) (t : Nat) : List Nat :=
  if (s.hdr t).coRes then
    (s.teams.filter (fun e => e.2.jn = (s.team t).jn && (e.2.phase = .resident || e.2.phase = .restoring false) &&
      s.teamLive e.1)).map (fun e => e.1)
  else [t]

/-- The victims taken in order until the test holds; none when all of them would not do. -/
def takeUntil (more : Nat → List Nat) (enough : List Nat → Bool) : List Nat → List Nat → Option (List Nat)
  | acc, [] => if enough acc then some acc else none
  | acc, t :: ts => if enough acc then some acc else takeUntil more enough (acc ++ more t) ts

/-- A request that names a team: one that is RESTORING it reaches once the team has resumed (R312, R320). -/
def Phase.name : Phase → Phase
  | .resident => .named
  | .restoring _ => .restoring true
  | p => p

/-- Pre-emption requests made for teams (R312). -/
def State.nameTeams (s : State) (ts : List Nat) : State :=
  ts.foldl (fun s t => if (s.teams.find t).isSome then s.setTeam t { s.team t with phase := (s.team t).phase.name } else s) s

/-- Room made for a team of a header at a priority in a cluster. -/
def State.roomFor (s : State) (h : Header) (prio cluster : Nat) : State :=
  match takeUntil s.broughtBy (fun gone => (s.fitIn h gone (coresOf cluster)).isSome) s.leaving (s.victimTeams prio [cluster]) with
  | some ts => s.nameTeams ts
  | none => s

/-- The state as if teams had been saved. -/
def State.without (s : State) (ts : List Nat) : State :=
  ts.foldl (fun s t => s.setTeam t { s.team t with phase := .saved }) s

/-- PREEMPTION_REQUEST (R312, R244): the request reaches the core, and the team's lanes halt at the boundary where they
stand. -/
def execPreemptionRequest (team : Nat) (s : State) : Out :=
  ok (if (s.team team).phase = .named then s.setTeam team { s.team team with phase := .halting } else s)

/-- A team's runs leave the escapement; an attention run gives up what has arrived (R136, R141). -/
def State.stopRuns (s : State) (t : Nat) : State :=
  let core := (s.team t).core
  let co := s.core core
  let mine := fun id => s.runs.any (fun r => r.id = id && r.team = t)
  (s.setCore core { co with fifo := co.fifo.filter (fun i => !mine i), hold := co.hold.filter (fun h => !mine h.1) }).discardBlocks
    (fun r => r.team = t)

/-- The images of a team's groups that are being read back count as not read: the groups are still saved (R351). -/
def State.stopLoading (s : State) (t : Nat) : State :=
  { s with groups := s.groups.map (fun e => if e.1.1 = t then (e.1, { e.2 with loading := false }) else e) }

/-- A team is SAVING: its image names the core and the partition word of this save (R315). -/
def State.startSave (s : State) (t : Nat) : State :=
  let tm := s.team t
  ((s.stopRuns t).stopLoading t).setTeam t { tm with phase := .saving, saveCore := s.coreOf t, savePart := tm.partition }

/-- TEAM_SAVE (R313): once its pending distribution and window words are complete, but for those that TE holds, the team is SAVING,
its runs are stopped, and its image is begun; then what has been held for it is applied, the image is written, and slot and rows are
free (R315, R318). -/
def execTeamSave (team : Nat) (s : State) : Out :=
  let tm := s.team team
  ok (match tm.phase with
    | .halting =>
      if s.pend.any (fun p => p.team = team && !p.te) then s
      else (s.startSave team).writeImage team
    | .saving => ((s.applyHeld team).setTeam team { tm with phase := .saved, savedAt := s.clock }).writeImage team
    | _ => s)

/-- A wait moved on by the time that its team was saved: sleeps and deadlines count only resident time (R317). -/
def Wait.advance (d : Nat) : Wait → Wait
  | .sleep t n => .sleep (t + d) n
  | .timed a k t p n => .timed a k (t + d) p n
  | w => w

/-- The stamp of an armed, watched barrier moved on by floor(T/1024) (R262). -/
def State.moveStamp (s : State) (t d : Nat) (va : D64) : State :=
  let l := loc .scratch t (va.toNat % 2 ^ 48)
  let b := Barrier.of (s.readSegs 0 [(l, 16)])
  if b.a && b.e ≠ 0 then s.storeSegs 0 [(l, 16)] { b with stamp := (b.stamp + d / 1024) % 2 ^ 16 }.bytes else s

/-- Steps 1 to 4 of R320: a saved team gets a slot, rows and partitions on a core, and is RESTORING. Its image is loaded with what the
held-completion section holds, and its accesses go to the new core. -/
def State.reseat (s : State) (t core : Nat) (f : Fit) : State :=
  let tm := s.team t
  let s : State := s.setTeam t { tm with core := core, slot := f.slot, base := f.base, part0 := f.part0, phase := .restoring false,
                                         inst := Config.freeDraw s.fresh }
  let s : State := s.tick 1
  let s : State := { s with accs := s.accs.map (fun a => if a.team = t then { a with core := core } else a) }
  ((s.applyHeld t).seatGroups t core f.part0 (s.hdr t).groups (s.hdr t) false).writeImage t

/-- A lane of LAUNCH goes on when its answer has come meanwhile (R264). -/
def State.answered (s : State) (L : LaneId) : State :=
  match (s.lane L).wait with
  | .launch n => if (s.laneAccs L).any (fun a => match a.op with | .launch .. => true | _ => false) then s else s.release L n
  | _ => s

/-- The images of a team's groups that stay saved off-core stand beside it again, with what has reached them meanwhile (R283, R351). -/
def State.rewriteGroups (s : State) (t : Nat) : State :=
  (List.range (s.hdr t).groups).foldl (fun s g => if (s.group t g).off.isSome then s.writeGroup t g else s) s

/-- Steps 5 to 7 of R320: what is held for the team is delivered, its waits and the stamps of its watched barriers move on, its runs
rejoin at the tail in their order, and issue starts with the partitions' pointers at 0. A word that TE holds is performed again, on the
source values that were recorded: its lane waits for that (R180). A request that named the team meanwhile takes effect now. -/
def State.resumeTeam (s : State) (t : Nat) (named : Bool) : State :=
  let tm := s.team t
  let d := s.clock - tm.savedAt
  let s : State := s.applyHeld t
  let s : State := s.setTeam t { tm with phase := if named then .named else .resident, since := s.clock }
  let s : State := { s with
    lanes := s.lanes.map (fun e => if e.1.team = t then (e.1, { e.2 with wait := e.2.wait.advance d }) else e),
    mem := s.mem.forget (inTeamImage t) }
  let s : State := s.rewriteGroups t
  let s : State := (s.watch.get [] t).foldl (fun s a => s.moveStamp t d a) s
  let s : State := (s.laneIds t).foldl (fun s L => s.answered L) s
  let back := (s.runs.filter (fun r => r.team = t && r.kind.paired)).map (·.id)
  s.setCore tm.core { s.core tm.core with fifo := (s.core tm.core).fifo ++ back, ptrs := [0, 0, 0, 0] }

/-- Saved teams of a co-resident launch, each given a core of the cluster that held it, in linear order (R237). -/
def State.reseatAll (s : State) (h : Header) : List Nat → Option State
  | [] => some s
  | t :: ts =>
    match s.fitIn h [] (coresOf (clusterOf (s.team t).core)) with
    | some (c, f) => (s.reseat t c f).reseatAll h ts
    | none => none

/-- The saved teams of a launch in linear order. -/
def State.savedOf (s : State) (jn : Nat) : List Nat :=
  (sortBy (fun (a b : Nat × Team) => a.2.lin < b.2.lin) (s.teams.filter (fun e => e.2.jn = jn && e.2.phase = .saved))).map (fun e => e.1)

/-- The start of a saved team's restore: a co-resident launch's teams together, any other when it is first in its cluster's start order
(R237). -/
def State.startRestore (s : State) (team : Nat) : State :=
  let tm := s.team team
  let cl := clusterOf tm.core
  let h := s.hdr team
  if !s.restoresAlone team then
    match s.coTop with
    | some (jn, _) => if jn ≠ tm.jn then s else (s.reseatAll h (s.savedOf jn)).getD s
    | none => s
  else if s.firstOf cl = .team team then
    match s.fitIn h [] (coresOf cl) with
    | some (c, f) => s.reseat team c f
    | none => s
  else s

/-- TEAM_RESTORE (R237, R320): a saved team is RESTORING, and one that is RESTORING resumes. -/
def execTeamRestore (team : Nat) (s : State) : Out :=
  ok (if !s.working then s
    else match (s.team team).phase with
      | .saved => s.startRestore team
      | .restoring named => s.resumeTeam team named
      | _ => s)

/-- Room made for the co-resident launch that waits to start or to be restored (R237): victims on any cluster, until all of its
teams fit. -/
def State.roomForCo (s : State) : State :=
  match s.coTop with
  | none => s
  | some (jn, l) =>
    let fits := fun (s : State) =>
      if s.coWaits jn l then (s.startAll jn l.hdr allCores 0 l.record.total).isSome
      else (s.reseatAll l.hdr (s.savedOf jn)).isSome
    if fits s then s
    else match takeUntil s.broughtBy (fun gone => fits (s.without gone)) s.leaving (s.victimTeams l.record.prio (List.range 16)) with
      | some ts => s.nameTeams ts
      | none => s

/-- Room made for the first team of a cluster's start order, where it fits no core (R237). -/
def State.roomForFirst (s : State) (cluster : Nat) : State :=
  let make := fun (h : Header) (prio : Nat) =>
    if (s.fitIn h [] (coresOf cluster)).isNone then s.roomFor h prio cluster else s
  match s.firstOf cluster with
  | .tcb jn _ => (match s.launches.find jn with | some l => make l.hdr l.record.prio | none => s)
  | .team t => make (s.hdr t) (s.prioOf (s.team t).jn)
  | .none => s

/-- PREEMPT_FOR_ROOM (R237): for the first team of the cluster's start order, and where that asks nothing of any team for the
co-resident launch that waits, whatever the clusters' own teams wait for. -/
def execPreemptForRoom (cluster : Nat) (s : State) : Out :=
  ok (if !s.working then s
    else if s.roomForFirst cluster = s then s.roomForCo else s.roomForFirst cluster)

/-! ### Groups saved off-core (R283, R351) -/

/-- A lane that wait bit 19 holds, or in whose team a register is empty that an unanswered SVC will fill. The step asks for R283's
exact wait before it lets OFF_CORE_SAVE happen (`State.waitsService`). -/
def State.onService (s : State) (L : LaneId) : Bool :=
  (s.lane L).wait = .none && (s.maskedAt L 8 || s.svcRegs.any (fun r => r.team = L.team && !(s.mark r).full))

/-- OFF_CORE_SAVE (R283): the time from which every live lane of the group has waited on service is noted; once it is 10,000 cycles
ago, the group is saved and its image written. An issue clears it: a lane whose wait has ended issues before it waits on service
again. -/
def execOffCoreSave (team group : Nat) (s : State) : Out :=
  let g := s.group team group
  let live := s.liveLanes team group
  ok (if s.mayIssue team group && !live.isEmpty && live.all (fun i => s.onService ⟨team, group, i⟩) then
      match g.svcSince with
      | none => s.setGroup team group { g with svcSince := some s.clock }
      | some t =>
        if t + 10000 ≤ s.clock then
          (s.setGroup team group { g with off := some s.clock, svcSince := none }).writeGroup team group
        else s
    else s)

/-- Whether a location is in the image of a group saved off-core. -/
def inGroupImage (t g a : Nat) : Bool := let at0 := loc .save t (2 ^ 32 + 2 ^ 24 * g); at0 ≤ a && a < at0 + 2 ^ 24

/-- The end of a group's restore (R351): the replies held meanwhile are delivered in their order of arrival, and the group is back on the
same core, partition and rows, with the partition's pointer at 0. -/
def State.backOnCore (s : State) (team group : Nat) : State :=
  let s := s.applyHeldIf (fun a => a.team = team && a.group = group)
  let g := s.group team group
  let core := (s.team team).core
  { (s.setGroup team group { g with off := none, loading := false, issued := s.clock }).setCore core
      { s.core core with ptrs := (s.core core).ptrs.set g.part 0 } with
    mem := s.mem.forget (inGroupImage team group) }

/-- OFF_CORE_RESTORE (R351): the restore begins, from when on replies to the group are held; then it ends. The step asks for a lane whose
wait a reply has ended before it lets one begin. -/
def execOffCoreRestore (team group : Nat) (s : State) : Out :=
  let g := s.group team group
  ok (if g.off.isNone || (s.team team).phase ≠ .resident then s
    else if g.loading then s.backOnCore team group
    else s.setGroup team group { g with loading := true })

/-! ### Completion (R228, R299, R323) -/

/-- Accesses for which no status store waits: the launch unit's own reads, and fetches. -/
def AccOp.besides : AccOp → Bool
  | .fetch _ | .accept _ => true
  | _ => false

/-- What is left of a launch: teams to start, lanes, runs, copies, pending words, or accesses that are not performed (R228). -/
def State.unfinished (s : State) (jn : Nat) (l : Launch) : Bool :=
  l.dispatched < l.record.total ||
    s.clusters.any (fun e => e.2.tcbs.any (fun t => t.1 = jn) || e.2.shipped.any (fun t => t.1 = jn)) ||
    s.teams.any (fun e => e.2.jn = jn && (s.teamLive e.1 || s.runs.any (fun r => r.team = e.1) ||
      s.copies.any (fun c => c.team = e.1) || s.pend.any (fun p => p.team = e.1))) ||
    s.accs.any (fun a => a.jn = jn && !a.performed && !a.op.besides)

/-- LAUNCH_COMPLETION (R228): DONE, once nothing of the launch is left. A launch that is TERMINAL with its status store not performed
has that store issued again (R323). -/
def execLaunchCompletion (jn : Nat) (s : State) : Out :=
  ok (match s.launches.find jn with
    | none => s
    | some l =>
      if l.state.over then s.storeStatus jn
      else if s.unfinished jn l then s
      else
        let s := s.terminate jn 1
        let ts := (s.teams.filter (fun e => e.2.jn = jn)).map (fun e => e.1)
        { s.dropTeams ts with accs := s.accs.filter (fun a => !(ts.contains a.team && a.group ≠ 255)),
                              icache := s.icache.filter (fun e => e.jn ≠ jn) })

end Sys2Proof.Machine
end

