-- ==== Sys2Proof/Machine/Boardev.lean ====
section
/-! DEFINITION. Failures of parts, links, clocks and power (R305, R309, R310, R324 to R328, R363 to R366). -/

namespace Sys2Proof.Machine

/-- The layout of the records of kinds 19 to 23 (R322). -/
def State.partRecord (s : State) (kind key at4 jn lin x y : Nat) : List Byte :=
  record64 [(0, 1, kind), (1, 1, key), (4, 4, at4), (8, 4, jn), (0x0C, 4, lin), (0x10, 4, x), (0x14, 4, y), (0x18, 8, s.clock),
    (0x20, 2, lin / 2 ^ 32)]

/-! ### Cores and Comb rows (R324, R325) -/

/-- A launch given up: its TCBs, teams and accesses are discarded. -/
def State.discardLaunch (s : State) (jn : Nat) : State :=
  let ts := (s.teams.filter (fun e => e.2.jn = jn)).map (fun e => e.1)
  { s.dropTeams ts with
    clusters := s.clusters.map (fun e => (e.1, { e.2 with tcbs := e.2.tcbs.filter (fun t => t.1 ≠ jn),
                                                          shipped := e.2.shipped.filter (fun t => t.1 ≠ jn) })),
    accs := s.accs.filter (fun a => a.group = 255 || a.jn ≠ jn) }

/-- The kind-19 record of a team lost with its core: 0 when it is run again, 1 for CORE_LOST (R322, R324). -/
def State.record19 (s : State) (t : Nat) : List Byte :=
  let tm := s.team t
  s.partRecord 19 tm.key (s.coreOf t) tm.jn tm.lin (b2n !(s.hdr t).restart) 0

/-- One team lost with its core: it is run again from its first clause, or its launch ends with CORE_LOST (R324). -/
def State.loseTeam (s : State) (t : Nat) : State :=
  if (s.teams.find t).isNone then s
  else
    let tm := s.team t
    let cl := clusterOf tm.core
    if (s.hdr t).restart then
      let s := { s.dropTeams [t] with accs := s.accs.filter (fun a => a.group = 255 || a.team ≠ t) }
      s.setCluster cl { s.cluster cl with tcbs := (s.cluster cl).tcbs ++ [(tm.jn, tm.lin)] }
    else (s.terminate tm.jn 4).discardLaunch tm.jn

/-- A team whose live groups are all saved off-core: their images are complete, so it counts as saved (R324). -/
def State.allOff (s : State) (t : Nat) : Bool :=
  s.teamLive t && (List.range (s.hdr t).groups).all (fun g => !s.groupLive t g || (s.group t g).off.isSome)

/-- A team whose groups are all off-core becomes a saved one, of this core (R315, R324). -/
def State.keepOff (s : State) (t : Nat) : State :=
  let tm := s.team t
  ((s.stopLoading t).setTeam t { tm with phase := .saved, savedAt := s.clock, saveCore := s.coreOf t, savePart := tm.partition }).writeImage t

/-- CORE_FAILURE (R324): of the teams that take room on the core, those that are not wholly off-core are lost, each with its record
before any launch ends. A team that is RESTORING there takes room and is lost like a resident one, though its image is still whole:
the manual does not say which of the two it is (log entry 67). -/
def execCoreFailure (core : Nat) (s : State) : Out :=
  ok (if !s.coreOn core then s
    else
      let here := (s.teamsOn core []).map (fun e => e.1)
      let kept := here.filter s.allOff
      let lost := here.filter (fun t => !s.allOff t)
      let s := s.setCore core { s.core core with failed := true, fifo := [], hold := none }
      let s := { s with copies1 := s.copies1.filter (fun e => e.1.1 ≠ core), icache := s.icache.filter (fun e => e.core ≠ core),
                        deleg := s.deleg.filter (fun e => e.2 ≠ core), mem := s.mem.forget (ofTeams kept) }
      let s := kept.foldl (fun s t => s.keepOff t) s
      let s := lost.foldl (fun s t => s.logRecord (s.team t).key (s.record19 t)) s
      lost.foldl (fun s t => s.loseTeam t) s)

/-- COMB_ERROR (R325): of a row that a team holds. -/
def execCombError (core row : Nat) (s : State) : Out :=
  ok (match s.teams.find? (fun e => e.2.core = core && s.occupies e.1 && e.2.base ≤ row && row < e.2.base + e.2.rows) with
    | none => s
    | some (t, tm) =>
      let s := s.incident tm.key 3 (s.partRecord 20 tm.key (s.coreOf t) tm.jn tm.lin 0 row)
      s.setCore core { s.core core with retired := (s.core core).retired ++ [row] })

/-! ### Slices (R326, R358, R359) -/

/-- The words of shared pages that a slice serves (R326). -/
def State.sharedWords (s : State) (served : Nat → Bool) : List Nat :=
  ((s.pages.filter (fun e => e.2.shared)).flatMap (fun e => (List.range 32).map (fun i => 32 * e.1 + i))).filter served |>.flatMap
    (fun line => (List.range 32).map (fun i => 32 * line + i))

/-- The dirty lines of a context that a slice has lost: those that its tags hold dirty, but for the lines that it had written back
meanwhile (R326). -/
def State.lostLines (s : State) (slice key : Nat) (clean : List Nat) : Nat :=
  ((s.l2.filter (fun e => e.1.1 = slice)).flatMap (fun e => e.2.tags.filter (fun t =>
    t.key = key && t.dirty && !clean.contains t.line))).length

/-- SLICE_FAILURE (R326): `rts` is the greatest that the slice had issued, `clean` the lines that it had written back of its own
accord. Its range goes to its heir; shared spans of it keep their wts and rts, raised; contexts with dirty lines in it end. -/
def execSliceFailure (slice rts : Nat) (clean : List Nat) (s : State) : Out :=
  let served := fun (line : Nat) => copyable (128 * line) && s.sliceNow (sliceOf (128 * line % 2 ^ 64)) = slice
  ok (if !s.sliceOn slice then s
    else
      let lost := (s.ctxs.filter (fun e => 0 < s.lostLines slice e.1 clean)).map (fun e => (e.1, s.lostLines slice e.1 clean))
      let here := s.stamps.filter (fun e => served (lineOf (4 * e.1)))
      let top := here.foldl (fun (m : Nat) e => max m e.2.rts) rts
      let heir := s.sliceHeir slice
      let moved := (List.range 2048).filter (fun n => s.sliceNow n = slice)
      let hostLines := ((s.l2.filter (fun e => e.1.1 = slice)).flatMap (fun e => e.2.tags.map (·.line))).filter
        (fun l => inSpace .host (128 * l) && s.dirtyMask l = 0)
      let s := hostLines.foldl (fun s l => s.dropClean l) s
      let s := s.mapStamps (nub (s.sharedWords served ++ here.map (·.1))) (fun x => ⟨max x.wts top, max x.rts top⟩)
      let s := { s with
        l2 := s.l2.filter (fun e => e.1.1 ≠ slice),
        floors := moved.foldl (fun (m : Tbl Nat Nat) n => m.set n (max (m.get 0 n) top)) s.floors,
        board := { s.board with sliceMap := moved.foldl (fun (m : List (Nat × Nat)) n => Tbl.set n heir m) s.board.sliceMap } }
      lost.foldl (fun s x => s.incident x.1 3 (s.partRecord 21 x.1 slice 0 0 x.2 0)) s)

/-! ### Gidon Link (R327, R364) -/

/-- A port. -/
def State.port (s : State) (p : Nat) : Port := s.ports.get Port.idle p
def State.setPort (s : State) (p : Nat) (x : Port) : State := { s with ports := s.ports.set p x }

/-- Whether an access is in flight through a port. -/
def Access.through (a : Access) (p : Nat) : Bool := a.stage = .ready && a.home = 2 && a.port = p

/-- The outcome of an access in flight at a peer reset (R327): stores are dropped, a chunk's copy fails, and what fills registers
fills them marked poisoned. Of other reads the manual says nothing: a descriptor or a launch record reads as zeros, which are no
valid ones, a key-block line as unspecified bytes, and the launch unit reads again (log entry 71). -/
def State.cutOff (s : State) (a : Access) : State :=
  match a.op with
  | .st _ | .prf | .cwb | .cinv => s.dropAcc a.id
  | .chunk c _ _ => s.markFailed c
  | .ld .. | .sld _ | .dld _ | .wld _ | .atom .. =>
    let a := { a with stage := .done, locs := [], bytes := s.freeBytes a.size, poison := true }
    ((s.tick a.size).setAcc a).deliver a
  | .tset _ | .launch .. => s.setAcc { a with stage := .done, locs := [], bytes := List.replicate 64 0 }
  | .attn .. => (s.tick a.size).setAcc { a with stage := .done, locs := [], bytes := s.freeBytes a.size }
  | .fetch _ | .accept _ => s.dropAcc a.id
  | _ => s.setAcc { a with stage := .core, locs := [], bytes := [] }

/-- Whether a copy's far side, of any chunk with bytes in bounds, is on a peer's port. -/
def State.copyOn (s : State) (c : Copy) (p : Nat) : Bool :=
  match s.ctx (s.team c.team).key, s.tile c.team c.tile with
  | some x, some y =>
    c.kind ≠ .tt && (c.chunks y.off y.bytes).any (fun h => (c.inBounds h).2 ≠ 0 &&
      match walk s.mem x.root (c.farAddr h) with
      | some t => t.home = 2 && t.port = p
      | none => false)
  | _, _ => false

/-- F set on the barriers on which copies of the peer have counted bytes of a phase that is not complete, where they still exist
and bytes are still to come (R223, R329). -/
def State.failCounted (s : State) (ls : List Nat) : State :=
  (ls.filter (fun l => (s.teams.find (scratchTeam l)).isSome && (Barrier.of (s.fetchBytes 0 l 16).1).inbound ≠ 0)).foldl (fun s l => (s.barrierAt l s.maxTs .fail).1) s

/-- PEER_RESET (R327): the accesses in flight, one kind-22 record for each context that has some, and no binding of the
port is left. Copies to and from the peer fail (R223, R329). The images of SAVED teams follow (R318). -/
def execPeerReset (port : Nat) (s : State) : Out :=
  let x := s.port port
  ok (if !x.up then s
    else
      let cut := s.accs.filter (fun a => a.through port)
      let keys := nub (cut.map (·.key))
      let count := fun (k : Nat) (f : Access → Bool) => (cut.filter (fun a => a.key = k && f a)).length
      let recs := keys.map (fun k => (k, s.partRecord 22 k port 0 0
        (count k (fun a => a.op.stores && a.kind ≠ 4)) (count k (fun a => a.kind = 0 || a.kind = 2 || a.kind = 7))))
      let hit := s.copies.filter (fun c => s.copyOn c port)
      let fail := hit.map (·.id)
      let held := hit.map (·.team)
      let s : State := cut.foldl (fun s a => s.cutOff a) s
      let s : State := fail.foldl (fun s c => s.markFailed c) s
      let s : State := recs.foldl (fun s r => s.logRecord r.1 r.2) s
      let s : State := { s with ctxs := s.ctxs.map (fun e => (e.1, { e.2 with peers := e.2.peers.filter (fun b => b.1 ≠ port) })) }
      let s := (s.failCounted x.counted).setPort port { x with up := false, replay := [], resend := [], nak := none, counted := [] }
      (nub ((cut.filter (fun a => a.group ≠ 255)).map (·.team) ++ held)).foldl (fun s t => s.inImage t) s)

/-- GIDON_PORT_RETRAIN (R327). -/
def execGidonPortRetrain (port : Nat) (s : State) : Out :=
  let x := s.port port
  ok (if x.enabled && !x.up then s.setPort port { Port.idle with enabled := true, up := true, lanes := 8 } else s)

/-- GIDON_FLIT_ERROR (R364): a flit with a bad check, for which the number that the receiver lacks stands, since its own field cannot be
relied on; or a good flit beyond a gap in the sequence. The NAK names the first number that the receiver lacks, anew for every bad
check. Until that flit comes, every other is discarded, and so is one that has come before. -/
def execGidonFlitError (port seq : Nat) (s : State) : Out :=
  let x := s.port port
  ok (if !x.up || (seq ≠ x.recvSeq && (x.nak.isSome || 2048 ≤ (seq + 4096 - x.recvSeq) % 4096)) then s
    else { s.setPort port { x with nak := some x.recvSeq } with outbox := s.outbox ++ [.nak port x.recvSeq] })

/-- Flits acknowledged by the peer: those up to a number leave the replay buffer (R364). -/
def Port.ack (x : Port) (n : Nat) : Port :=
  if x.replay.contains n then { x with replay := (x.replay.dropWhile (· ≠ n)).drop 1, acked := n } else x

/-- The flit that a port expects has come: its number is the last received, and nothing is lacking (R364). -/
def Port.took (x : Port) : Port := { x with recvSeq := (x.recvSeq + 1) % 4096, nak := none }

/-- Whether a flit passes its check (R364). -/
def Flit.good (f : Flit) : Bool :=
  f.payload.length = 224 && f.check = Config.flitCheck [f.seq, f.ack, f.channel, f.type] f.payload

/-- The flits that a port sends again, from a sequence number on. -/
def State.resendFrom (s : State) (port : Nat) (flits : List Nat) : State :=
  { s.setPort port { s.port port with resend := flits } with outbox := s.outbox ++ flits.map (fun n => .resent port n) }

/-- GIDON_NAK (R364): the sender replays in order from the named number. -/
def execGidonNak (port seq : Nat) (s : State) : Out :=
  let x := s.port port
  ok (if !x.up then s else s.resendFrom port (x.replay.dropWhile (· ≠ seq)))

/-- GIDON_LANE_FAILURE (R364): the port retrains on 4 lanes and sends again what was in flight. -/
def execGidonLaneFailure (port : Nat) (s : State) : Out :=
  let x := s.port port
  ok (if !x.up then s else (s.setPort port { x with lanes := 4 }).resendFrom port x.replay)

/-! ### Preron cores (R323, R328) -/

/-- PRERON_FAILURE (R328): the next enabled core above, wrapping, takes the failed one's rings over from its journal, and with them
those that it had taken. It goes on from each ring's journalled positions, which it advances in that ring's journal
(`State.ringOf`, `State.preronOf`). Status stores that are TERMINAL and not STATUS-WRITTEN are issued again (R323). -/
def execPreronFailure (n : Nat) (s : State) : Out :=
  ok (if s.preronsOn.contains n then
      let s : State := { s with board := { s.board with preronFailed := s.board.preronFailed ++ [n] } }
      let heir := nextFrom s.preronsOn n 64
      let p := s.preron heir
      let s := s.setPreron heir { p with taken := p.taken ++ n :: (s.preron n).taken }
      (s.launches.map (fun e => e.1)).foldl (fun s jn => s.storeStatus jn) s
    else s)

/-! ### The host link (R309, R310, R363) -/

/-- HOST_LINK_DOWN (R309). -/
def execHostLinkDown (s : State) : Out :=
  ok (if s.board.link = .up then { s with board := { s.board with link := .down s.clock } } else s)

/-- HOST_LINK_RETRAIN (R309, R363): within 10 ms, at 128, 64 or 32 GT/s and x16 or x8. -/
def execHostLinkRetrain (rate width : Nat) (s : State) : Out :=
  ok (match s.board.link with
    | .down since =>
      if s.clock < since + 10000000 && [128, 64, 32].contains rate && [16, 8].contains width then
        { s with board := { s.board with link := .up, degraded := rate ≠ 128 || width ≠ 16 } }
      else s
    | _ => s)

/-- The kind-18 records of a context's dirty host lines, three lines to a record (R310). -/
def State.records18 (s : State) (key : Nat) (lines : List (Nat × Nat × D64 × Nat)) : List (List Byte) :=
  (List.range ((lines.length + 2) / 3)).map (fun i =>
    let three := (lines.drop (3 * i)).take 3
    let f := fun (j : Nat) => match three[j]? with
      | some e => [(8 + 16 * j, 8, e.2.2.1.toNat), (16 + 16 * j, 4, e.2.2.2)]
      | none => []
    record64 ([(0, 1, 18), (1, 1, key), (2, 2, i), (4, 4, lines.length), (0x38, 8, s.clock)] ++ f 0 ++ f 1 ++ f 2))

/-- HOST_LINK_LOST (R309): after 10 ms without retraining. -/
def execHostLinkLost (s : State) : Out :=
  ok (match s.board.link with
    | .down since =>
      if s.clock < since + 10000000 then s
      else
        let held := s.dirty.filter (fun e => inSpace .host (128 * e.1))
        let s := { s with
          copies1 := s.copies1.filter (fun e => !inSpace .host (4 * e.1.2)),
          proxy := s.proxy.filter (fun e => held.any (fun d => d.1 = e.1)),
          absent := s.absent.filter (fun e => held.any (fun d => d.1 = e.1)),
          l2 := (s.untag (fun t => inSpace .host (128 * t.line) && !held.any (fun d => d.1 = t.line))).l2,
          poison := s.poison ++ (held.map (fun e => e.1)).filter (fun l => !(s.poison.contains l)),
          ctxs := s.ctxs.map (fun e => (e.1, { e.2 with wins := [] })),
          board := { s.board with link := .lost } }
        let owners := nub (held.map (fun e => e.2.1))
        let s := owners.foldl (fun s k =>
          (s.records18 k (held.filter (fun e => e.2.1 = k))).foldl (fun s r => s.logRecord k r) s) s
        let out := s.accs.filter (fun a => a.stage = .ats ||
          (a.stage = .ready && a.locs.any (fun g => inSpace .host g.1 || isMmio g.1)))
        (nub (owners ++ out.map (·.key))).foldl (fun s k => s.endContext k 5) s
    | _ => s)

/-! ### Clocks and power (R365, R366) -/

/-- THROTTLE (R365): in 25 MHz steps between 500 MHz and the configured clock; a clock at or below 500 MHz is not lowered. The module
is throttled while a condition holds or the clock is below the configured one. -/
def execThrottle (power temp : Nat) (s : State) : Out :=
  let b := s.board
  let hot := b.cap < power || 100 < temp
  let mhz := if hot then (if b.mhz ≤ 500 then b.mhz else max 500 (b.mhz - 25)) else min b.flash.mhz (b.mhz + 25)
  ok (if b.state ≠ .ready then s
    else { s with board := { b with power := power, temp := temp, mhz := mhz, throttled := hot || decide (mhz < b.flash.mhz) } })

/-- OVER_TEMPERATURE (R366): at 105 °C every context gets its record and ends, and the compute clocks stop. -/
def execOverTemperature (die temp : Nat) (s : State) : Out :=
  ok (if temp < 105 || !s.board.powered then s
    else
      let keys := s.ctxs.map (fun e => e.1)
      let s := keys.foldl (fun s k => s.logRecord k (s.partRecord 23 k die 0 0 0 0)) s
      let s := keys.foldl (fun s k => s.endContext k 3) s
      { s with board := { s.board with temp := max s.board.temp temp, clocksOff := true, state := .failed } })

/-- The reset notices of a module that resets: one on every enabled port that is up (R364). -/
def State.notices (s : State) : List Sent := (s.ports.filter (fun e => e.2.enabled && e.2.up)).map (fun e => .resetNotice e.1)

/-- POWER_REMOVAL (R366): at 115 °C. Nothing further is written; no launch state survives, and the module has failed. -/
def execPowerRemoval (temp : Nat) (s : State) : Out :=
  ok (if temp < 115 then s
    else { State.reset with
      mem := s.mem.forget (fun a => !inSpace .host a && !inSpace .peer a),
      board := { s.board with temp := max s.board.temp temp, state := .failed, powered := false, clocksOff := true, diesOn := [] },
      clock := s.clock, ticks := s.ticks, agenda := s.agenda, turn := s.turn, fresh := s.fresh, nextId := s.nextId,
      outbox := s.outbox ++ s.notices })

end Sys2Proof.Machine
end

