-- ==== Sys2Proof/Machine/Branch.lean ====
section
/-! DEFINITION. Major 23: branches, calls and exit (R247 to R250). -/

namespace Sys2Proof.Machine

/-- Whether BRS is taken (R247). -/
def State.nonzero (s : State) (L : LaneId) (sb : BitVec 5) (neg : Bool) : Bool := (s.getS L sb.toNat ≠ 0) != neg

/-- A lane that takes a branch or goes on (R248). -/
def State.branchIf (s : State) (t : Bool) (a : D64) : LaneOut := if t then s.branch a {} else .done {}

/-- A call (R249): the target is judged first, then the depth (R61); the return address is pushed. -/
def State.callOut (s : State) (L : LaneId) (a : D64) : LaneOut :=
  let l := s.lane L
  match s.branch a { lane := some { l with stack := s.sel.after :: l.stack } } with
  | .done e =>
    if 8 + (s.hdr L.team).stack / 8 ≤ l.stack.length then .trap 13 (BitVec.ofNat 64 (8 * (l.stack.length - 7)))
    else .done e
  | o => o

/-- A lane ends (R250): one drop at each joined barrier, in join order, then the lane is no longer live. -/
def State.exitOut (s : State) (L : LaneId) : LaneOut :=
  .done { lane := some { s.lane L with live := false, wait := .none },
          asks := (s.group L.team L.group).joins.map (fun a => ⟨.bar 0 .leave, a, 16, 9, 0, []⟩), go := .stop }

/-- RET: to the popped address, or as EXIT when the stack is empty (R249). -/
def State.retOut (s : State) (L : LaneId) : LaneOut :=
  match (s.lane L).stack with
  | [] => s.exitOut L
  | a :: t => s.branch a { lane := some { s.lane L with stack := t } }

/-- The join list of a group is discarded with its last lane (R250). -/
def State.closeGroup (s : State) : State :=
  if s.groupLive s.sel.team s.sel.group then s
  else s.setGroup s.sel.team s.sel.group { s.group s.sel.team s.sel.group with joins := [] }

/-- BRA (R247). -/
def execBra (off : BitVec 20) (s : State) : Out :=
  ok (s.perLane ((s.plain []).goes (fun _ => s.codeFor false (some (s.sel.relative 20 off))))
    (fun _ => s.branch (s.sel.relative 20 off) {}))

/-- BRC (R247). -/
def execBrc (p : BitVec 3) (neg : Bool) (off : BitVec 20) (s : State) : Out :=
  ok (s.perLane ((s.plain (usesBrc p)).goes (fun L => s.codeFor false
    (if s.taken L p neg then some (s.sel.relative 20 off) else none)))
    (fun L => s.branchIf (s.taken L p neg) (s.sel.relative 20 off)))

/-- BRS (R247). -/
def execBrs (sb : BitVec 5) (neg : Bool) (off : BitVec 18) (s : State) : Out :=
  ok (s.perLane ((s.plain (usesBrs sb)).goes (fun L => s.codeFor false
    (if s.nonzero L sb neg then some (s.sel.relative 18 off) else none)))
    (fun L => s.branchIf (s.nonzero L sb neg) (s.sel.relative 18 off)))

/-- BRX (R247). -/
def execBrx (v : BitVec 6) (s : State) : Out :=
  ok (s.perLane ((s.plain (usesBrx v)).goes (fun L => s.codeFor false (some (s.indexed L v.toNat))))
    (fun L => s.branch (s.indexed L v.toNat) {}))

/-- CALL (R249). -/
def execCall (p : BitVec 3) (neg : Bool) (off : BitVec 20) (s : State) : Out :=
  ok (s.perLane ((s.plain (usesCall p)).goes (fun L => s.codeFor false
    (if s.taken L p neg then some (s.sel.relative 20 off) else none)))
    (fun L => if s.taken L p neg then s.callOut L (s.sel.relative 20 off) else .done {}))

/-- CALLX (R249). -/
def execCallx (v : BitVec 6) (s : State) : Out :=
  ok (s.perLane ((s.plain (usesCallx v)).goes (fun L => s.codeFor false (some (s.indexed L v.toNat))))
    (fun L => s.callOut L (s.indexed L v.toNat)))

/-- RET (R249). -/
def execRet (p : BitVec 3) (neg : Bool) (s : State) : Out :=
  ok ((s.perLane ((s.plain (usesRet p)).goes (fun L => s.codeFor
    (s.taken L p neg && (s.lane L).stack.isEmpty) (if s.taken L p neg then (s.lane L).stack.head? else none)))
    (fun L => if s.taken L p neg then s.retOut L else .done {})).closeGroup)

/-- EXIT (R250). -/
def execExit (p : BitVec 3) (neg : Bool) (s : State) : Out :=
  ok ((s.perLane ((s.plain (usesExit p)).goes (fun L => s.codeFor (s.taken L p neg) none))
    (fun L => if s.taken L p neg then s.exitOut L else .done {})).closeGroup)

end Sys2Proof.Machine
end

