-- ==== Sys2Proof/Machine/Copy.lean ====
section
/-! DEFINITION. Major 17: copies and tile words (R214 to R224). -/

namespace Sys2Proof.Machine

/-- The entry that TDEF writes from its parameter pair (R214). -/
def tileOf (q : List D64) : Tile :=
  let p0 := (q.getD 0 0).toNat
  let p1 := (q.getD 1 0).toNat
  { fmt := bits p0 32 4, acc := bitOf p0 36, off := bits p0 0 32, rows := bits p1 0 16, cols := bits p1 16 16, state := .empty,
    readers := 0, progress := 0, ovf := false, failed := false, rel := false }

/-- The code of a tile state (R217). -/
def TileState.code : TileState → Nat
  | .empty => 0
  | .filling => 1
  | .ready => 2
  | .draining => 3

/-- The status word of TSTAT (R217). -/
def State.tileStatus (s : State) (t n : Nat) : D64 :=
  match s.tile t n with
  | none => 0
  | some x =>
    let p := if x.state = .filling ∨ x.state = .draining then x.progress else 0
    BitVec.ofNat 64 (p % 2 ^ 32 * 2 ^ 24 + x.readers % 256 * 2 ^ 16 + x.fmt * 2 ^ 12 + b2n x.acc * 2 ^ 11 + b2n x.ovf * 2 ^ 10 +
      2 ^ 9 + b2n x.failed * 2 ^ 8 + x.state.code)

/-- COPY_IN (R221). -/
def execCopyIn (c : BitVec 5) (x : BitVec 4) (sp : BitVec 5) (bar : Bool) (s : State) : Out :=
  ok (s.onceDo (s.guard (.copyIn c x sp bar)) (fun s =>
    s.startCopy .inn c.toNat x.toNat 0 (s.params (s.sel.lane 0) sp.toNat 4) bar false))

/-- COPY_OUT (R221). -/
def execCopyOut (c : BitVec 5) (x : BitVec 4) (sp : BitVec 5) (rel : Bool) (bar : Bool) (s : State) : Out :=
  ok (s.onceDo (s.guard (.copyOut c x sp rel bar)) (fun s =>
    s.startCopy .out c.toNat x.toNat 0 (s.params (s.sel.lane 0) sp.toNat 4) bar rel))

/-- COPY_TT (R221). -/
def execCopyTt (c : BitVec 5) (sp : BitVec 5) (rel : Bool) (bar : Bool) (s : State) : Out :=
  ok (s.onceDo (s.guard (.copyTt c sp rel bar)) (fun s =>
    s.startCopy .tt c.toNat 16 0 (s.params (s.sel.lane 0) sp.toNat 4) bar rel))

/-- COPY_GATHER (R221). -/
def execCopyGather (c : BitVec 5) (x : BitVec 4) (b : BitVec 5) (sp : BitVec 5) (bar : Bool) (s : State) : Out :=
  ok (s.onceDo (s.guard (.copyGather c x b sp bar)) (fun s =>
    s.startCopy .gather c.toNat x.toNat b.toNat (s.params (s.sel.lane 0) sp.toNat 4) bar false))

/-- TDEF (R214). -/
def execTdef (c : BitVec 5) (sp : BitVec 5) (s : State) : Out := ok (s.onceDo (s.guard (.tdef c sp)) (fun s =>
    s.setTile s.sel.team c.toNat (tileOf (s.params (s.sel.lane 0) sp.toNat 2))))

/-- TDROP (R216). -/
def execTdrop (c : BitVec 5) (s : State) : Out :=
  ok (s.onceDo (s.guard (.tdrop c)) (fun s => { s with tiles := s.tiles.del (s.sel.team, c.toNat) }))

/-- TSET (R219). -/
def execTset (x : BitVec 4) (sp : BitVec 5) (s : State) : Out := ok (s.onceDo (s.guard (.tset x sp)) (fun s =>
    { s.ask s.sel.lanes ⟨.tset x.toNat, s.getS (s.sel.lane 0) sp.toNat, 64, 6, 0, []⟩ with
      tensors := s.tensors.set (s.sel.team, x.toNat) .pending }))

/-- TSTAT (R217). -/
def execTstat (c : BitVec 5) (sp : BitVec 5) (s : State) : Out :=
  ok (s.once (s.guard (.tstat c sp)) (fun _ => putRegs [.s sp.toNat (s.tileStatus s.sel.team c.toNat)]))

/-- TREL (R216). -/
def execTrel (c : BitVec 5) (s : State) : Out :=
  ok (s.onceDo (s.guard (.trel c)) (fun s => s.markTile s.sel.team c.toNat .empty 0))

end Sys2Proof.Machine
end

