-- ==== Sys2Proof/Machine/Dxtr.lean ====
section
/-! DEFINITION. Major 20: building and reading distributions (R153 to R159). -/

namespace Sys2Proof.Machine

/-- The constants z_k of DNORM (R154). -/
def zConsts : List Nat :=
  [0xBFD2CB64, 0xBF65375D, 0xBEFB927D, 0xBE21C476, 0x3E21C476, 0x3EFB927D, 0x3F65375D, 0x3FD2CB64]

/-- A building form writes its register, and DN where it wrote a NaN (R149, R154). -/
def distBuild (d : Nat) (r : DVal) : LaneOut := distOut [.d d r] r.dn

/-- The atoms that count, under FZ32: those with a weight. -/
def DVal.live (m : ModeF) (x : DVal) : List (W32 × Nat) :=
  (x.atoms.filter (fun a => a.2 ≠ 0)).map (fun a => (inF m a.1, a.2.toNat))

/-- A power of an exact value. -/
def fpow (x : Fval) : Nat → Fval
  | 0 => .ofInt 1
  | k + 1 => (fpow x k).mul x

/-- Whether a value is zero. -/
def Fval.isZero : Fval → Bool
  | .fin _ g => g.m = 0
  | _ => false

/-- DMOM of a valid register (R155). -/
def moment (m : ModeF) (k : Nat) (x : DVal) : W32 :=
  let l := x.live m
  match l.find? (fun a => Fmt.f32.isNan a.1.toNat) with
  | some a => BitVec.ofNat 32 (Fmt.f32.quiet a.1.toNat)
  | none =>
    let mu := (weighted m.rm l).scale (-15)
    if k = 1 then BitVec.ofNat 32 (Fmt.f32.put m.rm m.fz32 mu)
    else if l.any (fun a => Fmt.f32.mag a.1.toNat = Fmt.f32.infBits) then (if k = 3 then 0x7FC00000 else 0x7F800000)
    else
      let c := (l.foldl (fun (acc : Fval) (a : W32 × Nat) =>
        acc.add m.rm ((fpow ((Fmt.f32.val a.1.toNat).add m.rm mu.neg) k).mul (.ofInt a.2))) (Fval.zero false)).scale (-15)
      BitVec.ofNat 32 (Fmt.f32.put m.rm m.fz32 (if c.isZero then .zero false else c))

/-- The first sorted atom whose cumulated weight, doubled, passes q (R156). -/
def pickQuantile (q : Nat) : Nat → List (W32 × Nat) → W32
  | _, [] => 0x7FC00000
  | c, (x, w) :: t =>
    if q < 2 * (c + w) then (if Fmt.f32.isNan x.toNat then BitVec.ofNat 32 (Fmt.f32.quiet x.toNat) else x)
    else pickQuantile q (c + w) t

/-- DQNT of a valid register: ordered under FZ32, returned as it stands (R145, R156). -/
def quantile (m : ModeF) (q : Nat) (x : DVal) : W32 :=
  pickQuantile q 0 (sortBy (fun a b => condKey (inF m a.1) < condKey (inF m b.1))
    ((x.atoms.filter (fun a => a.2 ≠ 0)).map (fun a => (a.1, a.2.toNat))))

/-- DPRB of a valid register (R157). -/
def probability (m : ModeF) (t : W32) (x : DVal) : W32 :=
  if Fmt.f32.isNan t.toNat then 0x7FC00000
  else
    let n := (((x.live m).filter (fun a => fcond .f32 m.fz32 3 a.1.toNat t.toNat)).map (fun a => a.2)).foldl Nat.add 0
    BitVec.ofNat 32 (Fmt.f32.put .rne false ((Fval.ofInt (n : Nat)).scale (-15)))

/-- DMOM, DQNT and DPRB: an invalid register gives the NaN and sets DI (R159). -/
def State.dread (s : State) (L : LaneId) (a v : Nat) (g : DVal → W32) : LaneOut :=
  let x := s.getD L a
  if x.valid then distOut [.v v (g x)] 0 else distOut [.v v 0x7FC00000] flagDI

/-- DPNT (R154). -/
def execDpnt (d : BitVec 4) (v : BitVec 6) (s : State) : Out :=
  ok (s.perLane (s.guard (.dpnt d v)) (fun L => distBuild d.toNat (DVal.even (List.replicate 8 (s.getV L v.toNat)) 0)))

/-- DFROMS (R154). -/
def execDfroms (d : BitVec 4) (v : BitVec 6) (n : BitVec 4) (s : State) : Out :=
  ok (s.perLane (s.guard (.dfroms d v n)) (fun L => distBuild d.toNat
    (DVal.even ((List.range 8).map (fun i => inF (s.modeF L) (s.getV L (v.toNat + i)))) (1#16 <<< n.toNat))))

/-- DNORM (R154). -/
def execDnorm (d : BitVec 4) (v : BitVec 6) (n : BitVec 4) (s : State) : Out :=
  ok (s.perLane (s.guard (.dnorm d v n)) (fun L => distBuild d.toNat
    (DVal.even (zConsts.map (fun z => BitVec.ofNat 32 (flop3 .f32 (s.modeF L) opFma
      (s.getV L (v.toNat + 1)).toNat z (s.getV L v.toNat).toNat))) (1#16 <<< n.toNat))))

/-- DMOM (R155). -/
def execDmom (a : BitVec 4) (v : BitVec 6) (k : BitVec 4) (s : State) : Out :=
  ok (s.perLane (s.guard (.dmom a v k)) (fun L => s.dread L a.toNat v.toNat (moment (s.modeF L) k.toNat)))

/-- DQNT (R156). -/
def execDqnt (a : BitVec 4) (v : BitVec 6) (s : State) : Out :=
  ok (s.perLane (s.guard (.dqnt a v)) (fun L => s.dread L a.toNat v.toNat (quantile (s.modeF L) ((s.getV L v.toNat).toNat % 2 ^ 16))))

/-- DPRB (R157). -/
def execDprb (a : BitVec 4) (v : BitVec 6) (s : State) : Out :=
  ok (s.perLane (s.guard (.dprb a v)) (fun L => s.dread L a.toNat v.toNat (probability (s.modeF L) (s.getV L v.toNat))))

/-- DTAG (R158). -/
def execDtag (d : BitVec 4) (a : BitVec 4) (v : BitVec 6) (s : State) : Out :=
  ok (s.perLane (s.guard (.dtag d a v)) (fun L => s.dcopy d.toNat a.toNat (some ((s.getV L v.toNat).truncate 16)) L))

/-- DTGR (R158). -/
def execDtgr (a : BitVec 4) (v : BitVec 6) (s : State) : Out := ok (s.perLane (s.guard (.dtgr a v)) (fun L =>
    let x := s.getD L a.toNat
    distOut [.v v.toNat (BitVec.ofNat 32 (x.tag.toNat + b2n x.sorted * 2 ^ 16 + b2n (!x.valid) * 2 ^ 17))] 0))

/-- DATOM (R158). -/
def execDatom (a : BitVec 4) (v : BitVec 6) (n : BitVec 3) (s : State) : Out :=
  ok (s.perLane (s.guard (.datom a v n)) (fun L =>
    let z := (s.getD L a.toNat).atoms.getD n.toNat (0, 0)
    distOut [.v v.toNat z.1, .v (v.toNat + 1) (z.2.zeroExtend 32)] 0))

end Sys2Proof.Machine
end

