-- ==== Sys2Proof/Machine/Launch.lean ====
section
/-! DEFINITION. Major 25: launching from a kernel (R264). The record is read as an access of the lane; LAUNCH_RECORD_READ answers it. -/

namespace Sys2Proof.Machine

/-- The two words of LSTAT: the queue's indices, or all ones for a queue of another owner (R264). -/
def State.lstat (s : State) (L : LaneId) (d q : Nat) : List RegW :=
  let x := s.queues.get Queue.idle q
  if x.owner = (s.team L.team).key then [.v d x.rd, .v (d + 1) x.wr] else [.v d 0xFFFFFFFF, .v (d + 1) 0xFFFFFFFF]

/-- LAUNCH (R264). -/
def execLaunch (d : BitVec 6) (a : BitVec 6) (q : BitVec 6) (s : State) : Out :=
  ok (s.perLane ((s.plain (usesLaunch d a)).holding s.asksWait)
    (fun L => .done { empties := [(.v, d.toNat), (.v, d.toNat + 1)], asks := [⟨.launch d.toNat q.toNat, s.getV2 L a.toNat, 64, 6, s.wordTag, []⟩], go := .hold .launch }))

/-- LSTAT (R264). -/
def execLstat (d : BitVec 6) (q : BitVec 6) (s : State) : Out :=
  ok (s.perLane (s.plain (usesLstat d)) (fun L => putRegs (s.lstat L d.toNat q.toNat)))

end Sys2Proof.Machine
end

