-- ==== Sys2Proof/Machine/Mat.lean ====
section
/-! DEFINITION. Major 16: the words of the matrix pair (R120 to R137). A word makes its checks, changes tile states and creates a run;
the run's steps are events. -/

namespace Sys2Proof.Machine

/-- K-blocks of a tile (R131). -/
def State.colBlocks (s : State) (a : Nat) : Nat := ((s.tile s.sel.team a).map (fun x => x.cols / 64)).getD 0

/-- MMA (R125). -/
def execMma (c : BitVec 5) (a : BitVec 5) (b : BitVec 5) (sp : BitVec 5) (s : State) : Out :=
  ok (s.onceDo (s.guard (.mma c a b sp)) (fun s =>
    s.startRun .mma c.toNat a.toNat b.toNat 0 (s.params (s.sel.lane 0) sp.toNat 2) 1))

/-- MLOOP (R125). -/
def execMloop (c : BitVec 5) (a : BitVec 5) (b : BitVec 5) (sp : BitVec 5) (s : State) : Out :=
  ok (s.onceDo (s.guard (.mloop c a b sp)) (fun s =>
    let q := s.params (s.sel.lane 0) sp.toNat 2
    s.startRun .mloop c.toNat a.toNat b.toNat 0 q (bits (q.getD 0 0).toNat 0 16)))

/-- MLOOPS (R125). -/
def execMloops (c : BitVec 5) (a : BitVec 5) (b : BitVec 5) (sp : BitVec 5) (s : State) : Out :=
  ok (s.onceDo (s.guard (.mloops c a b sp)) (fun s =>
    let q := s.params (s.sel.lane 0) sp.toNat 2
    s.startRun .mloops c.toNat a.toNat b.toNat 0 q (bits (q.getD 0 0).toNat 0 16)))

/-- ATTN (R134). -/
def execAttn (c : BitVec 5) (a : BitVec 5) (b : BitVec 5) (sp : BitVec 5) (f : BitVec 2) (s : State) : Out :=
  ok (s.onceDo (s.guard (.attn c a b sp f)) (fun s =>
    let q := s.params (s.sel.lane 0) sp.toNat 4
    s.startRun .attn c.toNat a.toNat b.toNat f.toNat q (bits (q.getD 0 0).toNat 0 16)))

/-- HADQ (R131). -/
def execHadq (c : BitVec 5) (a : BitVec 5) (f : BitVec 2) (s : State) : Out :=
  ok (s.onceDo (s.guard (.hadq c a f)) (fun s =>
    s.startRun .hadq c.toNat a.toNat 0 f.toNat [] (s.colBlocks a.toNat)))

/-- QNT (R131). -/
def execQnt (c : BitVec 5) (a : BitVec 5) (s : State) : Out := ok (s.onceDo (s.guard (.qnt c a)) (fun s =>
    s.startRun .qnt c.toNat a.toNat 0 0 [] (s.colBlocks a.toNat)))

/-- ACCZ (R137). -/
def execAccz (c : BitVec 5) (s : State) : Out :=
  ok (s.onceDo (s.guard (.accz c)) (fun s => s.startRun .accz c.toNat 0 0 0 [] 1))

/-- ACCRD (R137). -/
def execAccrd (c : BitVec 5) (a : BitVec 5) (b16 : Bool) (s : State) : Out :=
  ok (s.onceDo (s.guard (.accrd c a b16)) (fun s => s.startRun .accrd c.toNat a.toNat 0 0 [] 1))

/-- ACCWR (R137). -/
def execAccwr (c : BitVec 5) (a : BitVec 5) (s : State) : Out :=
  ok (s.onceDo (s.guard (.accwr c a)) (fun s => s.startRun .accwr c.toNat a.toNat 0 0 [] 1))

/-- MREL (R129). -/
def execMrel (s : State) : Out := ok (s.onceDo (s.guard .mrel) State.mrel)

end Sys2Proof.Machine
end

