-- ==== Sys2Proof/Machine/Memx.lean ====
section
/-! DEFINITION. Major 15: fences, cache control and translation query (R194, R195, R211 to R213). A fence waits for the
lane's earlier accesses (moreWait), and later ones leave after it in program order. -/

namespace Sys2Proof.Machine



/-- FENCE_HOST (R195). -/
def execFenceHost (s : State) : Out := ok (s.perLane (s.guard .fenceHost) (fun _ => .done {}))

/-- FENCE_SYS (R194). -/
def execFenceSys (s : State) : Out := ok (s.perLane (s.guard .fenceSys) (fun _ => .done {}))

/-- CWB (R212). -/
def execCwb (o : Pf) (s : State) : Out := ok (s.perLane (s.guard (.cwb o)) (fun L =>
    .done { asks := [⟨.cwb, lineAddr (s.effAddr L o.base.toNat o.off.toNat (128 * o.imm.toNat)), 128, 1, 0, []⟩] }))

/-- CINV (R212). -/
def execCinv (o : Pf) (s : State) : Out := ok (s.perLane (s.guard (.cinv o)) (fun L =>
    .done { asks := [⟨.cinv, lineAddr (s.effAddr L o.base.toNat o.off.toNat (128 * o.imm.toNat)), 128, 1, 0, []⟩] }))

/-- XLQ (R213). -/
def execXlq (o : Ld) (s : State) : Out := ok (s.perLane (s.guard (.xlq o)) (fun L =>
    .done { empties := [(.v, o.d.toNat), (.v, o.d.toNat + 1)],
            asks := [⟨.xlq o.d.toNat, s.effAddr L o.base.toNat o.off.toNat (8 * o.imm.toNat), 1, 0, 0, []⟩] }))

end Sys2Proof.Machine
end

