-- ==== Sys2Proof/Machine/Mgmtev.lean ====
section
/-! DEFINITION. Boot, the management interface and its commands, and what hosts and peers do to the device (R266, R267,
R273 to R275, R284 to R286, R321, R354, R367 to R370). -/

namespace Sys2Proof.Machine

/-! ### Boot (R284, R285, R367) -/

/-- Whether the firmware image passes its checks (R284), and the configuration record its own (R285). -/
def Board.imageOk (b : Board) : Bool := b.flash.image.signed && b.fused ≤ b.flash.image.version
def Board.confOk (b : Board) : Bool :=
  b.flash.confOk && b.fused ≤ b.flash.confVersion && b.flash.mhz ≤ 1000 &&
    (List.range Config.cores).any (fun c => !(b.flash.coresOff.contains c))

/-- The stores that boot clears (R367): check bits initialised, so that no line is poisoned; tags, TLBs, the Comb and the lane state
arrays. -/
def State.cleared (s : State) : State :=
  { s with
    v := [], s := [], p := [], d := [], w := [], marks := [], rstamps := [], sent := [], lanes := [], groups := [], teams := [],
    tiles := [], tensors := [], watch := [], poison := s.poison.filter (fun l => !isHbm (128 * l)),
    queues := [], tlb := [], ats := [], copies1 := [], icache := [], l2 := [], proxy := [], absent := [], dirty := [],
    mem := s.mem.forget (fun a => inSpace .scratch a || inSpace .acc a || inSpace .save a) }

/-- BOOT (R367): a module in reset or recovery verifies its firmware and configuration. It comes to ready with every queue
disabled and no peer bound, or stays in recovery. The ports that have trained carry the notice of the reset (R364). The host link trains
to its full rate and width, though R363 lets it train to less (log entry 109). -/
def execBoot (s : State) : Out :=
  let b := s.board
  ok (if !(b.state = .reset || b.state = .recovery) then s
    else if !b.imageOk || !b.confOk then
      { s with board := { b with state := .recovery, link := .up, degraded := false } }
    else
      let dies := (List.range Config.dies).filter (fun d => (List.range 768).any (fun i => !(b.flash.coresOff.contains (768 * d + i))))
      { s.cleared with
        board := { b with
          state := .ready, link := .up, degraded := false, diesOn := dies, mhz := b.flash.mhz, throttled := false,
          fused := if b.flash.image.raise then b.flash.image.version else b.fused, running := b.flash.image.version },
        ports := (List.range 12).map (fun p => (p, if b.flash.portsOff.contains p then Port.idle
          else { Port.idle with enabled := true, up := true, lanes := 8 })),
        outbox := s.outbox ++ ((List.range 12).filter (fun p => !(b.flash.portsOff.contains p))).map .resetNotice })

/-! ### Registers of the management interface (R368) -/

/-- The bytes of a 64-bit mailbox write, and the mailbox's command code and status. -/
def Board.mailByte (b : Board) (i : Nat) : Byte := Tbl.get 0 b.mailbox i
def mailPut (m : Tbl Nat Byte) (at0 : Nat) (bs : List Byte) : Tbl Nat Byte :=
  (bs.mapIdx (fun i x => (at0 + i, x))).foldl (fun (m : Tbl Nat Byte) e => if e.1 < 4096 then m.set e.1 e.2 else m) m
def Board.mailWrite (b : Board) (at0 : Nat) (bs : List Byte) : Board := { b with mailbox := mailPut b.mailbox at0 bs }

/-- The code of a command (R369), and whether its length fits the mailbox. -/
def mailCodeOf (m : Tbl Nat Byte) : Nat := (m.get 0 0).toNat + 256 * (m.get 0 1).toNat
def mailFits (m : Tbl Nat Byte) : Bool := 4 + (m.get 0 2).toNat + 256 * (m.get 0 3).toNat ≤ 4096

/-- The command in service: that of the mailbox, or an ATTEST that was submitted meanwhile (R370); and its code. -/
def Board.served (b : Board) : Tbl Nat Byte := b.now.getD b.mailbox
def Board.mailCode (b : Board) : Nat := mailCodeOf b.served

/-- STATUS (R368). -/
def Board.status (b : Board) : Nat :=
  (match b.state with | .reset => 0 | .recovery => 1 | .ready => 2 | .failed => 3) + 4 * b2n b.throttled + 8 * b2n b.degraded +
    16 * maskOf b.diesOn

/-- What a 64-bit read of a management register gives (R368). -/
def State.mgmtRead (s : State) (off : Nat) : Nat :=
  let b := s.board
  if off = 0x0000 then 0x51300880
  else if off = 0x0008 then b.status
  else if off = 0x0010 then b.temp
  else if off = 0x0018 then b.power
  else if off = 0x0020 then b.cap
  else if off = 0x0100 then b2n b.mbdb
  else if 0x2000 ≤ off ∧ off < 0x3000 then ofLe ((List.range 8).map (fun i => b.mailByte (off - 0x2000 + i)))
  else if 0x3000 ≤ off ∧ off < 0x3040 ∧ off % 16 = 0 then b.corrected.getD ((off - 0x3000) / 16) 0
  else if 0x3000 ≤ off ∧ off < 0x3040 ∧ off % 16 = 8 then b.uncorrected.getD ((off - 0x3000) / 16) 0
  else 0

/-- An answer written to the mailbox, over the command (R369): the status, then the result. An ATTEST that was submitted meanwhile is in
service next, while the answer stands in the mailbox (R370; log entry 103). -/
def State.reply (s : State) (status : Nat) (result : List Byte) : State :=
  { s with board := { s.board.mailWrite 0 (leBytes 4 status ++ result) with
      mbdb := !s.board.later.isEmpty, now := s.board.later.head?, later := s.board.later.tail } }

/-- A command submitted through MBDB (R369, R370): while one is in service, a second is ignored unless it is ATTEST, which waits its
turn. One with a code that no command has, or longer than the mailbox, is answered with 1. -/
def State.submit (s : State) : State :=
  let b := s.board
  if b.mbdb then
    (if mailCodeOf b.staged = 14 then { s with board := { b with later := b.later ++ [b.staged], staged := [] } } else s)
  else if 1 ≤ b.mailCode && b.mailCode ≤ 15 && mailFits b.mailbox then { s with board := { b with mbdb := true, staged := [] } }
  else s.reply 1 []

/-- MGMT_REGISTER_WRITE (R368, R370): the power cap, the mailbox and MBDB. What is written to the mailbox while a command is in
service leaves that command as it is. -/
def execMgmtRegisterWrite (off : Nat) (val : D64) (s : State) : Out :=
  let b := s.board
  ok (if b.state = .reset || b.link ≠ .up || !b.powered then s
    else if off = 0x0020 then (if 500 ≤ val.toNat && val.toNat ≤ 1800 then { s with board := { b with cap := val.toNat } } else s)
    else if off = 0x0100 then (if val = 1 then s.submit else s)
    else if 0x2000 ≤ off && off < 0x3000 then
      (if b.mbdb then { s with board := { b with staged := mailPut b.staged (off - 0x2000) (leBytes 8 val.toNat) } }
       else { s with board := b.mailWrite (off - 0x2000) (leBytes 8 val.toNat) })
    else s)

/-- Whether firmware serves a command of this code now (R369). After a power removal nothing does (R366). -/
def State.serving (s : State) (code : Nat) : Bool :=
  s.board.mbdb && s.board.mailCode = code && s.board.state ≠ .reset && s.board.powered

/-- A command of a ready module: it is refused in recovery, where only FWLOAD is served (R284), and of a module that has failed. -/
def State.command (s : State) (code : Nat) (f : State → State) : Out :=
  ok (if !s.serving code then s else if s.board.state = .ready then f s else s.reply 4 [])

/-- A command on a context: status 2 where there is none. -/
def State.onCtx (s : State) (key : Nat) (f : Ctx → State) : State :=
  match s.ctx key with
  | some c => f c
  | none => s.reply 2 []

/-! ### Contexts (R266, R267) -/

/-- Whether the state asked for a context is legal (R266). -/
def ctxArgsOk (a : CtxArgs) : Bool :=
  1 ≤ a.key && a.key ≤ 255 && a.root % 2 ^ 20 = 0 && Config.firmwareBase ≤ a.root && a.root + 2 ^ 20 ≤ Config.hbmBytes &&
    (match a.pasid with | some p => decide (p < 2 ^ 20) | none => true) && a.quota % 65536 = 0 && a.quota ≤ 2 ^ 40 &&
    (List.range 9).any (fun i => a.ring = 256 * 2 ^ i) && vspace a.log = .ordinary

/-- A new context (R266). Its key is drawn: a free value; `draw` is the model's name for it. -/
def State.newCtx (s : State) (a : CtxArgs) : State :=
  let c : Ctx := { key := a.key, draw := s.nextId + 1, hbmKey := Config.freeKey (s.nextId + 1), root := a.root, pasid := a.pasid, quota := a.quota, spill := a.spill,
                   ring := a.ring, log := a.log, logCap := a.logCap, logged := 0, dropped := 0, wins := [], peers := [], heap := [],
                   granted := [], reqs := [], nextSeq := 0, held := false, dbg := false }
  let s := { s with nextId := s.nextId + 1 }
  (s.setCtx c).ctxStore c c.log (leBytes 8 0 ++ leBytes 4 c.logCap ++ List.replicate 52 (0 : Byte))

/-- CTXNEW (R266): refused for a key id that is taken, and where the tables would map a page of another context (R268). -/
def execCtxnew (a : CtxArgs) (s : State) : Out :=
  s.command 1 (fun s =>
    if !ctxArgsOk a then s.reply 1 []
    else if (s.ctx a.key).isSome || s.othersMap a.key s.mem (mappedRuns s.mem a.root) then s.reply 4 []
    else (s.newCtx a).reply 0 (leBytes 4 a.key))

/-- CTXEND (R267, R370). -/
def execCtxend (key : Nat) (s : State) : Out :=
  s.command 2 (fun s => s.onCtx key (fun _ => (s.endContext key 3).reply 0 []))

/-- QCFG (R225): the indices of a queue start at 0 with a new owner. A ring that could not hold the backlog that its owner has in it is
refused, since the backlog never exceeds the ring (log entry 73). What the launch unit has read for the queue is read again. -/
def execQcfg (q : Nat) (enable : Bool) (owner : Nat) (base : D64) (size : Nat) (s : State) : Out :=
  s.command 3 (fun s => s.onCtx owner (fun _ =>
    if 64 ≤ q || base.toNat % 64 ≠ 0 || vspace base ≠ .ordinary || size < 4 || 16 < size then s.reply 1 []
    else
      let x := s.queues.get Queue.idle q
      let x := if x.owner = owner then x else Queue.idle
      if 2 ^ size < (x.wr - x.rd).toNat then s.reply 4 []
      else
        ({ s with queues := s.queues.set q { x with enable := enable, owner := owner, base := base, size := size },
                  accs := s.accs.filter (fun a => !(a.op = .accept q && a.performed)) } : State).reply 0 []))

/-- PAGEMAP (R369): a range granted, or withdrawn once its translated accesses are performed (R196). The pages of a host window are
pinned: they are not withdrawn, and no table write moves them (R274); nor does one map a page of another context (R268). -/
def execPagemap (key : Nat) (base : D64) (len : Nat) (grant : Option Perm) (tables : List (Nat × D64)) (s : State) : Out :=
  s.command 4 (fun s => s.onCtx key (fun c =>
    let m := writeTables s.mem (tables.filter tableWrite)
    if base.toNat % 4096 ≠ 0 || len % 4096 ≠ 0 || len = 0 || 2 ^ 56 < base.toNat + len then s.reply 1 []
    else if s.othersMap key m (c.runsIn m) || s.winsMove c m then s.reply 4 []
    else match grant with
    | some p => ((s.applyTables key tables).setCtx { c with granted := c.granted ++ [(base, len, p)] }).reply 0 []
    | none =>
      if c.pinned base len then s.reply 4 []
      else if s.usesRange key base len then s
      else
        (((s.applyTables key tables).forgetRange c base len).setCtx
          { c with granted := c.granted.filter (fun g => !(inRange base len g.1)) }).reply 0 []))

/-- Whether every page of a range is one of device HBM that the context's tables map. -/
def State.allMapped (s : State) (c : Ctx) (base : D64) (len : Nat) : Bool :=
  (List.range (len / 4096)).all (fun i => match walk s.mem c.root (base + BitVec.ofNat 64 (4096 * i)) with
    | some t => t.home = 0
    | none => false)

/-- HWIN (R274): up to four windows, 2 MiB aligned, each of mapped pages of device HBM (log entry 74). -/
def execHwin (key : Nat) (base : D64) (len : Nat) (add : Bool) (s : State) : Out :=
  s.command 5 (fun s => s.onCtx key (fun c =>
    if base.toNat % 2097152 ≠ 0 || len % 2097152 ≠ 0 || len = 0 || vspace base ≠ .ordinary then s.reply 1 []
    else if add then
      (if !s.allMapped c base len then s.reply 1 []
       else if 4 ≤ c.wins.length || s.board.link ≠ .up then s.reply 4 [] else (s.setCtx { c with wins := c.wins ++ [(base, len)] }).reply 0 [])
    else if c.wins.contains (base, len) then (s.setCtx { c with wins := c.wins.filter (· ≠ (base, len)) }).reply 0 []
    else s.reply 1 []))

/-- PEERBIND (R275): up to 16 bindings, on a port that is up (R327). -/
def execPeerbind (key port device peerKey : Nat) (s : State) : Out :=
  s.command 6 (fun s => s.onCtx key (fun c =>
    if 12 ≤ port || peerKey = 0 || 255 < peerKey then s.reply 1 []
    else if 16 ≤ c.peers.length || !(s.port port).up then s.reply 4 []
    else (s.setCtx { c with peers := c.peers ++ [(port, device, peerKey)] }).reply 0 []))

/-! ### Checkpoints and debuggers (R321, R354, R370) -/

/-- CKPT (R354): every resident team of the context is named for pre-emption, and one that is RESTORING for the time when it has
resumed (R320). A team of which no lane is left is not resident. -/
def execCkpt (key : Nat) (hold : Bool) (s : State) : Out :=
  s.command 7 (fun s => s.onCtx key (fun c =>
    if c.held then s.reply 0 []
    else
      let ts := (s.teams.filter (fun e => e.2.key = key && s.teamLive e.1)).map (fun e => e.1)
      ((s.setCtx { c with held := hold }).nameTeams ts).reply 0 []))

/-- RESUME (R354). -/
def execResume (key : Nat) (s : State) : Out :=
  s.command 8 (fun s => s.onCtx key (fun c => (s.setCtx { c with held := false }).reply 0 []))

/-- DBGATT (R321). -/
def execDbgatt (key : Nat) (s : State) : Out :=
  s.command 9 (fun s => s.onCtx key (fun c => (s.setCtx { c with dbg := true }).reply 0 []))

/-- DBGDET (R321): groups that the debugger halted run again. -/
def execDbgdet (key : Nat) (s : State) : Out :=
  s.command 10 (fun s => s.onCtx key (fun c =>
    let s : State := s.setCtx { c with dbg := false }
    let t : State := { s with groups := s.groups.map (fun e => if (s.team e.1.1).key = key then (e.1, { e.2 with dbg := false, brk := false }) else e) }
    t.reply 0 []))

/-- A debugger's command on a group of a resident team (R321). -/
def State.onGroup (s : State) (c : Ctx) (team group : Nat) (f : State → State) : State :=
  if !c.dbg then s.reply 4 []
  else if (s.team team).key ≠ c.key || (s.teams.find team).isNone || (group ≠ 255 && (s.hdr team).groups ≤ group) then s.reply 1 []
  else (f s).reply 0 []

/-- The group number that stands for a whole team in a halt request. -/
def wholeTeam : Nat := 255

/-- A debugger's request to halt (R312, R321): of a group, whose runs then give up the blocks that have arrived (R136), or of a team,
which is named for pre-emption with the other teams of a co-resident launch, so that they stay together (R246; log entry 104). -/
def State.haltFor (s : State) (team group : Nat) : State :=
  if group = wholeTeam then s.nameTeams (s.broughtBy team)
  else
    (s.setGroup team group { s.group team group with dbg := true }).discardBlocks (fun r => r.team = team && r.group = group)

/-- DBGHALT (R321). -/
def execDbghalt (key team group : Nat) (s : State) : Out :=
  s.command 11 (fun s => s.onCtx key (fun c => s.onGroup c team group (·.haltFor team group)))

/-- A group that runs on (R321). -/
def State.runOn (s : State) (team group : Nat) : State :=
  if group = wholeTeam then s else s.setGroup team group { s.group team group with dbg := false, brk := false }

/-- DBGRUN (R321). -/
def execDbgrun (key team group : Nat) (s : State) : Out :=
  s.command 12 (fun s => s.onCtx key (fun c => s.onGroup c team group (·.runOn team group)))

/-- Where the host buffer lies that a command names: beside the address spaces of the PASIDs, at the address that stands in bytes 8 to
15 of the command (log entry 105). -/
def Board.hostBuffer (b : Board) : Nat := loc .host (2 ^ 20) (ofLe ((List.range 8).map (fun i => b.served.get 0 (8 + i))))

/-- DBGLIST (R297, R369): LIST into a host buffer. -/
def execDbglist (key cluster : Nat) (s : State) : Out :=
  s.command 13 (fun s => s.onCtx key (fun _ =>
    ({ s with mem := s.mem.putN s.board.hostBuffer (s.listing key cluster),
              outbox := s.outbox ++ [.listing (s.listing key cluster)] } : State).reply 0 []))

/-! ### Attestation and firmware (R284, R286) -/

/-- A 256-bit digest as bytes. -/
def digest (x : BitVec 256) : List Byte := leBytes 32 x.toNat

/-- The configuration record without its signature (R285). -/
def Flash.confBytes (f : Flash) : List Byte :=
  let on := fun (n : Nat) (off : List Nat) => leBytes (n / 8) (maskOf ((List.range n).filter (fun i => !(off.contains i))))
  leBytes 4 0x47434651 ++ leBytes 4 f.confVersion ++ leBytes 8 f.serial.toNat ++ leBytes 4 f.sku.toNat ++ leBytes 4 f.mhz ++
    on 3072 f.coresOff ++ on 2048 f.slicesOff ++ on 64 f.preronOff ++
    leBytes 2 (maskOf ((List.range 12).filter (fun i => !(f.portsOff.contains i)))) ++ List.replicate 30 0

/-- A context's creation state without its key (R266, R286). -/
def Ctx.creation (c : Ctx) : List Byte :=
  leBytes 1 c.key ++ leBytes 8 c.root ++ (match c.pasid with | some p => 1 :: leBytes 4 p | none => 0 :: leBytes 4 0) ++
    leBytes 8 c.quota ++ leBytes 8 c.spill ++ leBytes 4 c.ring ++ leBytes 8 c.log.toNat ++ leBytes 4 c.logCap

/-- The attestation report (R286). -/
def State.attestation (s : State) (key : Nat) (nonce : BitVec 256) (c : Option Ctx) : List Byte :=
  let body := leBytes 4 0x54415451 ++ leBytes 4 1 ++ digest nonce ++ digest (Config.sha256 (Config.firmwareImage s.board.running)) ++
    digest (Config.sha256 (s.board.flash.confBytes ++ s.board.flash.confSig)) ++ leBytes 4 s.board.fused ++ leBytes 1 key ++ List.replicate 3 (0 : Byte) ++
    (match c with | some c => digest (Config.sha256 c.creation) | none => List.replicate 32 (0 : Byte)) ++
    leBytes 64 Config.identityKey.toNat
  body ++ Config.identitySign body

/-- ATTEST (R286): refused for a key id without a context. -/
def execAttest (key : Nat) (nonce : BitVec 256) (s : State) : Out :=
  s.command 14 (fun s =>
    if key ≠ 0 && (s.ctx key).isNone then s.reply 4 []
    else ({ s with outbox := s.outbox ++ [.report (s.attestation key nonce (s.ctx key))] } : State).reply 0 [])

/-- FWLOAD (R284): only in recovery; the next boot verifies the image. -/
def execFwload (img : FwImage) (s : State) : Out :=
  ok (if !s.serving 15 then s
    else if s.board.state = .recovery then
      ({ s with board := { s.board with flash := { s.board.flash with image := img } } } : State).reply 0 []
    else s.reply 4 [])

/-! ### The host and peers reach the device (R195, R274, R275) -/

/-- Delegations of the words of a piece recalled (R192), and the poison of a line that a piece writes whole cleared (R305). -/
def State.recall (s : State) (g : Nat × Nat) : State :=
  { s with deleg := (stampKeys g.1 g.2).foldl (fun (d : Tbl Nat Nat) k => d.del k) s.deleg }
def State.unpoison (s : State) (g : Nat × Nat) : State :=
  if wholeLine g then { s with poison := s.poison.filter (· ≠ lineOf g.1) } else s

/-- Pieces of a host's or a peer's access read, and stored, at their homes under a context's key; delegations of their words are
recalled first (R192). -/
def State.outerRead (s : State) (c : Ctx) (cells : List (Nat × Nat)) : State × List Byte :=
  cells.foldl (fun (acc : State × List Byte) g =>
    let w := (acc.1.recall g).homeRead none c.draw acc.1.maxTs g.1 g.2
    ({ w.1 with maxTs := max w.1.maxTs w.2.2 }, acc.2 ++ w.2.1)) (s, [])
def State.outerWrite (s : State) (c : Ctx) (cells : List (Nat × Nat)) (b : List Byte) : State :=
  (cells.foldl (fun (acc : State × List Byte) g =>
    let w := (acc.1.recall g).homeWrite none c.draw acc.1.maxTs g.1 g.2 (some (acc.2.take g.2))
    ({ w.1.unpoison g with maxTs := max w.1.maxTs w.2 }, acc.2.drop g.2)) (s, b)).1

/-- HOST_ACCESS (R274): inside a window of the context it is performed at the home in its arrival order; outside, a read
gives all ones and a write is dropped. `addr` is the device-virtual address behind the HDM range. -/
def execHostAccess (key : Nat) (addr : D64) (size : Nat) (store : Option Nat) (s : State) : Out :=
  let outside : State :=
    { s with outbox := s.outbox ++ [.hostOutside addr] ++
        (match store with | some _ => [] | none => [.hostRead (List.replicate size 0xFF)]) }
  ok (if s.board.link ≠ .up then s
    else match s.ctx key with
      | none => outside
      | some c =>
        let parts := (pageSplit addr size).map (fun p => (p, walk s.mem c.root p.1))
        if !(c.wins.any (fun w => w.1.toNat ≤ addr.toNat && addr.toNat + size ≤ w.1.toNat + w.2)) ||
            parts.any (fun x => match x.2 with | some t => t.home ≠ 0 | none => true) then outside
        else
          let cells := parts.flatMap (fun x => match x.2 with
            | some t => (cutAt 128 (transLoc c t x.1.1) x.1.2).map (fun g => (transLoc c t x.1.1 + g.1, g.2))
            | none => [])
          match store with
          | some v => s.outerWrite c cells (leBytes size v)
          | none =>
            let r := s.outerRead c cells
            { r.1 with outbox := r.1.outbox ++ [.hostRead r.2] })

/-- One access of a peer performed at its pieces: the state, what it answers. -/
def State.peerPerform (s : State) (c : Ctx) (pa size : Nat) (op : PeerOp) : State × List Byte :=
  let cells := (cutAt 128 pa size).map (fun g => (hbmLoc pa + g.1, g.2))
  match op with
  | .load => s.outerRead c cells
  | .store d => (s.outerWrite c cells (leBytes size d), [])
  | .atomic fn b d mode =>
    let s := s.recall (hbmLoc pa, size)
    let r := s.fetchBytes c.draw (hbmLoc pa) size
    let old := ofLe r.1
    let new := if atomWrites fn old b then some (leBytes size (atomF fn mode old b d)) else none
    let w := r.2.homeWrite none c.draw r.2.maxTs (hbmLoc pa) size new
    ({ w.1 with maxTs := max w.1.maxTs w.2 }, r.1)
  | .count .. | .fail _ => (s, [])

/-- A barrier on which a peer's copies have counted is open while its inbound count is not zero (R329). -/
def State.noteCount (s : State) (port l : Nat) : State :=
  let x := s.port port
  let rest := x.counted.filter (· ≠ l)
  let b := Barrier.of (s.fetchBytes 0 l 16).1
  s.setPort port { x with counted := if b.inbound = 0 then rest else rest ++ [l] }

/-- A count, or a setting of F, of a peer's copy on a barrier that an 0xFF03 designator names here (R220, R223, R275). A slot without
a team of the context is answered as such, which fails the copy at the peer; another bad place is refused. -/
def State.peerBarrier (s : State) (port key : Nat) (bar : D64) (op : BarOp) : State :=
  match if bits bar.toNat 48 16 = 0xFF03 then s.designated key bar.toNat else .bad 1 with
  | .at l =>
    let r := s.barrierAt l s.maxTs op
    ({ r.1 with maxTs := max r.1.maxTs r.2.2 } : State).noteCount port l
  | .away => { s with outbox := s.outbox ++ [.peerAway port bar] }
  | _ => { s with outbox := s.outbox ++ [.peerRefused port] }

/-- PEER_REQUEST (R275): accepted when the context lists the issuing device and key id; performed under its key. The port has then
taken the flit that it expected (R364). -/
def execPeerRequest (port device issuer key pa size : Nat) (op : PeerOp) (s : State) : Out :=
  let refuse : State → State := fun s => { s with outbox := s.outbox ++ [.peerRefused port] }
  ok (if !(s.port port).up then s
    else
      let s := s.setPort port (s.port port).took
      match s.ctx key with
      | some c =>
        if !c.peers.contains (port, device, issuer) then refuse s
        else match op with
          | .count bar n => s.peerBarrier port key bar (.update 0 0 (-(n : Int)) 0)
          | .fail bar => s.peerBarrier port key bar .fail
          | _ =>
            if Config.firmwareBase < pa + size then refuse s
            else
              let r := s.peerPerform c pa size op
              { r.1 with outbox := r.1.outbox ++ [.peerAnswer port r.2] }
      | none => refuse s)

end Sys2Proof.Machine
end

