-- ==== Sys2Proof/Machine/Salu.lean ====
section
/-! DEFINITION. Major 11: the uniform scalar unit (R111). -/

namespace Sys2Proof.Machine

/-- One s result from two s sources, once for the entry. -/
def State.sbin (s : State) (o : S3) (f : D64 → D64 → D64) (e : List Nat) : LaneOut :=
  let L := s.sel.lane (e.headD 0)
  putRegs [.s o.d.toNat (f (s.getS L o.a.toNat) (s.getS L o.b.toNat))]

/-- SADD (R111). -/
def execSadd (o : S3) (s : State) : Out := ok (s.once (s.guard (.sadd o)) (s.sbin o (fun a b => a + b)))

/-- SSUB (R111). -/
def execSsub (o : S3) (s : State) : Out := ok (s.once (s.guard (.ssub o)) (s.sbin o (fun a b => a - b)))

/-- SMUL (R111). -/
def execSmul (o : S3) (s : State) : Out := ok (s.once (s.guard (.smul o)) (s.sbin o (fun a b => a * b)))

/-- SAND (R111). -/
def execSand (o : S3) (s : State) : Out := ok (s.once (s.guard (.sand o)) (s.sbin o (fun a b => a &&& b)))

/-- SOR (R111). -/
def execSor (o : S3) (s : State) : Out := ok (s.once (s.guard (.sor o)) (s.sbin o (fun a b => a ||| b)))

/-- SXOR (R111). -/
def execSxor (o : S3) (s : State) : Out := ok (s.once (s.guard (.sxor o)) (s.sbin o (fun a b => a ^^^ b)))

/-- SSHL (R111). -/
def execSshl (o : S3) (s : State) : Out := ok (s.once (s.guard (.sshl o)) (s.sbin o (fun a b => shl a b.toNat)))

/-- SSHR_Z (R111). -/
def execSshrZ (o : S3) (s : State) : Out := ok (s.once (s.guard (.sshrZ o)) (s.sbin o (fun a b => shrZ a b.toNat)))

/-- SSHR_S (R111). -/
def execSshrS (o : S3) (s : State) : Out := ok (s.once (s.guard (.sshrS o)) (s.sbin o (fun a b => shrS a b.toNat)))

/-- SMIN_S (R111). -/
def execSminS (o : S3) (s : State) : Out := ok (s.once (s.guard (.sminS o)) (s.sbin o (minS)))

/-- SMAX_S (R111). -/
def execSmaxS (o : S3) (s : State) : Out := ok (s.once (s.guard (.smaxS o)) (s.sbin o (maxS)))

/-- SSETEQ (R111). -/
def execSseteq (o : S3) (s : State) : Out :=
  ok (s.once (s.guard (.sseteq o)) (s.sbin o (fun a b => if a = b then 1 else 0)))

/-- SSETLT_S (R111). -/
def execSsetltS (o : S3) (s : State) : Out :=
  ok (s.once (s.guard (.ssetltS o)) (s.sbin o (fun a b => if a.toInt < b.toInt then 1 else 0)))

/-- SSETLT_Z (R111). -/
def execSsetltZ (o : S3) (s : State) : Out :=
  ok (s.once (s.guard (.ssetltZ o)) (s.sbin o (fun a b => if a.toNat < b.toNat then 1 else 0)))

/-- SADDI (R111). -/
def execSaddi (o : SI) (s : State) : Out := ok (s.once (s.guard (.saddi o)) (fun e =>
    putRegs [.s o.d.toNat (s.getS (s.sel.lane (e.headD 0)) o.a.toNat + o.imm.signExtend 64)]))

end Sys2Proof.Machine
end

