-- ==== Sys2Proof/Machine/Svcev.lean ====
section
/-! DEFINITION. Firmware's services and their replies (R197, R280 to R282). -/

namespace Sys2Proof.Machine

/-- The next request that firmware serves: the oldest without an answer, if it has this code (R282). -/
def Ctx.nextReq (c : Ctx) (code : Nat) : Option Req :=
  match c.reqs.find? (fun r => r.reply = none) with
  | some r => if r.code = code then some r else none
  | none => none

/-- A request answered: its reply is committed together with its effect, and the ring's position is journalled, by whichever Preron core
serves the ring (R328). -/
def State.answerReq (s : State) (c : Ctx) (r : Req) (w0 w1 : W32) : State :=
  let n := s.ringOf c.key
  let p := s.preron n
  (s.setPreron n { p with ringPos := p.ringPos + 1 }).setCtx
    { c with reqs := c.reqs.map (fun x => if x.seq = r.seq then { x with reply := some (w0, w1), ts := max x.ts s.maxTs } else x) }

/-- A reply on its way to its registers, in the shape of a load's answer. -/
def Req.toAccess (r : Req) (s : State) (w0 w1 : W32) : Access :=
  let t := s.team r.team
  { id := r.issued, key := t.key, jn := t.jn, team := r.team, group := r.group, lanes := [r.lane], core := t.core, kind := 10,
    op := .ld r.d false, va := 0, size := 8, major := 26, fn := 1, ctl := 0, stage := .done, page := 0, locs := [], home := 0, port := 0,
    seq := 0, cause := 0, bytes := leBytes 4 w0.toNat ++ leBytes 4 w1.toNat, ts := r.ts, poison := false }

/-- SVC_REPLY (R280): the reply fills its registers, wherever the lane's group is (R318, R351); for a lane that has exited it is
discarded. -/
def execSvcReply (key seq : Nat) (s : State) : Out :=
  ok (match s.ctx key with
    | none => s
    | some c =>
      match c.reqs.find? (fun r => r.seq = seq) with
      | none => s
      | some r =>
        match r.reply with
        | none => s
        | some (w0, w1) =>
          let L : LaneId := ⟨r.team, r.group, r.lane⟩
          let t := s.setCtx { c with reqs := c.reqs.filter (fun x => x.seq ≠ seq) }
          if !s.receives L then t
          else (t.setLane L { s.lane L with pts := max (s.lane L).pts r.ts }).deliver (r.toAccess s w0 w1))

/-- The 64-bit value of the first two arguments of a request. -/
def Req.arg64 (r : Req) : Nat := (pair (r.args.getD 0 0) (r.args.getD 1 0)).toNat

/-- The heap's first address (R266). -/
def heapBase : Nat := 0x10000000000

/-- The lowest free run of `n` bytes with an alignment, in the heap's address range (R282). -/
def Ctx.freeBlock (c : Ctx) (n align : Nat) : Option Nat :=
  let starts := heapBase :: c.heap.map (fun b => roundUp (b.1 + b.2) align)
  minBy id (starts.filter (fun a => a + n ≤ heapBase + c.quota && c.heap.all (fun b => a + n ≤ b.1 || b.1 + b.2 ≤ a)))

/-- ALLOC (R282). `short` says that device memory to back the block is short. The bytes of a block are unspecified; where it covers
bytes that the same context wrote before a FREE, the model leaves those (log entry 99). -/
def execAlloc (key : Nat) (short : Bool) (s : State) : Out :=
  ok (match s.ctx key with
    | none => s
    | some c =>
      match c.nextReq 1 with
      | none => s
      | some r =>
        let n := roundUp r.arg64 256
        let lg := if r.args.getD 2 0 = 0 then 8 else (r.args.getD 2 0).toNat
        if r.arg64 = 0 || lg < 8 || 21 < lg then s.answerReq c r 0 2
        else match c.freeBlock n (2 ^ lg) with
          | none => s.answerReq c r 0 1
          | some a =>
            if short then s.answerReq c r 0 3
            else s.answerReq { c with heap := c.heap ++ [(a, n)] } r (BitVec.ofNat 32 a) (BitVec.ofNat 32 (a / 2 ^ 32)))

/-- FREE (R282). -/
def execFree (key : Nat) (s : State) : Out :=
  ok (match s.ctx key with
    | none => s
    | some c =>
      match c.nextReq 2 with
      | none => s
      | some r =>
        if c.heap.any (fun b => b.1 = r.arg64) then
          s.answerReq { c with heap := c.heap.filter (fun b => b.1 ≠ r.arg64) } r 0 0
        else s.answerReq c r 1 0)

/-- HOSTCALL (R282): the host's two words, or all ones while its link is down. -/
def execHostcall (key : Nat) (r0 r1 : W32) (s : State) : Out :=
  ok (match s.ctx key with
    | none => s
    | some c =>
      match c.nextReq 3 with
      | none => s
      | some r =>
        if s.board.link = .up then
          ({ s with outbox := s.outbox ++ [.hostCall key r.seq r.args] } : State).answerReq c r r0 r1
        else s.answerReq c r 0xFFFFFFFF 0xFFFFFFFF)

/-! ### Migration (R197) -/

/-- Where a migrated page lies: its first location and its bytes. -/
structure PageSpan where
  start : Nat
  size : Nat
  deriving DecidableEq, Repr

/-- Whether a location lies in a span, and the same place in another span. -/
def PageSpan.has (p : PageSpan) (l : Nat) : Bool := p.start ≤ l && l < p.start + p.size
def PageSpan.shift (p : PageSpan) (q : PageSpan) (l : Nat) : Nat := if p.has l then q.start + (l - p.start) else l

/-- The span behind a translation of an address (R271, R273). -/
def spanOf (c : Ctx) (t : Trans) (va : D64) : PageSpan :=
  let size := 4096 * sizeFrames t.size
  ⟨transLoc c t va / size * size, size⟩

/-- The greatest time that the old home of a page has given to a read of it (R185, R197): in its words' stamps, in its frames' times, and
for a host page in what its slices' failed predecessors had issued. -/
def State.lastRts (s : State) (p : PageSpan) : Nat :=
  let words := s.stamps.foldl (fun (m : Nat) x => if p.has (4 * x.1) then max m x.2.rts else m) 0
  let frames := s.pages.foldl (fun (m : Nat) x => if p.has (4096 * x.1) then max m x.2.cts else m) words
  if isHbm p.start then frames
  else s.floors.foldl (fun (m : Nat) x =>
    if (List.range (p.size / 128)).any (fun i => sliceOf (p.start % 2 ^ 64 + 128 * i) = x.1) then max m x.2 else m) frames

/-- The keys of the lines of a page after its move: a line moved within HBM keeps the key that it was last written under, one that
comes from the host takes the context's. -/
def State.movedKeys (s : State) (draw : Nat) (p q : PageSpan) (cells : Memory) : Tbl Nat Nat :=
  let rest := s.lineKey.filter (fun x => !(p.has (128 * x.1)) && !(q.has (128 * x.1)))
  if !isHbm q.start then rest
  else if isHbm p.start then
    rest ++ (s.lineKey.filter (fun x => p.has (128 * x.1))).map (fun x => (lineOf (p.shift q (128 * x.1)), x.2))
  else rest ++ (nub (cells.map (fun x => lineOf (p.shift q x.1)))).map (fun l => (l, draw))

/-- The bytes of a page moved to its new home: lines keep their poison, every word takes the greatest rts of the old home, which its
frame's time then stands for, and accesses that waited there go on at the new place. To the host go the bytes that the context itself reads. Both frames are
unclassified, and the version of the new one rises, which the manual does not say (log entry 101). -/
def State.movePage (s : State) (draw : Nat) (p q : PageSpan) : State :=
  let both := fun (l : Nat) => p.has l || q.has l
  let s := ((s.proxy.map (·.1)).filter (fun l => both (128 * l))).foldl (fun s l => s.giveUpLine l) s
  let cells := s.mem.filter (fun x => p.has x.1 && (isHbm q.start || !isHbm p.start || s.lineKey.get 0 (lineOf x.1) = draw))
  let top := s.lastRts p
  let frames := (List.range (q.size / 4096)).map (fun i => frameOf q.start + i)
  let u := (s.untag (fun t => both (128 * t.line))).unmapIf (fun f => p.has (4096 * f))
  { u with
    mem := cells.foldl (fun m x => m.put (p.shift q x.1) x.2) (s.mem.forget both),
    lineKey := s.movedKeys draw p q cells,
    poison := s.poison.map (fun l => lineOf (p.shift q (128 * l))),
    copies1 := s.copies1.filter (fun x => !both (4 * x.1.2)),
    stamps := s.stamps.filter (fun x => !both (4 * x.1)),
    pages := frames.foldl (fun t f =>
      let o := Tbl.get (⟨none, false, 0, 0⟩ : Page) t f
      t.set f { owner := none, shared := false, cts := top, version := (o.version + 1) % 2 ^ 32 }) u.pages,
    accs := s.accs.map (fun a =>
      if a.locs.any (fun g => p.has g.1) then
        { a with locs := a.locs.map (fun g => (p.shift q g.1, g.2)), home := if isHbm q.start then 0 else 1 }
      else a) }

/-- MIGRATE (R197, R282): to the home that the request names; `target` is the new frame or host place of firmware's choice,
none when there is no room, and `tables` are the table writes that map it. No page of a host window moves (R274). The page's TLB entries
are dropped (R196). -/
def execMigrate (key : Nat) (target : Option Nat) (tables : List (Nat × D64)) (s : State) : Out :=
  ok (match s.ctx key with
    | none => s
    | some c =>
      match c.nextReq 4 with
      | none => s
      | some r =>
        let va : D64 := BitVec.ofNat 64 r.arg64
        let want := (r.args.getD 2 0).toNat
        if 1 < want then (s.tick 1).answerReq c r (lo32 (Config.freeWord s.fresh)) (hi32 (Config.freeWord s.fresh))
        else match walk s.mem c.root va with
          | none => s.answerReq c r 1 0
          | some t =>
            if vspace va ≠ .ordinary || 1 < t.home || (want = 1 && c.pasid = none) || target = none ||
                c.pinned (leafRange (some t) va).1 (leafRange (some t) va).2 then s.answerReq c r 1 0
            else
              let mem := writeTables s.mem (tables.filter tableWrite)
              match walk mem c.root va with
              | some u =>
                let p := spanOf c t va
                let q := spanOf c u va
                if u.home ≠ want || u.size ≠ t.size || s.othersMap key mem (c.runsIn mem) || s.winsMove c mem || (want = 0 && (some q.start ≠ target || Config.firmwareBase < q.start + q.size))
                then s
                else
                  let s := { s with mem := mem }
                  let s := if p = q then s else s.movePage c.draw p q
                  let x := leafRange (some t) va
                  ({ s with tlb := s.tlb.filter (fun e => !(e.1.2.1 = key && inRange x.1 x.2 e.1.2.2)) } : State).answerReq c r 0 0
              | none => s)

end Sys2Proof.Machine
end

