-- ==== Sys2Proof/Machine/Sync.lean ====
section
/-! DEFINITION. Major 24: waiting, shared registers, sleep and yield (R239, R251 to R255). -/

namespace Sys2Proof.Machine

/-- A lane that takes a value (R254): its time is at least the sender's, and what it issues from now on stands after the
sender's accesses that are not yet performed. -/
def State.taker (s : State) (L : LaneId) (a : Nat) : Lane :=
  let l := s.lane L
  let r := s.rid L .v a
  let l := { l with pts := max l.pts (s.rstamps.get ⟨0, 0⟩ r).wts }
  match s.sent.find r with
  | some (K, ids) =>
    { l with pts := max l.pts (s.lane K).pts,
             after := l.after.filter (fun x => s.pendingAcc x.1) ++ (ids.filter s.pendingAcc).map (fun i => (i, s.nextId)) }
  | none => l

/-- WAITF (R252). -/
def execWaitf (r : BitVec 6) (c : BitVec 3) (s : State) : Out :=
  ok (s.perLane (s.plain (usesWaitf r c)) (fun _ => .done {}))

/-- WAITF_ALL (R252). -/
def execWaitfAll (s : State) : Out := ok (s.perLane (s.guard .waitfAll) (fun _ => .done {}))

/-- SETE (R253). -/
def execSete (d : BitVec 6) (s : State) : Out :=
  ok (s.perLane (((s.plain (usesSete d)).holding (fun L => s.seteWait d.toNat L || s.behindTaker d.toNat L)).barred (!(s.hdr s.sel.team).shared d.toNat))
    (fun _ => .done { empties := [(.v, d.toNat)] }))

/-- SHSEND (R253). -/
def execShsend (d : BitVec 6) (a : BitVec 6) (s : State) : Out :=
  ok (s.perLane (((s.plain (usesShsend d a)).holding (s.shsendWait d.toNat)).barred (!(s.hdr s.sel.team).shared d.toNat))
    (fun L => .done { writes := [.v d.toNat (s.getV L a.toNat)], stamps := [d.toNat] }))

/-- SHTAKE (R253). -/
def execShtake (d : BitVec 6) (a : BitVec 6) (s : State) : Out :=
  ok (s.perLane (((s.plain (usesShtake d a)).holding (s.behindTaker a.toNat)).barred (!(s.hdr s.sel.team).shared a.toNat))
    (fun L => .done { writes := [.v d.toNat (s.getV L a.toNat)], empties := [(.v, a.toNat)], lane := some (s.taker L a.toNat) }))

/-- SLEEP (R255). -/
def execSleep (n : BitVec 10) (s : State) : Out := ok (s.perLane (s.plain []) (fun _ =>
    .done { go := if n.toNat = 0 then .fall else .hold (.sleep (s.clock + 16 * n.toNat)) }))

/-- YIELD (R239). -/
def execYield (s : State) : Out :=
  ok (s.perLane (s.guard .yield) (fun L => .done { lane := some { s.lane L with mark := true } }))

/-- NOP (R251). -/
def execNop (s : State) : Out := ok (s.perLane (s.guard .nop) (fun _ => .done {}))

end Sys2Proof.Machine
end

