-- ==== Sys2Proof/Machine/Sys.lean ====
section
/-! DEFINITION. Major 26: traps, service calls and special registers (R276 to R281). -/

namespace Sys2Proof.Machine

/-- The request of SVC (R280, R281): v[a] to v[a+3] and the timestamp at issue. -/
def State.svcAsk (s : State) (L : LaneId) (d a c : Nat) : Ask :=
  ⟨.svc d c ((List.range 4).map (fun i => s.getV L (a + i))) (s.lane L).pts, 0, 64, 10, s.wordTag, []⟩

/-- The value of a special register for a lane (R27, R28). -/
def State.sreg (s : State) (L : LaneId) (r : Nat) : D64 :=
  let l := s.lane L
  let t := s.team L.team
  let g := s.group L.team L.group
  let n := fun (x : Nat) => BitVec.ofNat 64 x
  let rec0 := (s.launches.find t.jn).map (·.record)
  let fld := fun (f : Record → Nat) => (rec0.map f).getD 0
  match r with
  | 0x000 => n L.lane
  | 0x001 => n g.idx
  | 0x002 => n g.role
  | 0x003 => n (t.lin % fld (·.gx))
  | 0x004 => n (t.lin / fld (·.gx) % fld (·.gy))
  | 0x005 => n (t.lin / (fld (·.gx) * fld (·.gy)))
  | 0x006 => n (fld (·.gx))
  | 0x007 => n (fld (·.gy))
  | 0x008 => n (fld (·.gz))
  | 0x009 => n (s.hdr L.team).width
  | 0x00A => n (fld (fun x => x.paddr.toNat))
  | 0x010 => l.mode.zeroExtend 64
  | 0x011 => l.prec.zeroExtend 64
  | 0x012 => l.dctl.zeroExtend 64
  | 0x018 => n s.clock
  | 0x020 => l.tcause.zeroExtend 64
  | 0x021 => l.tpc
  | 0x022 => l.tval
  | 0x030 => n t.key
  | _ => n (s.coreOf L.team)

/-- A lane after SWRITE of a register of R279; TCAUSE written 0 ends the handler state (R64). -/
def State.swritten (s : State) (L : LaneId) (r : Nat) (x : W32) (y : D64) : Lane :=
  let l := s.lane L
  match r with
  | 0x010 => { l with mode := modeWrite x }
  | 0x011 => { l with prec := precWrite x }
  | 0x012 => { l with dctl := dctlWrite x }
  | 0x020 =>
    let l := { l with tcause := x &&& 0xFF }
    if x &&& 0xFF = 0 then l.leaveHandler else l
  | 0x021 => { l with tpc := y &&& 0x0FFFFFFFFFFFFFFF }
  | _ => { l with tval := y }

/-- The halt that BRK makes for a debugger: no entry of the group is chosen until it is run (R277, R321), and the runs and copies of
the whole team stop (R141, R224; log entry 100). -/
def State.debugHalt (s : State) (t g : Nat) : State :=
  (s.setGroup t g { s.group t g with dbg := true, brk := true }).discardBlocks (fun r => r.team = t)

/-- BRK without a debugger (R277). -/
def State.brkTrap (s : State) (n : BitVec 10) : State :=
  s.perLane ((s.plain []).goes (fun _ => none)) (fun _ => .trap 11 (n.zeroExtend 64))

/-- TRAP (R277). -/
def execTrap (n : BitVec 10) (s : State) : Out :=
  ok (s.perLane ((s.plain []).goes (fun _ => none)) (fun _ => .trap 10 (n.zeroExtend 64)))

/-- SVC (R280). -/
def execSvc (d : BitVec 6) (a : BitVec 6) (c : BitVec 10) (s : State) : Out :=
  ok (s.perLane ((s.plain (usesSvc d a)).holding (fun L => s.svcWait L || s.asksWait L))
    (fun L => .done { empties := [(.v, d.toNat), (.v, d.toNat + 1)], asks := [s.svcAsk L d.toNat a.toNat c.toNat] }))

/-- SREAD (R278). -/
def execSread (d : BitVec 6) (r : BitVec 10) (s : State) : Out :=
  ok (s.perLane ((s.plain (usesSread d r)).holding (s.flagWait r.toNat))
    (fun L => putRegs (if sregWidth r.toNat = 2 then v2 d.toNat (s.sreg L r.toNat) else [.v d.toNat (lo32 (s.sreg L r.toNat))])))

/-- SWRITE (R279). -/
def execSwrite (a : BitVec 6) (r : BitVec 10) (s : State) : Out :=
  ok (s.perLane ((s.plain (usesSwrite a r)).holding (s.flagWait r.toNat))
    (fun L => .done { lane := some (s.swritten L r.toNat (s.getV L a.toNat) (s.getV2 L a.toNat)) }))

/-- BRK (R277). -/
def execBrk (n : BitVec 10) (s : State) : Out := ok (match s.ctx (s.team s.sel.team).key with
    | some c => if c.dbg then s.debugHalt s.sel.team s.sel.group else s.brkTrap n
    | none => s.brkTrap n)

/-- ILLEG (R59). -/
def execIlleg (s : State) : Out := ok (s.perLane (s.guard .illeg) (fun _ => .trap 1 (s.sel.word.zeroExtend 64)))

end Sys2Proof.Machine
end

