-- ==== Sys2Proof/Machine/Vcmp.lean ====
section
/-! DEFINITION. Major 8: compares, predicate logic and select (R103 to R105). -/

namespace Sys2Proof.Machine



/-- FSET (R103). -/
def execFset (o : Cmp) (s : State) : Out := ok (s.perLane (s.guard (.fset o)) (fun L =>
    putRegs [.p o.p.toNat (fcond .f32 (s.modeF L).fz32 o.cc.toNat (s.getV L o.a.toNat).toNat (s.getV L o.b.toNat).toNat)]))

/-- FSET_F64 (R103). -/
def execFsetF64 (o : Cmp) (s : State) : Out := ok (s.perLane (s.guard (.fsetF64 o)) (fun L =>
    putRegs [.p o.p.toNat (fcond .f64 (s.modeF L).fz64 o.cc.toNat (s.getV2 L o.a.toNat).toNat (s.getV2 L o.b.toNat).toNat)]))

/-- ISET (R103). -/
def execIset (o : Cmp) (s : State) : Out := ok (s.perLane (s.guard (.iset o)) (fun L =>
    putRegs [.p o.p.toNat (icond o.cc.toNat (s.getV L o.a.toNat) (s.getV L o.b.toNat))]))

/-- ISET64 (R103). -/
def execIset64 (o : Cmp) (s : State) : Out := ok (s.perLane (s.guard (.iset64 o)) (fun L =>
    putRegs [.p o.p.toNat (icond o.cc.toNat (s.getV2 L o.a.toNat) (s.getV2 L o.b.toNat))]))

/-- PLOP (R104). -/
def execPlop (o : Plop) (s : State) : Out := ok (s.perLane (s.guard (.plop o)) (fun L =>
    putRegs [.p o.pd.toNat (plopOf o.op.toNat (s.getP L o.pa.toNat) (s.getP L o.pb.toNat))]))

/-- SEL (R105). -/
def execSel (o : Sys2Proof.Sel) (s : State) : Out := ok (s.perLane (s.guard (.sel o)) (fun L =>
    putRegs [.v o.d.toNat (if s.getP L o.p.toNat != o.neg then s.getV L o.a.toNat else s.getV L o.b.toNat)]))

end Sys2Proof.Machine
end

