-- ==== Sys2Proof/Machine/Vcvt.lean ====
section
/-! DEFINITION. Major 6: conversions (R70, R74, R100). -/

namespace Sys2Proof.Machine

/-- The rounding that the selector names (R58, R84). -/
def State.cvtRm (s : State) (L : LaneId) (o : Cvt) : Rm :=
  match o.sel with
  | some x => Rm.of x.toNat
  | none => (s.modeF L).rm

/-- A conversion between floating formats of an encoding (R74, R100). -/
def State.conv (s : State) (L : LaneId) (o : Cvt) (f g : Fmt) (x : Nat) : Nat :=
  convert f g (s.cvtRm L o) ((s.modeF L).fz f) ((s.modeF L).fz g) (x % (2 * f.signBit))

/-- A single-register conversion; of a 16-bit source bits [31:16] are ignored, of a 16-bit result they are 0. -/
def State.conv32 (s : State) (o : Cvt) (f g : Fmt) (L : LaneId) : LaneOut :=
  putRegs [.v o.d.toNat (BitVec.ofNat 32 (s.conv L o f g (s.getV L o.a.toNat).toNat))]

/-- An integer source to f32. -/
def State.toF32 (s : State) (o : Cvt) (f : W32 → Fval) (L : LaneId) : LaneOut :=
  putRegs [.v o.d.toNat (BitVec.ofNat 32 (Fmt.f32.put (s.cvtRm L o) (s.modeF L).fz32 (f (s.getV L o.a.toNat))))]

/-- An f32 source to an integer with limits (R70). -/
def State.toI32 (s : State) (o : Cvt) (lo hi : Int) (L : LaneId) : LaneOut :=
  putRegs [.v o.d.toNat (BitVec.ofInt 32
    (cvtInt lo hi (s.cvtRm L o) (Fmt.f32.get (s.modeF L).fz32 (s.getV L o.a.toNat).toNat)))]

/-- Two f32 sources to a packed pair. -/
def State.pack (s : State) (o : Cvt) (g : Fmt) (L : LaneId) : LaneOut :=
  putRegs [.v o.d.toNat (BitVec.ofNat 32 (s.conv L o .f32 g (s.getV L o.a.toNat).toNat +
    s.conv L o .f32 g (s.getV L (o.a.toNat + 1)).toNat * 2 ^ 16))]

/-- CVT_F32_S32 (R100). -/
def execCvtF32S32 (o : Cvt) (s : State) : Out :=
  ok (s.perLane (s.guard (.cvtF32S32 o)) (s.toF32 o (fun a => .ofInt a.toInt)))

/-- CVT_F32_Z32 (R100). -/
def execCvtF32Z32 (o : Cvt) (s : State) : Out :=
  ok (s.perLane (s.guard (.cvtF32Z32 o)) (s.toF32 o (fun a => .ofInt a.toNat)))

/-- CVT_S32_F32 (R100). -/
def execCvtS32F32 (o : Cvt) (s : State) : Out :=
  ok (s.perLane (s.guard (.cvtS32F32 o)) (s.toI32 o (-2 ^ 31) (2 ^ 31 - 1)))

/-- CVT_Z32_F32 (R100). -/
def execCvtZ32F32 (o : Cvt) (s : State) : Out := ok (s.perLane (s.guard (.cvtZ32F32 o)) (s.toI32 o 0 (2 ^ 32 - 1)))

/-- CVT_F32_F16 (R100). -/
def execCvtF32F16 (o : Cvt) (s : State) : Out := ok (s.perLane (s.guard (.cvtF32F16 o)) (s.conv32 o .f16 .f32))

/-- CVT_F16_F32 (R100). -/
def execCvtF16F32 (o : Cvt) (s : State) : Out := ok (s.perLane (s.guard (.cvtF16F32 o)) (s.conv32 o .f32 .f16))

/-- CVT_F32_B16 (R100). -/
def execCvtF32B16 (o : Cvt) (s : State) : Out := ok (s.perLane (s.guard (.cvtF32B16 o)) (s.conv32 o .b16 .f32))

/-- CVT_B16_F32 (R100). -/
def execCvtB16F32 (o : Cvt) (s : State) : Out := ok (s.perLane (s.guard (.cvtB16F32 o)) (s.conv32 o .f32 .b16))

/-- CVT_F64_F32 (R100). -/
def execCvtF64F32 (o : Cvt) (s : State) : Out := ok (s.perLane (s.guard (.cvtF64F32 o)) (fun L =>
    putRegs (v2 o.d.toNat (BitVec.ofNat 64 (s.conv L o .f32 .f64 (s.getV L o.a.toNat).toNat)))))

/-- CVT_F32_F64 (R100). -/
def execCvtF32F64 (o : Cvt) (s : State) : Out := ok (s.perLane (s.guard (.cvtF32F64 o)) (fun L =>
    putRegs [.v o.d.toNat (BitVec.ofNat 32 (s.conv L o .f64 .f32 (s.getV2 L o.a.toNat).toNat))]))

/-- CVT_F64_S64 (R100). -/
def execCvtF64S64 (o : Cvt) (s : State) : Out := ok (s.perLane (s.guard (.cvtF64S64 o)) (fun L =>
    putRegs (v2 o.d.toNat (BitVec.ofNat 64 (Fmt.f64.put (s.cvtRm L o) (s.modeF L).fz64 (.ofInt (s.getV2 L o.a.toNat).toInt))))))

/-- CVT_S64_F64 (R100). -/
def execCvtS64F64 (o : Cvt) (s : State) : Out := ok (s.perLane (s.guard (.cvtS64F64 o)) (fun L =>
    putRegs (v2 o.d.toNat (BitVec.ofInt 64 (cvtInt (-2 ^ 63) (2 ^ 63 - 1) (s.cvtRm L o)
      (Fmt.f64.get (s.modeF L).fz64 (s.getV2 L o.a.toNat).toNat))))))

/-- PACK_F16 (R100). -/
def execPackF16 (o : Cvt) (s : State) : Out := ok (s.perLane (s.guard (.packF16 o)) (s.pack o .f16))

/-- PACK_B16 (R100). -/
def execPackB16 (o : Cvt) (s : State) : Out := ok (s.perLane (s.guard (.packB16 o)) (s.pack o .b16))

end Sys2Proof.Machine
end

