-- ==== Sys2Proof/Machine/Vdbl.lean ====
section
/-! DEFINITION. Major 4: double-precision operations on pairs (R98). -/

namespace Sys2Proof.Machine



/-- FADD_F64 (R98). -/
def execFaddF64 (o : V3) (s : State) : Out :=
  ok (s.perLane (s.guard (.faddF64 o)) (s.dbin o (fun f m => flop2 f m opAdd)))

/-- FSUB_F64 (R98). -/
def execFsubF64 (o : V3) (s : State) : Out :=
  ok (s.perLane (s.guard (.fsubF64 o)) (s.dbin o (fun f m => flop2 f m opSub)))

/-- FMUL_F64 (R98). -/
def execFmulF64 (o : V3) (s : State) : Out :=
  ok (s.perLane (s.guard (.fmulF64 o)) (s.dbin o (fun f m => flop2 f m opMul)))

/-- FDIV_F64 (R98). -/
def execFdivF64 (o : V3) (s : State) : Out :=
  ok (s.perLane (s.guard (.fdivF64 o)) (s.dbin o (fun f m => flop2 f m opDiv)))

/-- FMIN_F64 (R98). -/
def execFminF64 (o : V3) (s : State) : Out := ok (s.perLane (s.guard (.fminF64 o)) (s.dbin o fminOf))

/-- FMAX_F64 (R98). -/
def execFmaxF64 (o : V3) (s : State) : Out := ok (s.perLane (s.guard (.fmaxF64 o)) (s.dbin o fmaxOf))

/-- FABS_F64 (R98). -/
def execFabsF64 (o : V3U) (s : State) : Out :=
  ok (s.perLane (s.guard (.fabsF64 o)) (s.un64 o (fun a => a &&& 0x7FFFFFFFFFFFFFFF)))

/-- FNEG_F64 (R98). -/
def execFnegF64 (o : V3U) (s : State) : Out :=
  ok (s.perLane (s.guard (.fnegF64 o)) (s.un64 o (fun a => a ^^^ 0x8000000000000000)))

/-- FSQRT_F64 (R98). -/
def execFsqrtF64 (o : V3U) (s : State) : Out :=
  ok (s.perLane (s.guard (.fsqrtF64 o)) (s.dun o (fun f m => flop1 f m (Fval.sqrt 64))))

end Sys2Proof.Machine
end

