-- ==== Sys2Proof/Machine/Vflt.lean ====
section
/-! DEFINITION. Major 2: single-precision operations (R96). -/

namespace Sys2Proof.Machine



/-- FADD (R96). -/
def execFadd (o : V3) (s : State) : Out := ok (s.perLane (s.guard (.fadd o)) (s.fbin o (fun f m => flop2 f m opAdd)))

/-- FSUB (R96). -/
def execFsub (o : V3) (s : State) : Out := ok (s.perLane (s.guard (.fsub o)) (s.fbin o (fun f m => flop2 f m opSub)))

/-- FMUL (R96). -/
def execFmul (o : V3) (s : State) : Out := ok (s.perLane (s.guard (.fmul o)) (s.fbin o (fun f m => flop2 f m opMul)))

/-- FMIN (R96). -/
def execFmin (o : V3) (s : State) : Out := ok (s.perLane (s.guard (.fmin o)) (s.fbin o fminOf))

/-- FMAX (R96). -/
def execFmax (o : V3) (s : State) : Out := ok (s.perLane (s.guard (.fmax o)) (s.fbin o fmaxOf))

/-- FMINN (R96). -/
def execFminn (o : V3) (s : State) : Out :=
  ok (s.perLane (s.guard (.fminn o)) (s.fbin o (fun f m => numOr f m fminOf)))

/-- FMAXN (R96). -/
def execFmaxn (o : V3) (s : State) : Out :=
  ok (s.perLane (s.guard (.fmaxn o)) (s.fbin o (fun f m => numOr f m fmaxOf)))

/-- FABS (R96). -/
def execFabs (o : V3U) (s : State) : Out := ok (s.perLane (s.guard (.fabs o)) (s.un o (fun a => a &&& 0x7FFFFFFF)))

/-- FNEG (R96). -/
def execFneg (o : V3U) (s : State) : Out := ok (s.perLane (s.guard (.fneg o)) (s.un o (fun a => a ^^^ 0x80000000)))

/-- FCPYS (R96). -/
def execFcpys (o : V3) (s : State) : Out :=
  ok (s.perLane (s.guard (.fcpys o)) (s.bin o (fun a b => (a &&& 0x7FFFFFFF) ||| (b &&& 0x80000000))))

/-- FRINT (R96). -/
def execFrint (o : V3U) (s : State) : Out :=
  ok (s.perLane (s.guard (.frint o)) (s.fun1 o (fun f m => rintOf f m m.rm)))

/-- FFLOOR (R96). -/
def execFfloor (o : V3U) (s : State) : Out :=
  ok (s.perLane (s.guard (.ffloor o)) (s.fun1 o (fun f m => rintOf f m .rd)))

/-- FCEIL (R96). -/
def execFceil (o : V3U) (s : State) : Out :=
  ok (s.perLane (s.guard (.fceil o)) (s.fun1 o (fun f m => rintOf f m .ru)))

/-- FTRUNC (R96). -/
def execFtrunc (o : V3U) (s : State) : Out :=
  ok (s.perLane (s.guard (.ftrunc o)) (s.fun1 o (fun f m => rintOf f m .rz)))

/-- FLDEXP (R96). -/
def execFldexp (o : V3) (s : State) : Out := ok (s.perLane (s.guard (.fldexp o)) (fun L =>
    s.bin o (fun a b => BitVec.ofNat 32 (ldexpOf .f32 (s.modeF L) a.toNat b.toInt)) L))

/-- FEXPO (R96). -/
def execFexpo (o : V3U) (s : State) : Out :=
  ok (s.perLane (s.guard (.fexpo o)) (fun L => s.un o (fexpo (s.modeF L)) L))

/-- FCLASS (R96). -/
def execFclass (o : V3U) (s : State) : Out := ok (s.perLane (s.guard (.fclass o)) (s.un o fclass))

end Sys2Proof.Machine
end

