-- ==== Sys2Proof/Machine/Vfuse.lean ====
section
/-! DEFINITION. Major 5: fused operations (R99). -/

namespace Sys2Proof.Machine

/-- bfi of R99. -/
def bfi (a b c : W32) : W32 :=
  let pos := min (bits c.toNat 0 8) 32
  let len := min (bits c.toNat 8 8) (32 - pos)
  let mask := BitVec.ofNat 32 ((2 ^ len - 1) * 2 ^ pos)
  (a &&& ~~~mask) ||| (BitVec.ofNat 32 (b.toNat * 2 ^ pos) &&& mask)

/-- FMA (R99). -/
def execFma (o : V4) (s : State) : Out := ok (s.perLane (s.guard (.fma o)) (s.ftri o opFma))

/-- FMS (R99). -/
def execFms (o : V4) (s : State) : Out := ok (s.perLane (s.guard (.fms o)) (s.ftri o opFms))

/-- FNMA (R99). -/
def execFnma (o : V4) (s : State) : Out := ok (s.perLane (s.guard (.fnma o)) (s.ftri o opFnma))

/-- FMA_F64 (R99). -/
def execFmaF64 (o : V4) (s : State) : Out :=
  ok (s.perLane (s.guard (.fmaF64 o)) (fun L => putRegs (v2 o.d.toNat (BitVec.ofNat 64
    (flop3 .f64 (s.modeF L) opFma (s.getV2 L o.a.toNat).toNat (s.getV2 L o.b.toNat).toNat (s.getV2 L o.c.toNat).toNat)))))

/-- HFMA2 (R99). -/
def execHfma2 (o : V4) (s : State) : Out := ok (s.perLane (s.guard (.hfma2 o)) (s.htri o .f16 opFma))

/-- BFMA2 (R99). -/
def execBfma2 (o : V4) (s : State) : Out := ok (s.perLane (s.guard (.bfma2 o)) (s.htri o .b16 opFma))

/-- IMAD (R99). -/
def execImad (o : V4) (s : State) : Out := ok (s.perLane (s.guard (.imad o)) (s.tri o (fun a b c => a * b + c)))

/-- BFI (R99). -/
def execBfi (o : V4) (s : State) : Out := ok (s.perLane (s.guard (.bfi o)) (s.tri o bfi))

end Sys2Proof.Machine
end

