-- ==== Sys2Proof/Machine/Vhalf.lean ====
section
/-! DEFINITION. Major 3: packed 16-bit operations (R97). -/

namespace Sys2Proof.Machine



/-- HADD2 (R97). -/
def execHadd2 (o : V3) (s : State) : Out :=
  ok (s.perLane (s.guard (.hadd2 o)) (s.hbin o .f16 (fun f m => flop2 f m opAdd)))

/-- HSUB2 (R97). -/
def execHsub2 (o : V3) (s : State) : Out :=
  ok (s.perLane (s.guard (.hsub2 o)) (s.hbin o .f16 (fun f m => flop2 f m opSub)))

/-- HMUL2 (R97). -/
def execHmul2 (o : V3) (s : State) : Out :=
  ok (s.perLane (s.guard (.hmul2 o)) (s.hbin o .f16 (fun f m => flop2 f m opMul)))

/-- HMIN2 (R97). -/
def execHmin2 (o : V3) (s : State) : Out := ok (s.perLane (s.guard (.hmin2 o)) (s.hbin o .f16 fminOf))

/-- HMAX2 (R97). -/
def execHmax2 (o : V3) (s : State) : Out := ok (s.perLane (s.guard (.hmax2 o)) (s.hbin o .f16 fmaxOf))

/-- BADD2 (R97). -/
def execBadd2 (o : V3) (s : State) : Out :=
  ok (s.perLane (s.guard (.badd2 o)) (s.hbin o .b16 (fun f m => flop2 f m opAdd)))

/-- BSUB2 (R97). -/
def execBsub2 (o : V3) (s : State) : Out :=
  ok (s.perLane (s.guard (.bsub2 o)) (s.hbin o .b16 (fun f m => flop2 f m opSub)))

/-- BMUL2 (R97). -/
def execBmul2 (o : V3) (s : State) : Out :=
  ok (s.perLane (s.guard (.bmul2 o)) (s.hbin o .b16 (fun f m => flop2 f m opMul)))

/-- BMIN2 (R97). -/
def execBmin2 (o : V3) (s : State) : Out := ok (s.perLane (s.guard (.bmin2 o)) (s.hbin o .b16 fminOf))

/-- BMAX2 (R97). -/
def execBmax2 (o : V3) (s : State) : Out := ok (s.perLane (s.guard (.bmax2 o)) (s.hbin o .b16 fmaxOf))

end Sys2Proof.Machine
end

