-- ==== Sys2Proof/Machine/Vmove.lean ====
section
/-! DEFINITION. Major 9: immediate moves (R18), and moves between v and s registers (R106). -/

namespace Sys2Proof.Machine

/-- A 64-bit value with its 16 bits from 16k on replaced (R18). -/
def setHalf (k : Nat) (imm : H16) (x : D64) : D64 :=
  (x &&& ~~~(0xFFFF#64 <<< (16 * k))) ||| (imm.zeroExtend 64 <<< (16 * k))

/-- MOVLO (R18). -/
def execMovlo (o : MI) (s : State) : Out :=
  ok (s.perLane (s.guard (.movlo o)) (fun _ => putRegs [.v o.d.toNat (o.imm.zeroExtend 32)]))

/-- MOVHI (R18). -/
def execMovhi (o : MI) (s : State) : Out := ok (s.perLane (s.guard (.movhi o)) (fun L =>
    putRegs [.v o.d.toNat (o.imm ++ (s.getV L o.d.toNat).extractLsb' 0 16)]))

/-- SMOVLO (R18). -/
def execSmovlo (o : SMI) (s : State) : Out :=
  ok (s.once (s.guard (.smovlo o)) (fun _ => putRegs [.s o.d.toNat (o.imm.zeroExtend 64)]))

/-- SMOVHI (R18). -/
def execSmovhi (o : SMI) (s : State) : Out := ok (s.once (s.guard (.smovhi o)) (fun e =>
    putRegs [.s o.d.toNat (setHalf 1 o.imm (s.getS (s.sel.lane (e.headD 0)) o.d.toNat))]))

/-- SMOVH2 (R18). -/
def execSmovh2 (o : SMI) (s : State) : Out := ok (s.once (s.guard (.smovh2 o)) (fun e =>
    putRegs [.s o.d.toNat (setHalf 2 o.imm (s.getS (s.sel.lane (e.headD 0)) o.d.toNat))]))

/-- SMOVH3 (R18). -/
def execSmovh3 (o : SMI) (s : State) : Out := ok (s.once (s.guard (.smovh3 o)) (fun e =>
    putRegs [.s o.d.toNat (setHalf 3 o.imm (s.getS (s.sel.lane (e.headD 0)) o.d.toNat))]))

/-- BCAST (R106). -/
def execBcast (o : Bcast) (s : State) : Out := ok (s.perLane (s.guard (.bcast o)) (fun L =>
    putRegs [.v o.d.toNat (if o.hi then hi32 (s.getS L o.s.toNat) else lo32 (s.getS L o.s.toNat))]))

/-- LANEGET (R106). -/
def execLaneget (o : LaneGet) (s : State) : Out := ok (s.once (s.guard (.laneget o)) (fun _ =>
    let m := s.sel.lane o.lane.toNat
    putRegs [.s o.d.toNat (if (s.lane m).live then (s.getV m o.a.toNat).zeroExtend 64 else 0)]))

end Sys2Proof.Machine
end

