-- ==== Sys2Proof/Machine/Vsfu.lean ====
section
/-! DEFINITION. Major 7: correctly rounded special functions (R101, R102). -/

namespace Sys2Proof.Machine

/-- 1/√a: the root of the quotient, to 128 bits (R102). -/
def rsqrt : Fval → Fval
  | .nan => .nan
  | .inf neg => if neg then .nan else .zero false
  | .fin neg g =>
    if g.m = 0 then .inf neg
    else if neg then .nan
    else .fin false (rsqrtMag g)

/-- FRCP (R101). -/
def execFrcp (o : V3U) (s : State) : Out :=
  ok (s.perLane (s.guard (.frcp o)) (s.fun1 o (fun f m => flop1 f m (fun x => (Fval.ofInt 1).div 64 x))))

/-- FRSQ (R101). -/
def execFrsq (o : V3U) (s : State) : Out := ok (s.perLane (s.guard (.frsq o)) (s.fun1 o (fun f m => flop1 f m rsqrt)))

/-- FSQRT (R101). -/
def execFsqrt (o : V3U) (s : State) : Out :=
  ok (s.perLane (s.guard (.fsqrt o)) (s.fun1 o (fun f m => flop1 f m (Fval.sqrt 64))))

/-- FDIV (R101). -/
def execFdiv (o : V3) (s : State) : Out := ok (s.perLane (s.guard (.fdiv o)) (s.fbin o (fun f m => flop2 f m opDiv)))

/-- FEXP2 (R101). -/
def execFexp2 (o : V3U) (s : State) : Out :=
  ok (s.perLane (s.guard (.fexp2 o)) (s.fun1 o (fun f m => flop1 f m (Fval.exp2 f m.rm))))

/-- FLOG2 (R101). -/
def execFlog2 (o : V3U) (s : State) : Out :=
  ok (s.perLane (s.guard (.flog2 o)) (s.fun1 o (fun f m => flop1 f m (Fval.log2 f m.rm))))

/-- FSINPI (R101). -/
def execFsinpi (o : V3U) (s : State) : Out :=
  ok (s.perLane (s.guard (.fsinpi o)) (s.fun1 o (fun f m => flop1 f m (Fval.sinpi f m.rm))))

/-- FCOSPI (R101). -/
def execFcospi (o : V3U) (s : State) : Out :=
  ok (s.perLane (s.guard (.fcospi o)) (s.fun1 o (fun f m => flop1 f m (Fval.cospi f m.rm))))

/-- FTANH (R101). -/
def execFtanh (o : V3U) (s : State) : Out :=
  ok (s.perLane (s.guard (.ftanh o)) (s.fun1 o (fun f m => flop1 f m (Fval.tanh f m.rm))))

end Sys2Proof.Machine
end

