-- ==== Sys2Proof/Machine/Vxlane.lean ====
section
/-! DEFINITION. Major 10: across the lanes of an entry (R107 to R110). -/

namespace Sys2Proof.Machine

/-- A lane's v register and predicate, by its number in the issuing group. -/
def State.vOf (s : State) (a : BitVec 6) (l : Nat) : W32 := s.getV (s.sel.lane l) a.toNat
def State.predOf (s : State) (p : BitVec 3) (l : Nat) : Bool := s.getP (s.sel.lane l) p.toNat

/-- A shuffle (R108): the source lane is a function of the lane and its b; outside E a lane gets its own value. -/
def State.shuffle (s : State) (o : V3) (src : Nat → W32 → Int) (e : List Nat) (i : Nat) : LaneOut :=
  let j := src i (s.vOf o.b i)
  putRegs [.v o.d.toNat (s.vOf o.a (if 0 ≤ j ∧ j.toNat ∈ e then j.toNat else i))]

/-- The sum of words, wrapping. -/
def sumOf (l : List W32) : W32 := l.foldl (· + ·) 0

/-- One level of the tree of R110: nodes two by two. -/
def treeLevel (add : Nat → Nat → Nat) : List (Option Nat) → List (Option Nat)
  | x :: y :: t => (match x, y with
      | some a, some b => some (add a b)
      | some a, none => some a
      | none, b => b) :: treeLevel add t
  | l => l

/-- tree of R110, with enough levels for the list. -/
def treeSum (add : Nat → Nat → Nat) : Nat → List (Option Nat) → Option Nat
  | 0, l => l.headD none
  | n + 1, l => treeSum add n (treeLevel add l)

/-- GRED.fadd: the MODE of the lowest lane governs every input and every addition (R110). -/
def State.fsumTree (s : State) (e : List Nat) (a : BitVec 6) : W32 :=
  let m := s.modeF (s.sel.lane (e.headD 0))
  let node := fun i => if i ∈ e then some (Fmt.f32.flushIn m.fz32 (s.vOf a i).toNat) else none
  BitVec.ofNat 32 ((treeSum (flop2 .f32 m opAdd) 6 ((List.range 64).map node)).getD 0)

/-- SHFL_IDX (R108). -/
def execShflIdx (o : V3) (s : State) : Out :=
  ok (s.cross (s.guard (.shflIdx o)) (s.shuffle o (fun _ b => ((b.toNat % 64 : Nat) : Int))))

/-- SHFL_UP (R108). -/
def execShflUp (o : V3) (s : State) : Out :=
  ok (s.cross (s.guard (.shflUp o)) (s.shuffle o (fun i b => (i : Int) - b.toNat)))

/-- SHFL_DOWN (R108). -/
def execShflDown (o : V3) (s : State) : Out :=
  ok (s.cross (s.guard (.shflDown o)) (s.shuffle o (fun i b => (i : Int) + b.toNat)))

/-- SHFL_XOR (R108). -/
def execShflXor (o : V3) (s : State) : Out :=
  ok (s.cross (s.guard (.shflXor o)) (s.shuffle o (fun i b => ((i ^^^ (b.toNat % 64) : Nat) : Int))))

/-- VOTE_ANY (R109). -/
def execVoteAny (o : Vote) (s : State) : Out :=
  ok (s.cross (s.guard (.voteAny o)) (fun e _ => putRegs [.p o.pd.toNat (e.any (s.predOf o.pa))]))

/-- VOTE_ALL (R109). -/
def execVoteAll (o : Vote) (s : State) : Out :=
  ok (s.cross (s.guard (.voteAll o)) (fun e _ => putRegs [.p o.pd.toNat (e.all (s.predOf o.pa))]))

/-- BALLOT (R109). -/
def execBallot (o : Ballot) (s : State) : Out := ok (s.cross (s.guard (.ballot o)) (fun e _ =>
    putRegs (v2 o.d.toNat (BitVec.ofNat 64 (maskOf (e.filter (s.predOf o.pa)))))))

/-- GRED_ADD (R110). -/
def execGredAdd (o : V3U) (s : State) : Out :=
  ok (s.cross (s.guard (.gredAdd o)) (fun e _ => putRegs [.v o.d.toNat (sumOf (e.map (s.vOf o.a)))]))

/-- GRED_MAX_S (R110). -/
def execGredMaxS (o : V3U) (s : State) : Out := ok (s.cross (s.guard (.gredMaxS o)) (fun e _ =>
    putRegs [.v o.d.toNat (match e.map (s.vOf o.a) with | [] => 0 | x :: t => t.foldl maxS x)]))

/-- GRED_FADD (R110). -/
def execGredFadd (o : V3U) (s : State) : Out :=
  ok (s.cross (s.guard (.gredFadd o)) (fun e _ => putRegs [.v o.d.toNat (s.fsumTree e o.a)]))

/-- GSCAN_ADD (R110). -/
def execGscanAdd (o : V3U) (s : State) : Out := ok (s.cross (s.guard (.gscanAdd o)) (fun e i =>
    putRegs [.v o.d.toNat (sumOf ((e.filter (· ≤ i)).map (s.vOf o.a)))]))

end Sys2Proof.Machine
end

