-- ==== Sys2Proof/Machine/Warith.lean ====
section
/-! DEFINITION. Major 21: the arithmetic forms of windows (R168, R171 to R174). -/

namespace Sys2Proof.Machine

/-- max(ulast(a), ulast(b)), −∞ where both are exact zeros (R168). -/
def maxU : Option Int → Option Int → Option Int
  | none, u => u
  | u, none => u
  | some a, some b => some (max a b)

/-- A sum of exponents, −∞ where either is. -/
def addU (a b : Option Int) : Option Int := a.bind (fun x => b.map (x + ·))

/-- The rule that a last-valid exponent gives; exact at −∞ (R168). -/
def ruleOf : Option Int → Rule
  | none => .exact
  | some u => .last u

/-- The first NaN operand's result (R172). -/
def nanOf (xs : List WVal) : Option Wnum := (xs.find? (fun x => x.cls = .nan)).map (fun x => .nan x.neg)

/-- An exact result of value y under PREC: the rule for a finite non-zero y, and for a zero. -/
def wres (p : PrecF) (y : Wnum) (fin zero : Rule) : Wnum × Rule × Nat :=
  (y, (match y with | .fin .. => fin | _ => zero), p.p)

/-- The sum of two values that are not NaN (R69, R172). -/
def Wnum.add (m : Rm) : Wnum → Wnum → Wnum
  | .inf a, .inf b => if a = b then .inf a else .nan false
  | .inf a, _ => .inf a
  | _, .inf b => .inf b
  | .zero a, .zero b => .zero (if a = b then a else m = .rd)
  | .zero _, y => y
  | x, .zero _ => x
  | .fin na a, .fin nb b =>
    match addMag na a nb b with
    | none => .zero (m = .rd)
    | some (n, g) => .fin n g
  | x, _ => x

/-- The product of two values that are not NaN. -/
def Wnum.mul : Wnum → Wnum → Wnum
  | .inf _, .zero _ => .nan false
  | .zero _, .inf _ => .nan false
  | .inf a, y => .inf (a != y.neg)
  | x, .inf b => .inf (x.neg != b)
  | .fin na a, .fin nb b => .fin (na != nb) ⟨a.m * b.m, a.e + b.e, false⟩
  | x, y => .zero (x.neg != y.neg)

/-- WADD and WSUB (R168, R172); `flip` negates b. -/
def wsum (p : PrecF) (a b : WVal) (flip : Bool) : Wnum × Rule × Nat :=
  let u := ruleOf (maxU a.ulast b.ulast)
  wres p ((nanOf [a, b]).getD (a.num.add p.rm (if flip then b.num.negate else b.num))) u u
def waddRes (p : PrecF) (a b : WVal) : Wnum × Rule × Nat := wsum p a b false
def wsubRes (p : PrecF) (a b : WVal) : Wnum × Rule × Nat := wsum p a b true

/-- WMUL. -/
def wmulRes (p : PrecF) (a b : WVal) : Wnum × Rule × Nat :=
  wres p ((nanOf [a, b]).getD (a.num.mul b.num)) (.count ((min a.valid b.valid : Nat) - 1)) (ruleOf (addU a.ub b.ub))

/-- WDIV: to 600 significand bits and what remains. An infinity divided by a zero stands in no row of R172's table: the model gives
an infinity with the signs' usual rule, which is its choice (log entry 93). -/
def wdivRes (p : PrecF) (a b : WVal) : Wnum × Rule × Nat :=
  let sg := a.neg != b.neg
  let y : Wnum := (nanOf [a, b]).getD (match a.num, b.num with
    | .inf _, .inf _ => .nan false
    | .zero _, .zero _ => .nan false
    | .inf _, _ => .inf sg
    | _, .inf _ => .zero sg
    | _, .zero _ => .inf sg
    | .fin _ x, .fin _ y => .fin sg (x.div 600 y)
    | _, _ => .zero sg)
  wres p y (.count ((min a.valid b.valid : Nat) - 1))
    (if b.cls = .inf then .exact else ruleOf (addU a.ulast (some (-b.exp))))

/-- WSQRT. -/
def wsqrtRes (p : PrecF) (a : WVal) : Wnum × Rule × Nat :=
  let y : Wnum := match a.num with
    | .nan n => .nan n
    | .inf n => if n then .nan false else .inf false
    | .zero n => .zero n
    | .fin n g => if n then .nan false else .fin false (g.sqrt 600)
  wres p y (.count a.valid) (ruleOf (a.ulast.map (fun u => -((-u) / 2))))

/-- WFMA: a · b + c with one rounding. -/
def wfmaRes (p : PrecF) (a b c : WVal) : Wnum × Rule × Nat :=
  let pr := a.num.mul b.num
  let up := match pr with
    | .fin _ g => some (g.top - (min a.valid b.valid : Nat) + 2)
    | _ => addU a.ub b.ub
  let u := ruleOf (maxU up c.ulast)
  let y : Wnum := (nanOf [a, b, c]).getD (match pr with | .nan _ => .nan false | q => q.add p.rm c.num)
  wres p y u u

/-- WNEG, WABS, WMOV and WSETL: the value with a sign, to a length (R168). -/
def wsame (a : WVal) (neg : Bool) (len : Nat) : Wnum × Rule × Nat :=
  let y := a.num.withSign neg
  (y, (match y with | .fin .. => .count a.valid | _ => ruleOf a.ulast), len)

/-- WRND: magnitudes below 1/2 are rounded as one strictly between 0 and 1/2 (R168, R172). -/
def wrndRes (p : PrecF) (a : WVal) : Wnum × Rule × Nat :=
  let r := match a.ulast with
    | none => Rule.exact
    | some u => if u ≤ 0 then .exact else .last u
  let y : Wnum := match a.num with
    | .fin n g =>
      if 0 ≤ g.e then .fin n g
      else
        let q := (if g.top < -1 then Mag.mk 1 (-2) true else g).units 0 p.rm n
        if q = 0 then .zero n else .fin n ⟨q, 0, false⟩
    | x => x
  wres p y r r

/-- WLDEXP. -/
def wldexpRes (p : PrecF) (a : WVal) (k : Int) : Wnum × Rule × Nat :=
  let y : Wnum := match a.num with
    | .fin n g => .fin n { g with e := g.e + k }
    | x => x
  wres p y (.count a.valid) (ruleOf (a.ulast.map (· + k)))

/-- A floating value as a window number; NaN payloads are dropped (R174). -/
def ofFval (neg : Bool) : Fval → Wnum
  | .nan => .nan neg
  | .inf n => .inf n
  | .fin n g => if g.m = 0 then .zero n else .fin n g

/-- WFROM: the source by the selector (R174). -/
def wfromRes (p : PrecF) (t : Nat) (lo hi : W32) : Wnum × Rule × Nat :=
  let x := pair lo hi
  let y := match t with
    | 0 => ofFval lo.msb (Fmt.f32.val lo.toNat)
    | 1 => ofFval x.msb (Fmt.f64.val x.toNat)
    | 2 => ofFval false (.ofInt lo.toInt)
    | 3 => ofFval false (.ofInt lo.toNat)
    | 4 => ofFval false (.ofInt x.toInt)
    | _ => ofFval false (.ofInt x.toNat)
  (y, .exact, p.p)

/-- A magnitude far outside every vector format, brought to where it still rounds alike. -/
def clampMag (g : Mag) : Mag := if g.top < -5000 then ⟨1, -5000, true⟩ else if 5000 < g.top then ⟨1, 5000, false⟩ else g

/-- A window number as a floating value for WTO. -/
def Wnum.fval : Wnum → Fval
  | .nan _ => .nan
  | .inf n => .inf n
  | .zero n => .zero n
  | .fin n g => .fin n (clampMag g)

/-- WTO: the result by the selector (R174). -/
def wtoRes (p : PrecF) (t : Nat) (a : WVal) (v : Nat) : List RegW :=
  let x := a.num.fval
  match t with
  | 0 => [.v v (BitVec.ofNat 32 (Fmt.f32.put p.rm false x))]
  | 1 => v2 v (BitVec.ofNat 64 (Fmt.f64.put p.rm false x))
  | 2 => [.v v (BitVec.ofInt 32 (cvtInt (-2 ^ 31) (2 ^ 31 - 1) p.rm x))]
  | 3 => [.v v (BitVec.ofInt 32 (cvtInt 0 (2 ^ 32 - 1) p.rm x))]
  | 4 => v2 v (BitVec.ofInt 64 (cvtInt (-2 ^ 63) (2 ^ 63 - 1) p.rm x))
  | _ => v2 v (BitVec.ofInt 64 (cvtInt 0 (2 ^ 64 - 1) p.rm x))

/-- The order of two numbers, none where either is NaN. -/
def Wnum.order : Wnum → Wnum → Option Ordering
  | .nan _, _ => none
  | _, .nan _ => none
  | .inf a, .inf b => some (if a = b then .eq else if a then .lt else .gt)
  | .inf a, _ => some (if a then .lt else .gt)
  | _, .inf b => some (if b then .gt else .lt)
  | .zero _, .zero _ => some .eq
  | .zero _, .fin n _ => some (if n then .gt else .lt)
  | .fin n _, .zero _ => some (if n then .lt else .gt)
  | .fin na a, .fin nb b =>
    some (match addMag na a (!nb) b with | none => .eq | some (n, _) => if n then .lt else .gt)

/-- |a − b| < 2^u. -/
def closeTo (a b : Wnum) (u : Int) : Bool :=
  match a, b with
  | .zero _, .zero _ => true
  | .zero _, .fin _ g => g.top < u
  | .fin _ g, .zero _ => g.top < u
  | .fin na x, .fin nb y => (match addMag na x (!nb) y with | none => true | some (_, g) => g.top < u)
  | _, _ => false

/-- WCMP (R173). -/
def wcompare (a b : WVal) : W32 :=
  let o := a.num.order b.num
  let near := (a.valid < a.len || b.valid < b.len) &&
    (match maxU a.ulast b.ulast with | none => false | some u => closeTo a.num b.num u)
  BitVec.ofNat 32 (b2n (o = some .lt) + 2 * b2n (o = some .eq) + 4 * b2n (o = some .gt) + 8 * b2n o.isNone +
    16 * b2n near)

/-- WADD (R172). -/
def execWadd (d : BitVec 5) (a : BitVec 5) (b : BitVec 5) (t : Bool) (s : State) : Out :=
  ok (s.perLane (s.guard (.wadd d a b t)) (fun L => s.windowOut L (Instr.wadd d a b t).uses d.toNat
    (waddRes (s.precF L) (s.getW L a.toNat) (s.getW L b.toNat))))

/-- WSUB (R172). -/
def execWsub (d : BitVec 5) (a : BitVec 5) (b : BitVec 5) (t : Bool) (s : State) : Out :=
  ok (s.perLane (s.guard (.wsub d a b t)) (fun L => s.windowOut L (Instr.wsub d a b t).uses d.toNat
    (wsubRes (s.precF L) (s.getW L a.toNat) (s.getW L b.toNat))))

/-- WMUL (R172). -/
def execWmul (d : BitVec 5) (a : BitVec 5) (b : BitVec 5) (t : Bool) (s : State) : Out :=
  ok (s.perLane (s.guard (.wmul d a b t)) (fun L => s.windowOut L (Instr.wmul d a b t).uses d.toNat
    (wmulRes (s.precF L) (s.getW L a.toNat) (s.getW L b.toNat))))

/-- WDIV (R172). -/
def execWdiv (d : BitVec 5) (a : BitVec 5) (b : BitVec 5) (t : Bool) (s : State) : Out :=
  ok (s.perLane (s.guard (.wdiv d a b t)) (fun L => s.windowOut L (Instr.wdiv d a b t).uses d.toNat
    (wdivRes (s.precF L) (s.getW L a.toNat) (s.getW L b.toNat))))

/-- WSQRT (R172). -/
def execWsqrt (d : BitVec 5) (a : BitVec 5) (t : Bool) (s : State) : Out :=
  ok (s.perLane (s.guard (.wsqrt d a t)) (fun L => s.windowOut L (Instr.wsqrt d a t).uses d.toNat (wsqrtRes (s.precF L) (s.getW L a.toNat))))

/-- WFMA (R172). -/
def execWfma (d : BitVec 5) (a : BitVec 5) (b : BitVec 5) (t : Bool) (s : State) : Out :=
  ok (s.perLane (s.guard (.wfma d a b t)) (fun L => s.windowOut L (Instr.wfma d a b t).uses d.toNat
    (wfmaRes (s.precF L) (s.getW L a.toNat) (s.getW L b.toNat) (s.getW L d.toNat))))

/-- WNEG (R172). -/
def execWneg (d : BitVec 5) (a : BitVec 5) (t : Bool) (s : State) : Out :=
  ok (s.perLane (s.guard (.wneg d a t)) (fun L => s.windowOut L (Instr.wneg d a t).uses d.toNat (wsame (s.getW L a.toNat) (!(s.getW L a.toNat).neg) (s.getW L a.toNat).len)))

/-- WABS (R172). -/
def execWabs (d : BitVec 5) (a : BitVec 5) (t : Bool) (s : State) : Out :=
  ok (s.perLane (s.plain (usesWabs d a t)) (fun L => s.windowOut L (usesWabs d a t) d.toNat (wsame (s.getW L a.toNat) false (s.getW L a.toNat).len)))

/-- WCMP (R173). -/
def execWcmp (a : BitVec 5) (b : BitVec 5) (v : BitVec 6) (t : Bool) (s : State) : Out :=
  ok (s.perLane (s.plain (usesWcmp a b v t)) (fun L => wvOut [.v v.toNat (wcompare (s.getW L a.toNat) (s.getW L b.toNat))]))

/-- WRND (R172). -/
def execWrnd (d : BitVec 5) (a : BitVec 5) (t : Bool) (s : State) : Out :=
  ok (s.perLane (s.plain (usesWrnd d a t)) (fun L => s.windowOut L (usesWrnd d a t) d.toNat (wrndRes (s.precF L) (s.getW L a.toNat))))

/-- WLDEXP (R172). -/
def execWldexp (d : BitVec 5) (a : BitVec 5) (v : BitVec 6) (t : Bool) (s : State) : Out :=
  ok (s.perLane (s.plain (usesWldexp d a v t)) (fun L => s.windowOut L (usesWldexp d a v t) d.toNat
    (wldexpRes (s.precF L) (s.getW L a.toNat) (s.getV L v.toNat).toInt)))

/-- WFROM (R174). -/
def execWfrom (d : BitVec 5) (f : BitVec 5) (v : BitVec 6) (t : Bool) (s : State) : Out :=
  ok (s.perLane (s.plain (usesWfrom d f v t)) (fun L => s.windowOut L (usesWfrom d f v t) d.toNat
    (wfromRes (s.precF L) f.toNat (s.getV L v.toNat) (if f.toNat = 1 ∨ 4 ≤ f.toNat then s.getV L (v.toNat + 1) else 0))))

/-- WTO (R174). -/
def execWto (a : BitVec 5) (f : BitVec 5) (v : BitVec 6) (t : Bool) (s : State) : Out :=
  ok (s.perLane (s.plain (usesWto a f v t)) (fun L => wvOut (wtoRes (s.precF L) f.toNat (s.getW L a.toNat) v.toNat)))

/-- WMOV (R172). -/
def execWmov (d : BitVec 5) (a : BitVec 5) (t : Bool) (s : State) : Out :=
  ok (s.perLane (s.plain (usesWmov d a t)) (fun L => s.windowOut L (usesWmov d a t) d.toNat (wsame (s.getW L a.toNat) (s.getW L a.toNat).neg (s.getW L a.toNat).len)))

end Sys2Proof.Machine
end

