-- ==== Sys2Proof/Machine/Wctl.lean ====
section
/-! DEFINITION. Major 22: the control forms of windows (R166, R175). -/

namespace Sys2Proof.Machine

/-- WINFO (R175). -/
def winfoOf (x : WVal) (v : Nat) : List RegW :=
  [.v v (BitVec.ofNat 32 (x.len + x.valid * 2 ^ 10 + x.cls.code * 2 ^ 20 + b2n x.neg * 2 ^ 22 + x.cap * 2 ^ 23)),
   .v (v + 1) (BitVec.ofInt 32 x.exp)]

/-- WCFG (R166). -/
def execWcfg (sb : BitVec 5) (t : Bool) (s : State) : Out :=
  ok (s.perLane { s.plain (usesWcfg sb t) with more := s.wcfgWait } (fun L =>
    let x := s.getS L sb.toNat
    let y := s.getS L (sb.toNat + 1)
    let c := (List.range 16).map (fun i => bits x.toNat (4 * i) 4) ++ (List.range 16).map (fun i => bits y.toNat (4 * i) 4)
    if c.any (8 < ·) || (s.hdr L.team).wlimbs < c.foldl Nat.add 0 then .trap 4 (regTval .s sb.toNat 3)
    else putRegs (c.mapIdx (fun i k => .w i { WVal.zero with cap := k }))))

/-- WGETL (R175). -/
def execWgetl (a : BitVec 5) (v : BitVec 6) (t : Bool) (s : State) : Out :=
  ok (s.perLane (s.plain (usesWgetl a v t)) (fun L => wvOut [.v v.toNat (BitVec.ofNat 32 (s.getW L a.toNat).len)]))

/-- WSETL (R175). -/
def execWsetl (d : BitVec 5) (a : BitVec 5) (v : BitVec 6) (t : Bool) (s : State) : Out :=
  ok (s.perLane (s.plain (usesWsetl d a v t)) (fun L => s.windowOut L (usesWsetl d a v t) d.toNat
    (wsame (s.getW L a.toNat) (s.getW L a.toNat).neg (max 2 (min 512 (s.getV L v.toNat).toNat)))))

/-- WINFO (R175). -/
def execWinfo (a : BitVec 5) (v : BitVec 6) (t : Bool) (s : State) : Out :=
  ok (s.perLane (s.plain (usesWinfo a v t)) (fun L => wvOut (winfoOf (s.getW L a.toNat) v.toNat)))

end Sys2Proof.Machine
end

