-- ==== Sys2Proof/Machine/Dispatch.lean ====
section
/-! DEFINITION. The dispatch: one arm for every constructor of `Instr`, each one direct call of its meaning. A word acts for
the issue opportunity `s.sel`; an event whose conditions the state does not meet changes nothing. -/

namespace Sys2Proof.Machine

/-- The meaning of every row of the opcode table. -/
def exec (i : Instr) (s : State) : Host.Outcome State Fault Refusal :=
  match i with
  | .iadd o => Sys2Proof.Machine.execIadd o s
  | .isub o => Sys2Proof.Machine.execIsub o s
  | .imul o => Sys2Proof.Machine.execImul o s
  | .imulhS o => Sys2Proof.Machine.execImulhS o s
  | .imulhZ o => Sys2Proof.Machine.execImulhZ o s
  | .iminS o => Sys2Proof.Machine.execIminS o s
  | .iminZ o => Sys2Proof.Machine.execIminZ o s
  | .imaxS o => Sys2Proof.Machine.execImaxS o s
  | .imaxZ o => Sys2Proof.Machine.execImaxZ o s
  | .iabsdS o => Sys2Proof.Machine.execIabsdS o s
  | .and o => Sys2Proof.Machine.execAnd o s
  | .or o => Sys2Proof.Machine.execOr o s
  | .xor o => Sys2Proof.Machine.execXor o s
  | .andn o => Sys2Proof.Machine.execAndn o s
  | .shl o => Sys2Proof.Machine.execShl o s
  | .shrZ o => Sys2Proof.Machine.execShrZ o s
  | .shrS o => Sys2Proof.Machine.execShrS o s
  | .rotl o => Sys2Proof.Machine.execRotl o s
  | .popc o => Sys2Proof.Machine.execPopc o s
  | .clz o => Sys2Proof.Machine.execClz o s
  | .brev o => Sys2Proof.Machine.execBrev o s
  | .bfxS o => Sys2Proof.Machine.execBfxS o s
  | .bfxZ o => Sys2Proof.Machine.execBfxZ o s
  | .prmt o => Sys2Proof.Machine.execPrmt o s
  | .iadd64 o => Sys2Proof.Machine.execIadd64 o s
  | .isub64 o => Sys2Proof.Machine.execIsub64 o s
  | .shl64 o => Sys2Proof.Machine.execShl64 o s
  | .shr64Z o => Sys2Proof.Machine.execShr64Z o s
  | .shr64S o => Sys2Proof.Machine.execShr64S o s
  | .iaddsatS o => Sys2Proof.Machine.execIaddsatS o s
  | .iaddi o => Sys2Proof.Machine.execIaddi o s
  | .imuli o => Sys2Proof.Machine.execImuli o s
  | .andi o => Sys2Proof.Machine.execAndi o s
  | .ori o => Sys2Proof.Machine.execOri o s
  | .xori o => Sys2Proof.Machine.execXori o s
  | .shli o => Sys2Proof.Machine.execShli o s
  | .shriZ o => Sys2Proof.Machine.execShriZ o s
  | .shriS o => Sys2Proof.Machine.execShriS o s
  | .iminiS o => Sys2Proof.Machine.execIminiS o s
  | .imaxiS o => Sys2Proof.Machine.execImaxiS o s
  | .fadd o => Sys2Proof.Machine.execFadd o s
  | .fsub o => Sys2Proof.Machine.execFsub o s
  | .fmul o => Sys2Proof.Machine.execFmul o s
  | .fmin o => Sys2Proof.Machine.execFmin o s
  | .fmax o => Sys2Proof.Machine.execFmax o s
  | .fminn o => Sys2Proof.Machine.execFminn o s
  | .fmaxn o => Sys2Proof.Machine.execFmaxn o s
  | .fabs o => Sys2Proof.Machine.execFabs o s
  | .fneg o => Sys2Proof.Machine.execFneg o s
  | .fcpys o => Sys2Proof.Machine.execFcpys o s
  | .frint o => Sys2Proof.Machine.execFrint o s
  | .ffloor o => Sys2Proof.Machine.execFfloor o s
  | .fceil o => Sys2Proof.Machine.execFceil o s
  | .ftrunc o => Sys2Proof.Machine.execFtrunc o s
  | .fldexp o => Sys2Proof.Machine.execFldexp o s
  | .fexpo o => Sys2Proof.Machine.execFexpo o s
  | .fclass o => Sys2Proof.Machine.execFclass o s
  | .hadd2 o => Sys2Proof.Machine.execHadd2 o s
  | .hsub2 o => Sys2Proof.Machine.execHsub2 o s
  | .hmul2 o => Sys2Proof.Machine.execHmul2 o s
  | .hmin2 o => Sys2Proof.Machine.execHmin2 o s
  | .hmax2 o => Sys2Proof.Machine.execHmax2 o s
  | .badd2 o => Sys2Proof.Machine.execBadd2 o s
  | .bsub2 o => Sys2Proof.Machine.execBsub2 o s
  | .bmul2 o => Sys2Proof.Machine.execBmul2 o s
  | .bmin2 o => Sys2Proof.Machine.execBmin2 o s
  | .bmax2 o => Sys2Proof.Machine.execBmax2 o s
  | .faddF64 o => Sys2Proof.Machine.execFaddF64 o s
  | .fsubF64 o => Sys2Proof.Machine.execFsubF64 o s
  | .fmulF64 o => Sys2Proof.Machine.execFmulF64 o s
  | .fminF64 o => Sys2Proof.Machine.execFminF64 o s
  | .fmaxF64 o => Sys2Proof.Machine.execFmaxF64 o s
  | .fabsF64 o => Sys2Proof.Machine.execFabsF64 o s
  | .fnegF64 o => Sys2Proof.Machine.execFnegF64 o s
  | .fdivF64 o => Sys2Proof.Machine.execFdivF64 o s
  | .fsqrtF64 o => Sys2Proof.Machine.execFsqrtF64 o s
  | .fma o => Sys2Proof.Machine.execFma o s
  | .fms o => Sys2Proof.Machine.execFms o s
  | .fnma o => Sys2Proof.Machine.execFnma o s
  | .fmaF64 o => Sys2Proof.Machine.execFmaF64 o s
  | .hfma2 o => Sys2Proof.Machine.execHfma2 o s
  | .bfma2 o => Sys2Proof.Machine.execBfma2 o s
  | .imad o => Sys2Proof.Machine.execImad o s
  | .bfi o => Sys2Proof.Machine.execBfi o s
  | .cvtF32S32 o => Sys2Proof.Machine.execCvtF32S32 o s
  | .cvtF32Z32 o => Sys2Proof.Machine.execCvtF32Z32 o s
  | .cvtS32F32 o => Sys2Proof.Machine.execCvtS32F32 o s
  | .cvtZ32F32 o => Sys2Proof.Machine.execCvtZ32F32 o s
  | .cvtF32F16 o => Sys2Proof.Machine.execCvtF32F16 o s
  | .cvtF16F32 o => Sys2Proof.Machine.execCvtF16F32 o s
  | .cvtF32B16 o => Sys2Proof.Machine.execCvtF32B16 o s
  | .cvtB16F32 o => Sys2Proof.Machine.execCvtB16F32 o s
  | .cvtF64F32 o => Sys2Proof.Machine.execCvtF64F32 o s
  | .cvtF32F64 o => Sys2Proof.Machine.execCvtF32F64 o s
  | .cvtF64S64 o => Sys2Proof.Machine.execCvtF64S64 o s
  | .cvtS64F64 o => Sys2Proof.Machine.execCvtS64F64 o s
  | .packF16 o => Sys2Proof.Machine.execPackF16 o s
  | .packB16 o => Sys2Proof.Machine.execPackB16 o s
  | .frcp o => Sys2Proof.Machine.execFrcp o s
  | .frsq o => Sys2Proof.Machine.execFrsq o s
  | .fsqrt o => Sys2Proof.Machine.execFsqrt o s
  | .fdiv o => Sys2Proof.Machine.execFdiv o s
  | .fexp2 o => Sys2Proof.Machine.execFexp2 o s
  | .flog2 o => Sys2Proof.Machine.execFlog2 o s
  | .fsinpi o => Sys2Proof.Machine.execFsinpi o s
  | .fcospi o => Sys2Proof.Machine.execFcospi o s
  | .ftanh o => Sys2Proof.Machine.execFtanh o s
  | .fset o => Sys2Proof.Machine.execFset o s
  | .fsetF64 o => Sys2Proof.Machine.execFsetF64 o s
  | .iset o => Sys2Proof.Machine.execIset o s
  | .iset64 o => Sys2Proof.Machine.execIset64 o s
  | .plop o => Sys2Proof.Machine.execPlop o s
  | .sel o => Sys2Proof.Machine.execSel o s
  | .movlo o => Sys2Proof.Machine.execMovlo o s
  | .movhi o => Sys2Proof.Machine.execMovhi o s
  | .smovlo o => Sys2Proof.Machine.execSmovlo o s
  | .smovhi o => Sys2Proof.Machine.execSmovhi o s
  | .smovh2 o => Sys2Proof.Machine.execSmovh2 o s
  | .smovh3 o => Sys2Proof.Machine.execSmovh3 o s
  | .bcast o => Sys2Proof.Machine.execBcast o s
  | .laneget o => Sys2Proof.Machine.execLaneget o s
  | .shflIdx o => Sys2Proof.Machine.execShflIdx o s
  | .shflUp o => Sys2Proof.Machine.execShflUp o s
  | .shflDown o => Sys2Proof.Machine.execShflDown o s
  | .shflXor o => Sys2Proof.Machine.execShflXor o s
  | .voteAny o => Sys2Proof.Machine.execVoteAny o s
  | .voteAll o => Sys2Proof.Machine.execVoteAll o s
  | .ballot o => Sys2Proof.Machine.execBallot o s
  | .gredAdd o => Sys2Proof.Machine.execGredAdd o s
  | .gredMaxS o => Sys2Proof.Machine.execGredMaxS o s
  | .gredFadd o => Sys2Proof.Machine.execGredFadd o s
  | .gscanAdd o => Sys2Proof.Machine.execGscanAdd o s
  | .sadd o => Sys2Proof.Machine.execSadd o s
  | .ssub o => Sys2Proof.Machine.execSsub o s
  | .smul o => Sys2Proof.Machine.execSmul o s
  | .sand o => Sys2Proof.Machine.execSand o s
  | .sor o => Sys2Proof.Machine.execSor o s
  | .sxor o => Sys2Proof.Machine.execSxor o s
  | .sshl o => Sys2Proof.Machine.execSshl o s
  | .sshrZ o => Sys2Proof.Machine.execSshrZ o s
  | .sshrS o => Sys2Proof.Machine.execSshrS o s
  | .sminS o => Sys2Proof.Machine.execSminS o s
  | .smaxS o => Sys2Proof.Machine.execSmaxS o s
  | .sseteq o => Sys2Proof.Machine.execSseteq o s
  | .ssetltS o => Sys2Proof.Machine.execSsetltS o s
  | .ssetltZ o => Sys2Proof.Machine.execSsetltZ o s
  | .saddi o => Sys2Proof.Machine.execSaddi o s
  | .ldS8 o => Sys2Proof.Machine.execLdS8 o s
  | .ldZ8 o => Sys2Proof.Machine.execLdZ8 o s
  | .ldS16 o => Sys2Proof.Machine.execLdS16 o s
  | .ldZ16 o => Sys2Proof.Machine.execLdZ16 o s
  | .ldB32 o => Sys2Proof.Machine.execLdB32 o s
  | .ldB64 o => Sys2Proof.Machine.execLdB64 o s
  | .ldB128 o => Sys2Proof.Machine.execLdB128 o s
  | .sldB64 o => Sys2Proof.Machine.execSldB64 o s
  | .dld o => Sys2Proof.Machine.execDld o s
  | .wld o => Sys2Proof.Machine.execWld o s
  | .wlds o => Sys2Proof.Machine.execWlds o s
  | .prf o => Sys2Proof.Machine.execPrf o s
  | .stB8 o => Sys2Proof.Machine.execStB8 o s
  | .stB16 o => Sys2Proof.Machine.execStB16 o s
  | .stB32 o => Sys2Proof.Machine.execStB32 o s
  | .stB64 o => Sys2Proof.Machine.execStB64 o s
  | .stB128 o => Sys2Proof.Machine.execStB128 o s
  | .sstB64 o => Sys2Proof.Machine.execSstB64 o s
  | .dst o => Sys2Proof.Machine.execDst o s
  | .wst o => Sys2Proof.Machine.execWst o s
  | .wsts o => Sys2Proof.Machine.execWsts o s
  | .atomAddB32 o => Sys2Proof.Machine.execAtomAddB32 o s
  | .atomAddB64 o => Sys2Proof.Machine.execAtomAddB64 o s
  | .atomFaddF32 o => Sys2Proof.Machine.execAtomFaddF32 o s
  | .atomMinS32 o => Sys2Proof.Machine.execAtomMinS32 o s
  | .atomMaxS32 o => Sys2Proof.Machine.execAtomMaxS32 o s
  | .atomMinZ32 o => Sys2Proof.Machine.execAtomMinZ32 o s
  | .atomMaxZ32 o => Sys2Proof.Machine.execAtomMaxZ32 o s
  | .atomAndB32 o => Sys2Proof.Machine.execAtomAndB32 o s
  | .atomOrB32 o => Sys2Proof.Machine.execAtomOrB32 o s
  | .atomXorB32 o => Sys2Proof.Machine.execAtomXorB32 o s
  | .atomExchB32 o => Sys2Proof.Machine.execAtomExchB32 o s
  | .atomExchB64 o => Sys2Proof.Machine.execAtomExchB64 o s
  | .atomCasB32 o => Sys2Proof.Machine.execAtomCasB32 o s
  | .atomCasB64 o => Sys2Proof.Machine.execAtomCasB64 o s
  | .atomIncZ32 o => Sys2Proof.Machine.execAtomIncZ32 o s
  | .fenceHost => Sys2Proof.Machine.execFenceHost s
  | .fenceSys => Sys2Proof.Machine.execFenceSys s
  | .cwb o => Sys2Proof.Machine.execCwb o s
  | .cinv o => Sys2Proof.Machine.execCinv o s
  | .xlq o => Sys2Proof.Machine.execXlq o s
  | .mma c a b sp => Sys2Proof.Machine.execMma c a b sp s
  | .mloop c a b sp => Sys2Proof.Machine.execMloop c a b sp s
  | .mloops c a b sp => Sys2Proof.Machine.execMloops c a b sp s
  | .attn c a b sp f => Sys2Proof.Machine.execAttn c a b sp f s
  | .hadq c a f => Sys2Proof.Machine.execHadq c a f s
  | .qnt c a => Sys2Proof.Machine.execQnt c a s
  | .accz c => Sys2Proof.Machine.execAccz c s
  | .accrd c a b16 => Sys2Proof.Machine.execAccrd c a b16 s
  | .accwr c a => Sys2Proof.Machine.execAccwr c a s
  | .mrel => Sys2Proof.Machine.execMrel s
  | .copyIn c x sp bar => Sys2Proof.Machine.execCopyIn c x sp bar s
  | .copyOut c x sp rel bar => Sys2Proof.Machine.execCopyOut c x sp rel bar s
  | .copyTt c sp rel bar => Sys2Proof.Machine.execCopyTt c sp rel bar s
  | .copyGather c x b sp bar => Sys2Proof.Machine.execCopyGather c x b sp bar s
  | .tdef c sp => Sys2Proof.Machine.execTdef c sp s
  | .tdrop c => Sys2Proof.Machine.execTdrop c s
  | .tset x sp => Sys2Proof.Machine.execTset x sp s
  | .tstat c sp => Sys2Proof.Machine.execTstat c sp s
  | .trel c => Sys2Proof.Machine.execTrel c s
  | .binit sb n => Sys2Proof.Machine.execBinit sb n s
  | .binitReg sb v => Sys2Proof.Machine.execBinitReg sb v s
  | .barv sb ord => Sys2Proof.Machine.execBarv sb ord s
  | .barvb sb v out ord => Sys2Proof.Machine.execBarvb sb v out ord s
  | .bwait sb v => Sys2Proof.Machine.execBwait sb v s
  | .bwaitt sb v p => Sys2Proof.Machine.execBwaitt sb v p s
  | .btst sb v => Sys2Proof.Machine.execBtst sb v s
  | .bjoin sb => Sys2Proof.Machine.execBjoin sb s
  | .bleave sb => Sys2Proof.Machine.execBleave sb s
  | .bdrop sb ord => Sys2Proof.Machine.execBdrop sb ord s
  | .dadd d a b => Sys2Proof.Machine.execDadd d a b s
  | .dsub d a b => Sys2Proof.Machine.execDsub d a b s
  | .dmul d a b => Sys2Proof.Machine.execDmul d a b s
  | .dmax d a b => Sys2Proof.Machine.execDmax d a b s
  | .dmin d a b => Sys2Proof.Machine.execDmin d a b s
  | .dmix d a b v => Sys2Proof.Machine.execDmix d a b v s
  | .dneg d a => Sys2Proof.Machine.execDneg d a s
  | .daff d a v => Sys2Proof.Machine.execDaff d a v s
  | .drelu d a => Sys2Proof.Machine.execDrelu d a s
  | .dexp2 d a => Sys2Proof.Machine.execDexp2 d a s
  | .dmov d a => Sys2Proof.Machine.execDmov d a s
  | .dpnt d v => Sys2Proof.Machine.execDpnt d v s
  | .dfroms d v n => Sys2Proof.Machine.execDfroms d v n s
  | .dnorm d v n => Sys2Proof.Machine.execDnorm d v n s
  | .dmom a v k => Sys2Proof.Machine.execDmom a v k s
  | .dqnt a v => Sys2Proof.Machine.execDqnt a v s
  | .dprb a v => Sys2Proof.Machine.execDprb a v s
  | .dtag d a v => Sys2Proof.Machine.execDtag d a v s
  | .dtgr a v => Sys2Proof.Machine.execDtgr a v s
  | .datom a v n => Sys2Proof.Machine.execDatom a v n s
  | .wadd d a b t => Sys2Proof.Machine.execWadd d a b t s
  | .wsub d a b t => Sys2Proof.Machine.execWsub d a b t s
  | .wmul d a b t => Sys2Proof.Machine.execWmul d a b t s
  | .wdiv d a b t => Sys2Proof.Machine.execWdiv d a b t s
  | .wsqrt d a t => Sys2Proof.Machine.execWsqrt d a t s
  | .wfma d a b t => Sys2Proof.Machine.execWfma d a b t s
  | .wneg d a t => Sys2Proof.Machine.execWneg d a t s
  | .wabs d a t => Sys2Proof.Machine.execWabs d a t s
  | .wcmp a b v t => Sys2Proof.Machine.execWcmp a b v t s
  | .wrnd d a t => Sys2Proof.Machine.execWrnd d a t s
  | .wldexp d a v t => Sys2Proof.Machine.execWldexp d a v t s
  | .wfrom d f v t => Sys2Proof.Machine.execWfrom d f v t s
  | .wto a f v t => Sys2Proof.Machine.execWto a f v t s
  | .wmov d a t => Sys2Proof.Machine.execWmov d a t s
  | .wcfg sb t => Sys2Proof.Machine.execWcfg sb t s
  | .wgetl a v t => Sys2Proof.Machine.execWgetl a v t s
  | .wsetl d a v t => Sys2Proof.Machine.execWsetl d a v t s
  | .winfo a v t => Sys2Proof.Machine.execWinfo a v t s
  | .bra off => Sys2Proof.Machine.execBra off s
  | .brc p neg off => Sys2Proof.Machine.execBrc p neg off s
  | .brs sb neg off => Sys2Proof.Machine.execBrs sb neg off s
  | .brx v => Sys2Proof.Machine.execBrx v s
  | .call p neg off => Sys2Proof.Machine.execCall p neg off s
  | .callx v => Sys2Proof.Machine.execCallx v s
  | .ret p neg => Sys2Proof.Machine.execRet p neg s
  | .exit p neg => Sys2Proof.Machine.execExit p neg s
  | .waitf r c => Sys2Proof.Machine.execWaitf r c s
  | .waitfAll => Sys2Proof.Machine.execWaitfAll s
  | .sete d => Sys2Proof.Machine.execSete d s
  | .shsend d a => Sys2Proof.Machine.execShsend d a s
  | .shtake d a => Sys2Proof.Machine.execShtake d a s
  | .sleep n => Sys2Proof.Machine.execSleep n s
  | .yield => Sys2Proof.Machine.execYield s
  | .nop => Sys2Proof.Machine.execNop s
  | .launch d a q => Sys2Proof.Machine.execLaunch d a q s
  | .lstat d q => Sys2Proof.Machine.execLstat d q s
  | .trap n => Sys2Proof.Machine.execTrap n s
  | .svc d a c => Sys2Proof.Machine.execSvc d a c s
  | .sread d r => Sys2Proof.Machine.execSread d r s
  | .swrite a r => Sys2Proof.Machine.execSwrite a r s
  | .brk n => Sys2Proof.Machine.execBrk n s
  | .illeg => Sys2Proof.Machine.execIlleg s
  | .doorbell q w => Sys2Proof.Machine.execDoorbell q w s
  | .launchAcceptance q => Sys2Proof.Machine.execLaunchAcceptance q s
  | .launchRecordRead acc => Sys2Proof.Machine.execLaunchRecordRead acc s
  | .tcbDispatch => Sys2Proof.Machine.execTcbDispatch s
  | .teamStart cluster => Sys2Proof.Machine.execTeamStart cluster s
  | .coResidentStart => Sys2Proof.Machine.execCoResidentStart s
  | .foragerRequest cluster => Sys2Proof.Machine.execForagerRequest cluster s
  | .foragerAnswer cluster => Sys2Proof.Machine.execForagerAnswer cluster s
  | .preemptForRoom cluster => Sys2Proof.Machine.execPreemptForRoom cluster s
  | .preemptionRequest team => Sys2Proof.Machine.execPreemptionRequest team s
  | .teamSave team => Sys2Proof.Machine.execTeamSave team s
  | .teamRestore team => Sys2Proof.Machine.execTeamRestore team s
  | .offCoreSave team group => Sys2Proof.Machine.execOffCoreSave team group s
  | .offCoreRestore team group => Sys2Proof.Machine.execOffCoreRestore team group s
  | .launchCompletion jn => Sys2Proof.Machine.execLaunchCompletion jn s
  | .instructionFetch team group addr => Sys2Proof.Machine.execInstructionFetch team group addr s
  | .prefetch core jn addr => Sys2Proof.Machine.execPrefetch core jn addr s
  | .ctuTranslate acc => Sys2Proof.Machine.execCtuTranslate acc s
  | .returnedRequestResend acc => Sys2Proof.Machine.execReturnedRequestResend acc s
  | .refill cluster => Sys2Proof.Machine.execRefill cluster s
  | .batchDelivery cluster => Sys2Proof.Machine.execBatchDelivery cluster s
  | .resolve key cluster page tables => Sys2Proof.Machine.execResolve key cluster page tables s
  | .resolvePoison key cluster page => Sys2Proof.Machine.execResolvePoison key cluster page s
  | .list key cluster => Sys2Proof.Machine.execList key cluster s
  | .pageRepairTimeout key cluster page reason => Sys2Proof.Machine.execPageRepairTimeout key cluster page reason s
  | .accessAtHome acc => Sys2Proof.Machine.execAccessAtHome acc s
  | .accessResponse acc => Sys2Proof.Machine.execAccessResponse acc s
  | .ptsTick => Sys2Proof.Machine.execPtsTick s
  | .pageReclassification frame core => Sys2Proof.Machine.execPageReclassification frame core s
  | .invalidation core word version => Sys2Proof.Machine.execInvalidation core word version s
  | .delegation word core => Sys2Proof.Machine.execDelegation word core s
  | .delegationRecall word => Sys2Proof.Machine.execDelegationRecall word s
  | .tlbInvalidation key page tables => Sys2Proof.Machine.execTlbInvalidation key page tables s
  | .atsResponse acc grant => Sys2Proof.Machine.execAtsResponse acc grant s
  | .priResponse key cluster page grant => Sys2Proof.Machine.execPriResponse key cluster page grant s
  | .hostAccess key addr size store => Sys2Proof.Machine.execHostAccess key addr size store s
  | .peerRequest port device issuer key pa size op => Sys2Proof.Machine.execPeerRequest port device issuer key pa size op s
  | .svcReply key seq => Sys2Proof.Machine.execSvcReply key seq s
  | .alloc key short => Sys2Proof.Machine.execAlloc key short s
  | .free key => Sys2Proof.Machine.execFree key s
  | .hostcall key r0 r1 => Sys2Proof.Machine.execHostcall key r0 r1 s
  | .migrate key target tables => Sys2Proof.Machine.execMigrate key target tables s
  | .pairGrant core => Sys2Proof.Machine.execPairGrant core s
  | .leaseExpiry core => Sys2Proof.Machine.execLeaseExpiry core s
  | .matrixStep core => Sys2Proof.Machine.execMatrixStep core s
  | .attnBlock run => Sys2Proof.Machine.execAttnBlock run s
  | .accRun run => Sys2Proof.Machine.execAccRun run s
  | .copyChunk copy chunk => Sys2Proof.Machine.execCopyChunk copy chunk s
  | .copyFailure copy => Sys2Proof.Machine.execCopyFailure copy s
  | .tsetDescriptorArrival acc => Sys2Proof.Machine.execTsetDescriptorArrival acc s
  | .distCompletion pend => Sys2Proof.Machine.execDistCompletion pend s
  | .windowCompletion pend => Sys2Proof.Machine.execWindowCompletion pend s
  | .barrierUpdate acc => Sys2Proof.Machine.execBarrierUpdate acc s
  | .bwaitRelease team group lane => Sys2Proof.Machine.execBwaitRelease team group lane s
  | .bwaittDeadline team group lane => Sys2Proof.Machine.execBwaittDeadline team group lane s
  | .sleepExpiry team group lane => Sys2Proof.Machine.execSleepExpiry team group lane s
  | .watchdogCheck core => Sys2Proof.Machine.execWatchdogCheck core s
  | .coreFailure core => Sys2Proof.Machine.execCoreFailure core s
  | .combError core row => Sys2Proof.Machine.execCombError core row s
  | .sliceFailure slice rts clean => Sys2Proof.Machine.execSliceFailure slice rts clean s
  | .uncorrectableError line => Sys2Proof.Machine.execUncorrectableError line s
  | .peerReset port => Sys2Proof.Machine.execPeerReset port s
  | .gidonFlitError port seq => Sys2Proof.Machine.execGidonFlitError port seq s
  | .gidonNak port seq => Sys2Proof.Machine.execGidonNak port seq s
  | .gidonLaneFailure port => Sys2Proof.Machine.execGidonLaneFailure port s
  | .preronFailure n => Sys2Proof.Machine.execPreronFailure n s
  | .hostLinkDown => Sys2Proof.Machine.execHostLinkDown s
  | .hostLinkLost => Sys2Proof.Machine.execHostLinkLost s
  | .throttle power temp => Sys2Proof.Machine.execThrottle power temp s
  | .overTemperature die temp => Sys2Proof.Machine.execOverTemperature die temp s
  | .powerRemoval temp => Sys2Proof.Machine.execPowerRemoval temp s
  | .boot => Sys2Proof.Machine.execBoot s
  | .mgmtRegisterWrite off val => Sys2Proof.Machine.execMgmtRegisterWrite off val s
  | .ctxnew a => Sys2Proof.Machine.execCtxnew a s
  | .ctxend key => Sys2Proof.Machine.execCtxend key s
  | .qcfg q enable owner base size => Sys2Proof.Machine.execQcfg q enable owner base size s
  | .pagemap key base len grant tables => Sys2Proof.Machine.execPagemap key base len grant tables s
  | .hwin key base len add => Sys2Proof.Machine.execHwin key base len add s
  | .peerbind key port device peerKey => Sys2Proof.Machine.execPeerbind key port device peerKey s
  | .ckpt key hold => Sys2Proof.Machine.execCkpt key hold s
  | .resume key => Sys2Proof.Machine.execResume key s
  | .dbgatt key => Sys2Proof.Machine.execDbgatt key s
  | .dbgdet key => Sys2Proof.Machine.execDbgdet key s
  | .dbghalt key team group => Sys2Proof.Machine.execDbghalt key team group s
  | .dbgrun key team group => Sys2Proof.Machine.execDbgrun key team group s
  | .dbglist key cluster => Sys2Proof.Machine.execDbglist key cluster s
  | .attest key nonce => Sys2Proof.Machine.execAttest key nonce s
  | .fwload img => Sys2Proof.Machine.execFwload img s
  | .illegalInstruction => Sys2Proof.Machine.execIllegalInstruction s
  | .hostLinkRetrain rate width => Sys2Proof.Machine.execHostLinkRetrain rate width s
  | .gidonPortRetrain port => Sys2Proof.Machine.execGidonPortRetrain port s

end Sys2Proof.Machine
end

