-- ==== Sys2Proof/Machine/Duty.lean ====
section
/-! DEFINITION. What happens next: the events that the machine makes by itself, what the environment may make happen, and
how one word is placed to be issued next. The manual leaves the order of concurrent things open (R182, R189, R231): the
environment's list `agenda` may name any order, and an empty one is filled by rotation. Log entries 60 and 61. -/

namespace Sys2Proof.Machine

/-- Whether a row of the table is an event and not a word. -/
def isEvent (i : Instr) : Bool := (encode i).isNone

/-- The delegations to other cores that keep the home from a piece: it recalls them (R192). -/
noncomputable def State.recalls (s : State) (a : Access) : List Instr :=
  (a.locs.flatMap (fun g => stampKeys g.1 g.2)).filterMap (fun k =>
    match s.deleg.find k with
    | some c => if c = a.core then none else some (.delegationRecall k)
    | none => none)

/-- What an access in flight does next. -/
noncomputable def Access.next (s : State) (a : Access) : List Instr :=
  match a.stage with
  | .core => [.ctuTranslate a.id]
  | .returned => [.returnedRequestResend a.id]
  | .ready =>
    (match a.op with
     | .bar .. => [.barrierUpdate a.id]
     | _ => .accessAtHome a.id :: (a.locs.filter (fun g => isHbm g.1)).map (fun g => .pageReclassification (frameOf g.1) a.core)) ++
      s.recalls a
  | .done =>
    (match a.op with
     | .tset _ => [.tsetDescriptorArrival a.id]
     | .launch .. => [.launchRecordRead a.id]
     | .accept _ => []
     | _ => [.accessResponse a.id])
  | .ats => []
  | .parked => []
  | .spilled => []

/-- The release events of a lane's wait. -/
noncomputable def Lane.wakes (L : LaneId) (l : Lane) : List Instr :=
  match l.wait with
  | .sleep _ _ => [.sleepExpiry L.team L.group L.lane]
  | .barrier _ _ _ => [.bwaitRelease L.team L.group L.lane]
  | .timed _ _ _ _ _ => [.bwaitRelease L.team L.group L.lane, .bwaittDeadline L.team L.group L.lane]
  | .launch _ => []
  | .te _ => []
  | .none => []

/-- The events of a cluster and of a core that the hardware makes by itself. -/
noncomputable def clusterEvents (c : Nat) : List Instr :=
  [.teamStart c, .foragerRequest c, .foragerAnswer c, .preemptForRoom c, .refill c, .batchDelivery c]
noncomputable def coreEvents (c : Nat) : List Instr := [.pairGrant c, .leaseExpiry c, .matrixStep c, .watchdogCheck c]

/-- The demand fetches of a group (R301). -/
noncomputable def State.fetches (s : State) (t g : Nat) : List Instr := (s.demands t g).map (.instructionFetch t g)

/-- The number of a copy's chunks. -/
def State.chunkCount (s : State) (c : Copy) : Nat :=
  match s.tile c.team c.tile with
  | some x => (c.chunks x.off x.bytes).length
  | none => 0

/-- Everything that the machine could make happen by itself, most of it not due. -/
noncomputable def State.candidates (s : State) : List Instr :=
  List.flatten [
    s.accs.flatMap (Access.next s),
    s.invals.map (fun x => .invalidation x.1 x.2.1 x.2.2),
    s.pend.flatMap (fun p => [.distCompletion p.id, .windowCompletion p.id]),
    s.runs.flatMap (fun r => [.attnBlock r.id, .accRun r.id]),
    s.copies.flatMap (fun c => .copyFailure c.id :: (List.range (s.chunkCount c)).map (.copyChunk c.id)),
    s.lanes.flatMap (fun e => e.2.wakes e.1),
    s.groups.flatMap (fun e => .offCoreSave e.1.1 e.1.2 :: .offCoreRestore e.1.1 e.1.2 :: s.fetches e.1.1 e.1.2),
    s.teams.flatMap (fun e => .preemptionRequest e.1 :: .teamSave e.1 :: .teamRestore e.1 :: coreEvents e.2.core),
    s.ctxs.flatMap (fun e => e.2.reqs.map (fun r => .svcReply e.1 r.seq)),
    s.launches.map (fun e => .launchCompletion e.1),
    s.queues.map (fun e => .launchAcceptance e.1),
    [.tcbDispatch, .coResidentStart, .ptsTick],
    (List.range 16).flatMap clusterEvents]

/-- What may happen outside an issue: the events of the table. A word acts only when it is issued, and ILLEGAL_INSTRUCTION
is how one issues; a fetch is one that its group demands (R301), and the off-core events ask for the exact wait of R283, but for the
end of a restore that has begun. -/
noncomputable def State.admits1 (s : State) : Instr → Bool
  | .illegalInstruction => false
  | .instructionFetch t g a => (s.demands t g).contains a
  | .offCoreSave t g => (s.liveLanes t g).all (fun i => s.waitsService ⟨t, g, i⟩)
  | .offCoreRestore t g => (s.group t g).loading || (s.liveLanes t g).any (fun i => !s.waitsService ⟨t, g, i⟩)
  | i => isEvent i

/-- The state in which an event finds the machine: a save records each lane's waiting flag and wait reason as it then is (R317). A group
that is saved off-core keeps what its own save recorded (R283, R351). -/
noncomputable def State.recorded (s : State) : Instr → State
  | .teamSave t => if (s.team t).phase = .halting then s.noteWaits (fun L => L.team = t && (s.group t L.group).off.isNone) else s
  | .offCoreSave t g => s.noteWaits (fun L => L.team = t && L.group = g)
  | _ => s

/-- An event as it happens. -/
noncomputable def State.happen (s : State) (i : Instr) : Out := exec i (s.recorded i)

/-- Whether an event is due: it may happen, and it changes the machine. -/
noncomputable def State.due (s : State) (i : Instr) : Bool :=
  s.admits1 i && match exec i s with
    | .next t => t ≠ s
    | _ => true

/-- The event that comes next by itself. -/
noncomputable def State.nextEvent (s : State) : Option Instr :=
  let l := s.candidates.filter s.due
  l[(s.turn / 2) % l.length]?

/-- The CLOCK at which the host link is lost unless it retrains before (R309). -/
def Link.lostAt : Link → Option Nat
  | .down since => some (since + 10000000)
  | .up | .lost => none

/-- What the clock makes happen at once, before anything else: the tick of every 256 cycles (R187), the loss of a host link that has not
retrained for 10 ms (R309), and a watchdog check of every 1,024-cycle unit on each core that has an armed barrier's team (R262; log
entry 58). -/
noncomputable def State.overdue (s : State) : Option Instr :=
  if (s.ticks + 1) * 256 ≤ s.clock then some .ptsTick
  else if s.board.link.lostAt.any (· ≤ s.clock) then some .hostLinkLost
  else ((s.teams.filter (fun e => !(s.watch.get [] e.1).isEmpty)).find? (fun e =>
    s.coreOn e.2.core && (s.core e.2.core).checked < s.clock / 1024)).map (fun e => .watchdogCheck e.2.core)

/-! ### What the environment does -/

/-- A coherent write of another agent to host memory: the device gives up its copies of the lines, dirty words first (R195), and
invalidations go to the cores (R191). -/
def State.snoop (s : State) (cells : List Host.Cell) : State :=
  let lines := nub ((cells.map (fun c => lineOf c.1)).filter (fun l => inSpace .host (128 * l)))
  (lines.foldl (fun s l => s.giveUpLine l) s).sendInvals (fun w => lines.contains (lineOf (4 * w)))

/-- Bytes written to host or peer memory by an agent outside the module. -/
def State.written (s : State) (cells : List Host.Cell) : State :=
  { s with mem := cells.foldl (fun m c => if inSpace .host c.1 || inSpace .peer c.1 then m.put c.1 c.2 else m) s.mem }

/-- Cycles that pass, up to the next multiple of 256 or to the loss of the host link; the rest stay on the agenda, behind what is due
then. -/
def State.passTime (s : State) (n : Nat) : State :=
  let d := min (min n ((256 - s.clock % 256) % 256)) ((s.board.link.lostAt.map (· - s.clock)).getD n)
  { s with clock := s.clock + d, agenda := if d < n then .pass (n - d) :: s.agenda else s.agenda }

/-- A flit received (R364): one with a bad check, whatever number its header shows, or not the expected one, is discarded and answered
with a NAK; the expected one acknowledges what the peer has, and brings its request. -/
def State.receive (s : State) (port : Nat) (f : Flit) (i : Instr) : Out :=
  let x := s.port port
  if !x.up then ok s
  else if !f.good then execGidonFlitError port x.recvSeq s
  else if f.seq ≠ x.recvSeq then execGidonFlitError port f.seq s
  else
    let t := s.setPort port (x.ack f.ack)
    match i with
    | .peerRequest p device issuer key pa size op =>
      if p = port then exec (.peerRequest p device issuer key pa size op) t else ok (t.setPort port (t.port port).took)
    | _ => ok (t.setPort port (t.port port).took)

/-- A peer refuses an access in flight to it: it is unrepairable (R275). Of a read of the launch unit's that makes the acceptance reject its
launch (R227). -/
def State.refusedBy (s : State) (id : Nat) : State :=
  match s.acc id with
  | some a =>
    if a.stage ≠ .ready || a.home ≠ 2 then s
    else if a.op.unitRead then s.setAcc { a with stage := .done, locs := [], poison := true }
    else s.unrepairable a 4
  | none => s

/-- A peer answers that the slot which a copy's inbound designator names has no team: the copy fails (R223). -/
def State.slotGone (s : State) (id : Nat) : State :=
  match s.copy id with
  | some c => (match s.barPlace c.team (c.quad.getD 3 0) (s.copyHome c) with
      | .far _ => if c.count && c.kind = .out then (s.markFailed id).inImage c.team else s
      | _ => s)
  | none => s

/-- A corrected error counted on a die (R305, R362). -/
def State.countCorrected (s : State) (die : Nat) : State :=
  { s with board := { s.board with corrected := bumpDie s.board.corrected die } }

/-- One act of the environment. -/
noncomputable def State.act (s : State) : Act → Out
  | .happen i => if s.admits1 i then s.happen i else ok s
  | .outside cells => ok ((s.snoop cells).written cells)
  | .bypass cells => ok (s.written cells)
  | .pass n => ok (s.passTime n)
  | .mail command tables => s.mailCommand command tables
  | .flit port f i => s.receive port f i
  | .refuse acc => ok (s.refusedBy acc)
  | .gone copy => ok (s.slotGone copy)
  | .corrected die => ok (s.countCorrected die)
  | .codeError core jn line =>
    ok (if s.icache.any (fun e => e.core = core && e.jn = jn && e.line = line) then
        { s.countCorrected (core / 768) with icache := s.icache.filter (fun e => !(e.core = core && e.jn = jn && e.line = line)) }
      else s)
  | .copyError core word =>
    ok (if (s.copies1.find (core, word)).isSome then
        { s.countCorrected (core / 768) with copies1 := s.copies1.del (core, word) }
      else s)

/-- The machine by itself: out of reset it boots; then a word is issued and an event happens by turns, and where one has
nothing to do the other goes. -/
noncomputable def State.auto (s : State) : Out :=
  let issue : Option (Instr × State) := s.nextIssue
  let event : Option (Instr × State) := s.nextEvent.map (fun i => (i, s.recorded i))
  let fire := fun (x : Instr × State) => exec x.1 { x.2 with turn := s.turn + 1 }
  if s.board.state = .reset && s.board.powered then exec .boot s
  else if s.turn % 2 = 0 then
    match issue with
    | some x => fire x
    | none => match event with | some x => fire x | none => ok { s with turn := s.turn + 1 }
  else
    match event with
    | some x => fire x
    | none => match issue with | some x => fire x | none => ok { s with turn := s.turn + 1 }

/-! ### Placing one word to be issued next -/

/-- A clause header of one word of a class. -/
def oneWord (c : Nat) : W32 := BitVec.ofNat 32 (30 * 2 ^ 27 + 1 * 2 ^ 23 + c * 2 ^ 20)

/-- The line of code that `placeWord` makes: a header of one word, the word, and headers to go on to. -/
def placedLine (w : W32) : List W32 := oneWord ((classOf (majorOf w)).getD 0) :: w :: List.replicate 30 (oneWord 5)

/-- The lines of headers that a relative branch may go to. -/
def placedTargets (base : D64) (w : W32) : List ILine :=
  if majorOf w ≠ 23 then []
  else
    ([lineAddr (base + 4 + ((fld 20 0 w).signExtend 64) * 4), lineAddr (base + 4 + ((fld 18 0 w).signExtend 64) * 4)].filter
      (· ≠ base)).map (fun a => ⟨0, 0, a, List.replicate 32 (oneWord 5)⟩)

/-- The header of the placed launch: both roles, every kind of register, tile and tensor id declared. -/
def placedHeader : Header :=
  { Header.none with roles := true, groupsA := 1, groupsB := 1, vregsA := 64, vregsB := 64, sregs := 32, dregs := 16,
                     wlimbs := 256, tiles := 32, tensors := 16, scratch := 4096, acc := 4096, stack := 64, shCount := 64,
                     trap := 128 }

/-- The machine with one word as the only thing there is to issue, on core 0: a ready board, a context, a launch, its team
with one live lane at the start of a clause in the instruction cache, and nothing else that could go first. -/
def State.placeWord (s : State) (w : W32) : State :=
  let t := s.nextId
  let base : D64 := 0x10000
  { s with
    nextId := t + 1, agenda := [], turn := 0, accs := [], ticks := s.clock / 256, watch := [],
    board := { s.board with state := .ready, diesOn := [0, 1, 2, 3], clocksOff := false, powered := true, link := .up,
                            flash := { s.board.flash with coresOff := [] } },
    cores := s.cores.set 0 Core.idle,
    ctxs := s.ctxs.set 1 { key := 1, draw := 1, hbmKey := 0, root := Config.firmwareBase, pasid := none, quota := 0, spill := 0, ring := 64,
                           log := 0, logCap := 0, logged := 0, dropped := 0, wins := [], peers := [], heap := [],
                           granted := [], reqs := [], nextSeq := 0, held := false, dbg := false },
    launches := s.launches.set 0 { key := 1, queue := 0, index := 0,
                                   record := ⟨base, 1, 1, 1, 0, 0, 0, 0, false, 0⟩, hdr := placedHeader, patch := [],
                                   snap := [], keys := [], root := 0, ts := 0, dispatched := 1, state := .placing },
    icache := ⟨0, 0, base, placedLine w⟩ :: placedTargets base w,
    -- SHSEND waits until its register is empty (R253)
    marks := if fld 10 22 w = 0x302 then [(⟨t, .v, 0, 0, (fld 6 16 w).toNat⟩, ⟨false, false⟩)] else [],
    teams := s.teams.set t { Team.none with key := 1, phase := .resident },
    groups := [((t, 0), { Group.none with role := 1 })],
    lanes := [(⟨t, 0, 0⟩, { Lane.none with live := true, hdr := base, k := 1 })] }

end Sys2Proof.Machine
end

