-- ==== Sys2Proof/Machine/Step.lean ====
section
/-! DEFINITION. One step of the machine: one cycle, in which one thing happens. It is the environment's next act, or what
the machine does by itself. -/

namespace Sys2Proof.Machine

/-- One step. What is overdue comes first, and takes no cycle. -/
noncomputable def step (s : State) : Host.Outcome State Fault Refusal :=
  match s.overdue with
  | some i => exec i s
  | none =>
    match s.agenda with
    | a :: rest => State.act { s with agenda := rest, clock := s.clock + 1 } a
    | [] => State.auto { s with clock := s.clock + 1 }

/-- The machine with the word `w` where the next step issues. -/
def State.withFetchWord (s : State) (_nbits w : Nat) : State := s.placeWord (BitVec.ofNat 32 w)

end Sys2Proof.Machine
end

