-- ==== Sys2Proof/Safety.lean ====
section
/-! DEFINITION. What a safe run is, and the terms in which claims about words are stated: that every check passes, what a
register holds, where a lane stands, and what stays as it was. -/

namespace Sys2Proof

open Machine

/-- The invariant of the memory tables: the bytes of memory stand by rising location, each listed once; so do those of every line
that the device holds, which is a line of host memory and holds bytes of no other line. -/
def Inv (s : State) : Prop :=
  s.mem.wf = true ∧ ∀ e ∈ s.proxy, Memory.wf e.2 = true ∧ inSpace .host (128 * e.1) = true ∧ ∀ x ∈ e.2, lineOf x.1 = e.1

/-- A step that goes on. -/
def Goes (s : State) : Prop := ∃ t, step s = .next t

/-- Every lane of the issue opportunity passes every check of R61 at the word `i`, waits for nothing (R238), and what stands
at the code address that it goes on to can be said (log entry 9). -/
structure Passes (s : State) (i : Instr) : Prop where
  nonempty : s.sel.lanes ≠ []
  nodup : s.sel.lanes.Nodup
  entry : s.entryCheck (s.guard i) = none
  regs : ∀ l ∈ s.sel.lanes, s.regCheck (s.sel.lane l) i.uses = .pass
  more : ∀ l ∈ s.sel.lanes, s.moreWait (s.sel.lane l) i = false
  far : ∀ l ∈ s.sel.lanes, s.farPoison (s.sel.lane l) i = none
  tensor : s.tensorWait s.sel.team i = false
  misuse : ∀ l ∈ s.sel.lanes, s.misuse (s.sel.lane l) i = none
  tile : ∀ l ∈ s.sel.lanes, s.tileWait (s.sel.lane l) i = false
  code : ∀ l ∈ s.sel.lanes, s.codeWait (s.sel.lane l) (s.wantCode (s.sel.lane l) i) = false

/-- A register holds a value, is full and carries no poison; p0 reads true whatever is written (R23, R24, R91, R307). -/
def Holds (t : State) (L : LaneId) : RegW → Prop
  | .v n x => t.getV L n = x ∧ t.mark (t.rid L .v n) = ⟨true, false⟩
  | .s n x => t.getS L n = x ∧ t.mark (t.rid L .s n) = ⟨true, false⟩
  | .p n x => t.getP L n = (if n = 0 then true else x) ∧ t.mark (t.rid L .p n) = ⟨true, false⟩
  | .d n x => t.getD L n = x ∧ t.mark (t.rid L .d n) = ⟨true, false⟩
  | .w n x => t.getW L n = x ∧ t.mark (t.rid L .w n) = ⟨true, false⟩

/-- A lane as it was, but for the place that it has reached now and its arrival count. -/
def Moved (t : State) (L : LaneId) (l : Lane) (hdr : D64) (k prio : Nat) : Prop :=
  t.lane L = { l with hdr := hdr, k := k, prio := prio, since := t.clock, arrive := (t.lane L).arrive }

/-- Every register but those named reads as before, with the marks it had. -/
def RegsKept (s t : State) (ids : List RId) : Prop :=
  ∀ r, r ∉ ids → t.v.get 0 r = s.v.get 0 r ∧ t.s.get 0 r = s.s.get 0 r ∧ t.p.get false r = s.p.get false r ∧
    t.d.get DVal.zero r = s.d.get DVal.zero r ∧ t.w.get WVal.zero r = s.w.get WVal.zero r ∧ t.mark r = s.mark r

/-- Every register holds the value that it held, whatever its marks. -/
def ValuesKept (s t : State) : Prop := t.v = s.v ∧ t.s = s.s ∧ t.p = s.p ∧ t.d = s.d ∧ t.w = s.w

/-- Every lane but those of the issue opportunity is as before. -/
def LanesKept (s t : State) : Prop := ∀ L, (∀ l ∈ s.sel.lanes, L ≠ s.sel.lane l) → t.lane L = s.lane L

/-- Nothing but registers, marks and lanes differs: every byte of memory, every access, every table is as before. -/
def OnlyRegs (s t : State) : Prop :=
  t = { s with v := t.v, s := t.s, p := t.p, d := t.d, w := t.w, marks := t.marks, lanes := t.lanes }

/-- Nothing but accesses in flight, their numbering, marks and lanes differs. -/
def OnlyAsks (s t : State) : Prop :=
  t = { s with accs := t.accs, nextId := t.nextId, marks := t.marks, lanes := t.lanes }

/-- A word that passes its checks writes registers, where every lane meets `c`: each lane of its entry holds `ws`, stands at
the next word, and nothing else differs. -/
def WritesIf (c : State → LaneId → Prop) (i : Instr) (ws : State → LaneId → List RegW) : Prop :=
  ∀ s hdr k prio, Passes s i → s.fall = some (.go hdr k prio) → (∀ l ∈ s.sel.lanes, c s (s.sel.lane l)) →
    ∃ t, exec i s = .next t ∧
      (∀ l ∈ s.sel.lanes, (∀ w ∈ ws s (s.sel.lane l), Holds t (s.sel.lane l) w) ∧
        Moved t (s.sel.lane l) (s.lane (s.sel.lane l)) hdr k prio) ∧
      RegsKept s t (s.sel.lanes.flatMap (fun l =>
        (ws s (s.sel.lane l)).map (fun w => s.rid (s.sel.lane l) w.cls w.num))) ∧
      LanesKept s t ∧ OnlyRegs s t

/-- The same, whatever the lanes hold. -/
def Writes (i : Instr) (ws : State → LaneId → List RegW) : Prop := WritesIf (fun _ _ => True) i ws

/-- The access that a word makes: its number, the lanes in whose order it stands, and what it asks (R201, R289). -/
def accessOf (s : State) (id : Nat) (lanes : List Nat) (q : Ask) : Access :=
  { id := id, key := (s.team s.sel.team).key, jn := (s.team s.sel.team).jn, team := s.sel.team, group := s.sel.group,
    lanes := lanes, core := (s.team s.sel.team).core, kind := q.kind, op := q.op, va := q.va, size := q.size,
    major := if s.sel.word = 0 then 0 else majorOf s.sel.word,
    fn := (if (if s.sel.word = 0 then 0 else majorOf s.sel.word) = 12 ∨ (if s.sel.word = 0 then 0 else majorOf s.sel.word) = 13 ∨
              (if s.sel.word = 0 then 0 else majorOf s.sel.word) = 14 ∨ (if s.sel.word = 0 then 0 else majorOf s.sel.word) = 15
           then (fld 4 23 s.sel.word).toNat else (fld 5 22 s.sel.word).toNat),
    ctl := q.ctl, stage := .core, page := 0, locs := [], home := 0, port := 0, seq := 0, cause := 0, bytes := [], ts := 0,
    poison := false }

/-- A word that passes its checks sends one access for each lane of its entry, in lane order, and marks the destinations
`es` empty; the lane goes on, and nothing else differs (R91, R203). -/
def AsksEach (i : Instr) (es : List (RegClass × Nat)) (q : State → LaneId → Ask) : Prop :=
  ∀ s hdr k prio, Passes s i → s.fall = some (.go hdr k prio) →
    ∃ t, exec i s = .next t ∧
      t.accs = s.accs ++ s.sel.lanes.mapIdx (fun j l => accessOf s (s.nextId + j) [l] (q s (s.sel.lane l))) ∧
      t.nextId = s.nextId + s.sel.lanes.length ∧
      (∀ l ∈ s.sel.lanes, (∀ e ∈ es, t.isFull (s.sel.lane l) e.1 e.2 = false) ∧
        Moved t (s.sel.lane l) (s.lane (s.sel.lane l)) hdr k prio) ∧
      RegsKept s t (s.sel.lanes.flatMap (fun l => es.map (fun e => s.rid (s.sel.lane l) e.1 e.2))) ∧
      ValuesKept s t ∧ LanesKept s t ∧ OnlyAsks s t

/-- The same for a word that acts once for its entry: one access, for all its lanes (R88, R257). -/
def AsksOnce (i : Instr) (es : List (RegClass × Nat)) (q : State → Ask) : Prop :=
  ∀ s hdr k prio, Passes s i → s.fall = some (.go hdr k prio) →
    ∃ t, exec i s = .next t ∧
      t.accs = s.accs ++ [accessOf s s.nextId s.sel.lanes (q s)] ∧ t.nextId = s.nextId + 1 ∧
      (∀ l ∈ s.sel.lanes, (∀ e ∈ es, t.isFull (s.sel.lane l) e.1 e.2 = false) ∧
        Moved t (s.sel.lane l) (s.lane (s.sel.lane l)) hdr k prio) ∧
      RegsKept s t (s.sel.lanes.flatMap (fun l => es.map (fun e => s.rid (s.sel.lane l) e.1 e.2))) ∧
      ValuesKept s t ∧ LanesKept s t ∧ OnlyAsks s t

/-- The operation of a distribution or window word that completes later (R144, R170). -/
def pendOf (id : Nat) (L : LaneId) (window : Bool) (ws : List RegW) (df pf : W32) : Pend :=
  { id := id, team := L.team, group := L.group, lane := L.lane, window := window, writes := ws, dflags := df, pflags := pf }

/-- Nothing but pending operations, their numbering, marks and lanes differs. -/
def OnlyPend (s t : State) : Prop :=
  t = { s with pend := t.pend, nextId := t.nextId, marks := t.marks, lanes := t.lanes }

/-- A word that passes its checks begins one operation for each lane of its entry, in lane order: its results `ws` and flags
are decided from the state at issue, its destinations are empty until it completes, and the lane goes on (R91, R144, R170), where every
lane meets `c`. -/
def BeginsIf (c : State → LaneId → Prop) (i : Instr) (window : Bool) (ws : State → LaneId → List RegW)
    (df pf : State → LaneId → W32) : Prop :=
  ∀ s hdr k prio, Passes s i → s.fall = some (.go hdr k prio) → (∀ l ∈ s.sel.lanes, c s (s.sel.lane l)) →
    ∃ t, exec i s = .next t ∧
      t.pend = s.pend ++ s.sel.lanes.mapIdx (fun j l => pendOf (s.nextId + j) (s.sel.lane l) window
        (ws s (s.sel.lane l)) (df s (s.sel.lane l)) (pf s (s.sel.lane l))) ∧
      t.nextId = s.nextId + s.sel.lanes.length ∧
      (∀ l ∈ s.sel.lanes, (∀ w ∈ ws s (s.sel.lane l), t.isFull (s.sel.lane l) w.cls w.num = false) ∧
        Moved t (s.sel.lane l) (s.lane (s.sel.lane l)) hdr k prio) ∧
      RegsKept s t (s.sel.lanes.flatMap (fun l =>
        (ws s (s.sel.lane l)).map (fun w => s.rid (s.sel.lane l) w.cls w.num))) ∧
      ValuesKept s t ∧ LanesKept s t ∧ OnlyPend s t

/-- The same, whatever the lanes hold. -/
def Begins (i : Instr) (window : Bool) (ws : State → LaneId → List RegW) (df pf : State → LaneId → W32) : Prop :=
  BeginsIf (fun _ _ => True) i window ws df pf

end Sys2Proof
end

