-- ==== Sys2Proof/Certificates/Slice0/Obligations.lean ====
section
/-! DEFINITION. The obligations of this slice: what the words and the events of the table do, what the machine keeps, and
that a step runs the decoded word. The statements are written in the terms of Sys2Proof/Safety.lean. -/

namespace Sys2Proof

open Machine

/-! ### Forms of result statements: the destination register holds a function of the sources -/

/-- One v result from two v sources. -/
def V3Is (c : V3 → Instr) (f : W32 → W32 → W32) : Prop :=
  ∀ o, Writes (c o) (fun s L => [.v o.d.toNat (f (s.getV L o.a.toNat) (s.getV L o.b.toNat))])

/-- One v result from one v source. -/
def V3UIs (c : V3U → Instr) (f : W32 → W32) : Prop := ∀ o, Writes (c o) (fun s L => [.v o.d.toNat (f (s.getV L o.a.toNat))])

/-- A pair result from two pairs; from a pair and a single register; from one pair. -/
def V3PairIs (c : V3 → Instr) (f : D64 → D64 → D64) : Prop :=
  ∀ o, Writes (c o) (fun s L => v2 o.d.toNat (f (s.getV2 L o.a.toNat) (s.getV2 L o.b.toNat)))
def V3ShiftIs (c : V3 → Instr) (f : D64 → Nat → D64) : Prop :=
  ∀ o, Writes (c o) (fun s L => v2 o.d.toNat (f (s.getV2 L o.a.toNat) (s.getV L o.b.toNat).toNat))
def V3UPairIs (c : V3U → Instr) (f : D64 → D64) : Prop :=
  ∀ o, Writes (c o) (fun s L => v2 o.d.toNat (f (s.getV2 L o.a.toNat)))

/-- The same, where MODE at issue takes part (R85). -/
def V3ModeIs (c : V3 → Instr) (f : ModeF → Nat → Nat → Nat) : Prop :=
  ∀ o, Writes (c o) (fun s L =>
    [.v o.d.toNat (BitVec.ofNat 32 (f (s.modeF L) (s.getV L o.a.toNat).toNat (s.getV L o.b.toNat).toNat))])
def V3UModeIs (c : V3U → Instr) (f : ModeF → Nat → Nat) : Prop :=
  ∀ o, Writes (c o) (fun s L => [.v o.d.toNat (BitVec.ofNat 32 (f (s.modeF L) (s.getV L o.a.toNat).toNat))])
def V3PairModeIs (c : V3 → Instr) (f : ModeF → Nat → Nat → Nat) : Prop :=
  ∀ o, Writes (c o) (fun s L =>
    v2 o.d.toNat (BitVec.ofNat 64 (f (s.modeF L) (s.getV2 L o.a.toNat).toNat (s.getV2 L o.b.toNat).toNat)))
def V3UPairModeIs (c : V3U → Instr) (f : ModeF → Nat → Nat) : Prop :=
  ∀ o, Writes (c o) (fun s L => v2 o.d.toNat (BitVec.ofNat 64 (f (s.modeF L) (s.getV2 L o.a.toNat).toNat)))
def V4ModeIs (c : V4 → Instr) (f : ModeF → Nat → Nat → Nat → Nat) : Prop :=
  ∀ o, Writes (c o) (fun s L => [.v o.d.toNat (BitVec.ofNat 32
    (f (s.modeF L) (s.getV L o.a.toNat).toNat (s.getV L o.b.toNat).toNat (s.getV L o.c.toNat).toNat))])

/-- One v result from a v source and the sign-extended immediate; from a v source and a count of 0 to 31. -/
def VIIs (c : VI → Instr) (f : W32 → Int → Int) : Prop :=
  ∀ o, Writes (c o) (fun s L => [.v o.d.toNat (BitVec.ofInt 32 (f (s.getV L o.a.toNat) o.imm.toInt))])
def ShIIs (c : ShI → Instr) (f : W32 → Nat → Int) : Prop :=
  ∀ o, Writes (c o) (fun s L => [.v o.d.toNat (BitVec.ofInt 32 (f (s.getV L o.a.toNat) o.imm.toNat))])

/-- Integers as a 32-bit and as a 64-bit value, wrapping. -/
def int32 (f : W32 → W32 → Int) (a b : W32) : W32 := BitVec.ofInt 32 (f a b)
def int64 (f : D64 → D64 → Int) (a b : D64) : D64 := BitVec.ofInt 64 (f a b)

/-- The field of `a` that bits [7:0] and [15:8] of `b` name (R94): its place and its length. -/
def fieldOf (b : W32) : Nat × Nat := (min (b.toNat % 256) 32, min (b.toNat / 256 % 256) (32 - min (b.toNat % 256) 32))

/-- Byte i of a PRMT result (R94). -/
def prmtByte (a b : W32) (i : Nat) : Byte :=
  if b.getLsbD (4 * i + 3) then 0
  else
    let x : Byte := a.extractLsb' (8 * (b.toNat / 2 ^ (4 * i) % 4)) 8
    if b.getLsbD (4 * i + 2) then (if x.msb then 0xFF else 0) else x

end Sys2Proof

open Sys2Proof Sys2Proof.Machine

/-! ### Majors 0 to 11 -/

/-- R94: the integer words of major 0. Every other register, every mark, every other lane, and all of memory stay as they
are. -/
def Obligations.IntegerWordResults : Prop :=
  V3Is .iadd (int32 (fun a b => a.toInt + b.toInt)) ∧
  V3Is .isub (int32 (fun a b => a.toInt - b.toInt)) ∧
  V3Is .imul (int32 (fun a b => a.toInt * b.toInt)) ∧
  V3Is .imulhS (int32 (fun a b => a.toInt * b.toInt / 2 ^ 32)) ∧
  V3Is .imulhZ (int32 (fun a b => (a.toNat : Int) * b.toNat / 2 ^ 32)) ∧
  V3Is .iminS (int32 (fun a b => min a.toInt b.toInt)) ∧
  V3Is .iminZ (int32 (fun a b => min (a.toNat : Int) b.toNat)) ∧
  V3Is .imaxS (int32 (fun a b => max a.toInt b.toInt)) ∧
  V3Is .imaxZ (int32 (fun a b => max (a.toNat : Int) b.toNat)) ∧
  V3Is .iabsdS (int32 (fun a b => |a.toInt - b.toInt|)) ∧
  V3Is .and (fun a b => a &&& b) ∧ V3Is .or (fun a b => a ||| b) ∧ V3Is .xor (fun a b => a ^^^ b) ∧
  V3Is .andn (fun a b => a &&& ~~~b) ∧
  V3Is .shl (int32 (fun a b => if 32 ≤ b.toNat then 0 else a.toNat * 2 ^ b.toNat)) ∧
  V3Is .shrZ (int32 (fun a b => if 32 ≤ b.toNat then 0 else a.toNat / 2 ^ b.toNat)) ∧
  V3Is .shrS (int32 (fun a b => a.toInt / 2 ^ (min b.toNat 32))) ∧
  V3Is .rotl (fun a b => (a ++ a).extractLsb' (32 - b.toNat % 32) 32) ∧
  V3UIs .popc (fun a => BitVec.ofNat 32 ((List.range 32).map (fun i => a.toNat / 2 ^ i % 2)).sum) ∧
  V3UIs .clz (fun a => BitVec.ofNat 32 (32 - a.toNat.size)) ∧
  V3UIs .brev (fun a => a.reverse) ∧
  V3Is .bfxS (fun a b => (a.extractLsb' (fieldOf b).1 (fieldOf b).2).signExtend 32) ∧
  V3Is .bfxZ (fun a b => (a.extractLsb' (fieldOf b).1 (fieldOf b).2).zeroExtend 32) ∧
  V3Is .prmt (fun a b => prmtByte a b 3 ++ prmtByte a b 2 ++ prmtByte a b 1 ++ prmtByte a b 0) ∧
  V3Is .iaddsatS (int32 (fun a b => max (-2 ^ 31) (min (2 ^ 31 - 1) (a.toInt + b.toInt)))) ∧
  V3PairIs .iadd64 (int64 (fun a b => a.toInt + b.toInt)) ∧
  V3PairIs .isub64 (int64 (fun a b => a.toInt - b.toInt)) ∧
  V3ShiftIs .shl64 (fun a c => BitVec.ofNat 64 (if 64 ≤ c then 0 else a.toNat * 2 ^ c)) ∧
  V3ShiftIs .shr64Z (fun a c => BitVec.ofNat 64 (if 64 ≤ c then 0 else a.toNat / 2 ^ c)) ∧
  V3ShiftIs .shr64S (fun a c => BitVec.ofInt 64 (a.toInt / 2 ^ (min c 64)))

/-- R95: the immediate words of major 1. -/
def Obligations.ImmediateWordResults : Prop :=
  VIIs .iaddi (fun a i => a.toInt + i) ∧ VIIs .imuli (fun a i => a.toInt * i) ∧
  VIIs .andi (fun a i => (a &&& BitVec.ofInt 32 i).toInt) ∧ VIIs .ori (fun a i => (a ||| BitVec.ofInt 32 i).toInt) ∧
  VIIs .xori (fun a i => (a ^^^ BitVec.ofInt 32 i).toInt) ∧
  VIIs .iminiS (fun a i => min a.toInt i) ∧ VIIs .imaxiS (fun a i => max a.toInt i) ∧
  ShIIs .shli (fun a c => a.toNat * 2 ^ c) ∧ ShIIs .shriZ (fun a c => (a.toNat / 2 ^ c : Nat)) ∧
  ShIIs .shriS (fun a c => a.toInt / 2 ^ c)

/-- R96: the single-precision words of major 2. A NaN source gives pick, else the exact result is rounded once by MODE[1:0]
and flushed by FZ32; FABS, FNEG and FCPYS are bit operations. -/
def Obligations.SingleWordResults : Prop :=
  V3ModeIs .fadd (fun m => flop2 .f32 m opAdd) ∧ V3ModeIs .fsub (fun m => flop2 .f32 m opSub) ∧
  V3ModeIs .fmul (fun m => flop2 .f32 m opMul) ∧
  V3ModeIs .fmin (fminOf .f32) ∧ V3ModeIs .fmax (fmaxOf .f32) ∧
  V3ModeIs .fminn (fun m => numOr .f32 m fminOf) ∧ V3ModeIs .fmaxn (fun m => numOr .f32 m fmaxOf) ∧
  V3UIs .fabs (fun a => 0#1 ++ a.extractLsb' 0 31) ∧ V3UIs .fneg (fun a => BitVec.ofBool (!a.msb) ++ a.extractLsb' 0 31) ∧
  V3Is .fcpys (fun a b => BitVec.ofBool b.msb ++ a.extractLsb' 0 31) ∧
  V3UModeIs .frint (fun m => rintOf .f32 m m.rm) ∧ V3UModeIs .ffloor (fun m => rintOf .f32 m .rd) ∧
  V3UModeIs .fceil (fun m => rintOf .f32 m .ru) ∧ V3UModeIs .ftrunc (fun m => rintOf .f32 m .rz) ∧
  V3ModeIs .fldexp (fun m a b => ldexpOf .f32 m a (BitVec.ofNat 32 b).toInt) ∧
  V3UModeIs .fexpo (fun m a => (fexpo m (BitVec.ofNat 32 a)).toNat) ∧ V3UIs .fclass fclass

/-- R97: the packed words of major 3 act on each 16-bit element alone. -/
def Obligations.PackedWordResults : Prop :=
  V3ModeIs .hadd2 (fun m => halves (flop2 .f16 m opAdd)) ∧ V3ModeIs .hsub2 (fun m => halves (flop2 .f16 m opSub)) ∧
  V3ModeIs .hmul2 (fun m => halves (flop2 .f16 m opMul)) ∧ V3ModeIs .hmin2 (fun m => halves (fminOf .f16 m)) ∧
  V3ModeIs .hmax2 (fun m => halves (fmaxOf .f16 m)) ∧
  V3ModeIs .badd2 (fun m => halves (flop2 .b16 m opAdd)) ∧ V3ModeIs .bsub2 (fun m => halves (flop2 .b16 m opSub)) ∧
  V3ModeIs .bmul2 (fun m => halves (flop2 .b16 m opMul)) ∧ V3ModeIs .bmin2 (fun m => halves (fminOf .b16 m)) ∧
  V3ModeIs .bmax2 (fun m => halves (fmaxOf .b16 m))

/-- R98: the double-precision words of major 4, on pairs. -/
def Obligations.DoubleWordResults : Prop :=
  V3PairModeIs .faddF64 (fun m => flop2 .f64 m opAdd) ∧ V3PairModeIs .fsubF64 (fun m => flop2 .f64 m opSub) ∧
  V3PairModeIs .fmulF64 (fun m => flop2 .f64 m opMul) ∧ V3PairModeIs .fdivF64 (fun m => flop2 .f64 m opDiv) ∧
  V3PairModeIs .fminF64 (fminOf .f64) ∧ V3PairModeIs .fmaxF64 (fmaxOf .f64) ∧
  V3UPairIs .fabsF64 (fun a => 0#1 ++ a.extractLsb' 0 63) ∧
  V3UPairIs .fnegF64 (fun a => BitVec.ofBool (!a.msb) ++ a.extractLsb' 0 63) ∧
  V3UPairModeIs .fsqrtF64 (fun m => flop1 .f64 m (Fval.sqrt 64))

/-- R99: the fused words of major 5: the product and the sum are exact and rounded once. -/
def Obligations.FusedWordResults : Prop :=
  V4ModeIs .fma (fun m => flop3 .f32 m opFma) ∧ V4ModeIs .fms (fun m => flop3 .f32 m opFms) ∧
  V4ModeIs .fnma (fun m => flop3 .f32 m opFnma) ∧
  (∀ o, Writes (.fmaF64 o) (fun s L => v2 o.d.toNat (BitVec.ofNat 64 (flop3 .f64 (s.modeF L) opFma
    (s.getV2 L o.a.toNat).toNat (s.getV2 L o.b.toNat).toNat (s.getV2 L o.c.toNat).toNat)))) ∧
  V4ModeIs .hfma2 (fun m a b c => flop3 .f16 m opFma (a % 2 ^ 16) (b % 2 ^ 16) (c % 2 ^ 16) +
    flop3 .f16 m opFma (a / 2 ^ 16) (b / 2 ^ 16) (c / 2 ^ 16) * 2 ^ 16) ∧
  V4ModeIs .bfma2 (fun m a b c => flop3 .b16 m opFma (a % 2 ^ 16) (b % 2 ^ 16) (c % 2 ^ 16) +
    flop3 .b16 m opFma (a / 2 ^ 16) (b / 2 ^ 16) (c / 2 ^ 16) * 2 ^ 16) ∧
  V4ModeIs .imad (fun _ a b c => a * b + c) ∧
  (∀ o, Writes (.bfi o) (fun s L => [.v o.d.toNat (
    let a := s.getV L o.a.toNat
    let b := s.getV L o.b.toNat
    let f := fieldOf (s.getV L o.c.toNat)
    let mask : W32 := BitVec.ofNat 32 ((2 ^ f.2 - 1) * 2 ^ f.1)
    (a &&& ~~~mask) ||| ((b <<< f.1) &&& mask))]))

namespace Sys2Proof

/-- A conversion that gives one v register from one; `rm` is the rounding that the selector names (R58, R100). -/
def CvtIs (c : Cvt → Instr) (f : Rm → ModeF → Nat → Nat) : Prop :=
  ∀ o, Writes (c o) (fun s L => [.v o.d.toNat (BitVec.ofNat 32
    (f ((o.sel.map (fun x => Rm.of x.toNat)).getD (s.modeF L).rm) (s.modeF L) (s.getV L o.a.toNat).toNat))])

/-- The same from a pair, to a pair, and from a pair to a pair. -/
def CvtFromPairIs (c : Cvt → Instr) (f : Rm → ModeF → Nat → Nat) : Prop :=
  ∀ o, Writes (c o) (fun s L => [.v o.d.toNat (BitVec.ofNat 32
    (f ((o.sel.map (fun x => Rm.of x.toNat)).getD (s.modeF L).rm) (s.modeF L) (s.getV2 L o.a.toNat).toNat))])
def CvtToPairIs (c : Cvt → Instr) (f : Rm → ModeF → Nat → Nat) : Prop :=
  ∀ o, Writes (c o) (fun s L => v2 o.d.toNat (BitVec.ofNat 64
    (f ((o.sel.map (fun x => Rm.of x.toNat)).getD (s.modeF L).rm) (s.modeF L) (s.getV L o.a.toNat).toNat)))
def CvtPairIs (c : Cvt → Instr) (f : Rm → ModeF → Nat → Nat) : Prop :=
  ∀ o, Writes (c o) (fun s L => v2 o.d.toNat (BitVec.ofNat 64
    (f ((o.sel.map (fun x => Rm.of x.toNat)).getD (s.modeF L).rm) (s.modeF L) (s.getV2 L o.a.toNat).toNat)))

/-- A conversion between floating formats under the flush bits of both. -/
def cvtF (f g : Fmt) (r : Rm) (m : ModeF) (x : Nat) : Nat := convert f g r (m.fz f) (m.fz g) x

end Sys2Proof

/-- R100: the conversions of major 6. -/
def Obligations.ConversionWordResults : Prop :=
  CvtIs .cvtF32S32 (fun r m x => Fmt.f32.put r m.fz32 (.ofInt (BitVec.ofNat 32 x).toInt)) ∧
  CvtIs .cvtF32Z32 (fun r m x => Fmt.f32.put r m.fz32 (.ofInt x)) ∧
  CvtIs .cvtS32F32 (fun r m x => (BitVec.ofInt 32 (cvtInt (-2 ^ 31) (2 ^ 31 - 1) r (Fmt.f32.get m.fz32 x))).toNat) ∧
  CvtIs .cvtZ32F32 (fun r m x => (BitVec.ofInt 32 (cvtInt 0 (2 ^ 32 - 1) r (Fmt.f32.get m.fz32 x))).toNat) ∧
  CvtIs .cvtF32F16 (fun r m x => cvtF .f16 .f32 r m (x % 2 ^ 16)) ∧ CvtIs .cvtF16F32 (cvtF .f32 .f16) ∧
  CvtIs .cvtF32B16 (fun r m x => cvtF .b16 .f32 r m (x % 2 ^ 16)) ∧ CvtIs .cvtB16F32 (cvtF .f32 .b16) ∧
  CvtToPairIs .cvtF64F32 (cvtF .f32 .f64) ∧ CvtFromPairIs .cvtF32F64 (cvtF .f64 .f32) ∧
  CvtPairIs .cvtF64S64 (fun r m x => Fmt.f64.put r m.fz64 (.ofInt (BitVec.ofNat 64 x).toInt)) ∧
  CvtPairIs .cvtS64F64 (fun r m x => (BitVec.ofInt 64 (cvtInt (-2 ^ 63) (2 ^ 63 - 1) r (Fmt.f64.get m.fz64 x))).toNat) ∧
  CvtFromPairIs .packF16 (fun r m x => cvtF .f32 .f16 r m (x % 2 ^ 32) + cvtF .f32 .f16 r m (x / 2 ^ 32) * 2 ^ 16) ∧
  CvtFromPairIs .packB16 (fun r m x => cvtF .f32 .b16 r m (x % 2 ^ 32) + cvtF .f32 .b16 r m (x / 2 ^ 32) * 2 ^ 16)

/-- R101, R102: the special functions of major 7. That an enclosure of a fixed width decides the
rounding of FEXP2, FLOG2, FSINPI, FCOSPI and FTANH (log entry 13), and that FEXP2 of large arguments and FTANH from 64 on use a number
which rounds as the value does (log entry 46), is the model's choice. -/
def Obligations.SpecialFunctionWordResults : Prop :=
  V3UModeIs .frcp (fun m => flop1 .f32 m (fun x => (Fval.ofInt 1).div 64 x)) ∧
  V3UModeIs .frsq (fun m => flop1 .f32 m rsqrt) ∧ V3UModeIs .fsqrt (fun m => flop1 .f32 m (Fval.sqrt 64)) ∧
  V3ModeIs .fdiv (fun m => flop2 .f32 m opDiv) ∧
  V3UModeIs .fexp2 (fun m => flop1 .f32 m (Fval.exp2 .f32 m.rm)) ∧
  V3UModeIs .flog2 (fun m => flop1 .f32 m (Fval.log2 .f32 m.rm)) ∧
  V3UModeIs .fsinpi (fun m => flop1 .f32 m (Fval.sinpi .f32 m.rm)) ∧
  V3UModeIs .fcospi (fun m => flop1 .f32 m (Fval.cospi .f32 m.rm)) ∧
  V3UModeIs .ftanh (fun m => flop1 .f32 m (Fval.tanh .f32 m.rm))

/-- R103 to R105: the compares write one predicate, PLOP combines two, SEL chooses a register. p0 stays true. -/
def Obligations.CompareWordResults : Prop :=
  (∀ o, Writes (.fset o) (fun s L => [.p o.p.toNat (fcond .f32 (s.modeF L).fz32 o.cc.toNat (s.getV L o.a.toNat).toNat
    (s.getV L o.b.toNat).toNat)])) ∧
  (∀ o, Writes (.fsetF64 o) (fun s L => [.p o.p.toNat (fcond .f64 (s.modeF L).fz64 o.cc.toNat (s.getV2 L o.a.toNat).toNat
    (s.getV2 L o.b.toNat).toNat)])) ∧
  (∀ o, Writes (.iset o) (fun s L => [.p o.p.toNat (icond o.cc.toNat (s.getV L o.a.toNat) (s.getV L o.b.toNat))])) ∧
  (∀ o, Writes (.iset64 o) (fun s L => [.p o.p.toNat (icond o.cc.toNat (s.getV2 L o.a.toNat) (s.getV2 L o.b.toNat))])) ∧
  (∀ o, Writes (.plop o) (fun s L => [.p o.pd.toNat (
    [s.getP L o.pa.toNat && s.getP L o.pb.toNat, s.getP L o.pa.toNat || s.getP L o.pb.toNat,
     s.getP L o.pa.toNat != s.getP L o.pb.toNat, s.getP L o.pa.toNat && !s.getP L o.pb.toNat,
     s.getP L o.pa.toNat || !s.getP L o.pb.toNat, !(s.getP L o.pa.toNat && s.getP L o.pb.toNat),
     !(s.getP L o.pa.toNat || s.getP L o.pb.toNat), s.getP L o.pa.toNat == s.getP L o.pb.toNat].getD o.op.toNat false)])) ∧
  (∀ o, Writes (.sel o) (fun s L => [.v o.d.toNat (if s.getP L o.p.toNat = o.neg then s.getV L o.b.toNat
    else s.getV L o.a.toNat)]))

namespace Sys2Proof

/-- The s register of the issuing group, as its lowest lane reads it. -/
def groupS (s : State) (n : Nat) : D64 := s.getS (s.sel.lane (s.sel.lanes.headD 0)) n

/-- A 64-bit value with 16 bits replaced, from bit 16k on (R18). -/
def withHalf (x : D64) (k : Nat) (imm : BitVec 16) : D64 :=
  BitVec.ofNat 64 (x.toNat % 2 ^ (16 * k) + imm.toNat * 2 ^ (16 * k) + x.toNat / 2 ^ (16 * k + 16) * 2 ^ (16 * k + 16))

end Sys2Proof

/-- R18, R106: immediate moves, and moves between the v and s registers; LANEGET of a lane that is not live gives 0. -/
def Obligations.MoveWordResults : Prop :=
  (∀ o, Writes (.movlo o) (fun _ _ => [.v o.d.toNat (0#16 ++ o.imm)])) ∧
  (∀ o, Writes (.movhi o) (fun s L => [.v o.d.toNat (o.imm ++ (s.getV L o.d.toNat).extractLsb' 0 16)])) ∧
  (∀ o, Writes (.smovlo o) (fun _ _ => [.s o.d.toNat (o.imm.zeroExtend 64)])) ∧
  (∀ o, Writes (.smovhi o) (fun s _ => [.s o.d.toNat (withHalf (groupS s o.d.toNat) 1 o.imm)])) ∧
  (∀ o, Writes (.smovh2 o) (fun s _ => [.s o.d.toNat (withHalf (groupS s o.d.toNat) 2 o.imm)])) ∧
  (∀ o, Writes (.smovh3 o) (fun s _ => [.s o.d.toNat (withHalf (groupS s o.d.toNat) 3 o.imm)])) ∧
  (∀ o, Writes (.bcast o) (fun s L => [.v o.d.toNat
    ((s.getS L o.s.toNat).extractLsb' (if o.hi then 32 else 0) 32)])) ∧
  (∀ o, Writes (.laneget o) (fun s _ => [.s o.d.toNat (if (s.lane (s.sel.lane o.lane.toNat)).live
    then 0#32 ++ s.getV (s.sel.lane o.lane.toNat) o.a.toNat else 0)]))

namespace Sys2Proof

/-- A shuffle: each lane takes the va of the lane that `src` names, and its own where that lane is not in the entry (R108). -/
def ShuffleIs (c : V3 → Instr) (src : Nat → Nat → Int) : Prop :=
  ∀ o, Writes (c o) (fun s L => [.v o.d.toNat (
    let j := src L.lane (s.getV L o.b.toNat).toNat
    if 0 ≤ j ∧ j.toNat ∈ s.sel.lanes then s.getV (s.sel.lane j.toNat) o.a.toNat else s.getV L o.a.toNat)])

/-- The va values of the lanes of the entry, in lane order of the entry. -/
def entryVals (s : State) (a : BitVec 6) : List W32 := s.sel.lanes.map (fun l => s.getV (s.sel.lane l) a.toNat)

end Sys2Proof

/-- R108 to R110: the words across the lanes of an entry. -/
def Obligations.CrossLaneWordResults : Prop :=
  ShuffleIs .shflIdx (fun _ b => (b % 64 : Nat)) ∧ ShuffleIs .shflUp (fun i b => (i : Int) - b) ∧
  ShuffleIs .shflDown (fun i b => (i : Int) + b) ∧ ShuffleIs .shflXor (fun i b => (i ^^^ (b % 64) : Nat)) ∧
  (∀ o, Writes (.voteAny o) (fun s _ => [.p o.pd.toNat (decide (∃ l ∈ s.sel.lanes, s.getP (s.sel.lane l) o.pa.toNat = true))])) ∧
  (∀ o, Writes (.voteAll o) (fun s _ => [.p o.pd.toNat (decide (∀ l ∈ s.sel.lanes, s.getP (s.sel.lane l) o.pa.toNat = true))])) ∧
  (∀ o, Writes (.ballot o) (fun s _ => v2 o.d.toNat (BitVec.ofNat 64
    (maskOf (s.sel.lanes.filter (fun l => s.getP (s.sel.lane l) o.pa.toNat)))))) ∧
  (∀ o, Writes (.gredAdd o) (fun s _ => [.v o.d.toNat (BitVec.ofNat 32 ((entryVals s o.a).map BitVec.toNat).sum)])) ∧
  (∀ o, Writes (.gredMaxS o) (fun s _ => [.v o.d.toNat (BitVec.ofInt 32
    (((entryVals s o.a).map BitVec.toInt).foldl max (-2 ^ 31)))])) ∧
  (∀ o, Writes (.gredFadd o) (fun s _ => [.v o.d.toNat (s.fsumTree s.sel.lanes o.a)])) ∧
  (∀ o, Writes (.gscanAdd o) (fun s L => [.v o.d.toNat (BitVec.ofNat 32
    (((s.sel.lanes.filter (· ≤ L.lane)).map (fun l => (s.getV (s.sel.lane l) o.a.toNat).toNat)).sum))]))

namespace Sys2Proof

/-- One s result from two s sources, once for the entry. -/
def S3Is (c : S3 → Instr) (f : D64 → D64 → D64) : Prop :=
  ∀ o, Writes (c o) (fun s _ => [.s o.d.toNat (f (groupS s o.a.toNat) (groupS s o.b.toNat))])

end Sys2Proof

/-- R111: the scalar words of major 11, each once for its entry. -/
def Obligations.ScalarWordResults : Prop :=
  S3Is .sadd (int64 (fun a b => a.toInt + b.toInt)) ∧ S3Is .ssub (int64 (fun a b => a.toInt - b.toInt)) ∧
  S3Is .smul (int64 (fun a b => a.toInt * b.toInt)) ∧
  S3Is .sand (fun a b => a &&& b) ∧ S3Is .sor (fun a b => a ||| b) ∧ S3Is .sxor (fun a b => a ^^^ b) ∧
  S3Is .sshl (int64 (fun a b => if 64 ≤ b.toNat then 0 else a.toNat * 2 ^ b.toNat)) ∧
  S3Is .sshrZ (int64 (fun a b => if 64 ≤ b.toNat then 0 else a.toNat / 2 ^ b.toNat)) ∧
  S3Is .sshrS (int64 (fun a b => a.toInt / 2 ^ (min b.toNat 64))) ∧
  S3Is .sminS (int64 (fun a b => min a.toInt b.toInt)) ∧ S3Is .smaxS (int64 (fun a b => max a.toInt b.toInt)) ∧
  S3Is .sseteq (fun a b => if a = b then 1 else 0) ∧ S3Is .ssetltS (fun a b => if a.toInt < b.toInt then 1 else 0) ∧
  S3Is .ssetltZ (fun a b => if a.toNat < b.toNat then 1 else 0) ∧
  (∀ o, Writes (.saddi o) (fun s _ => [.s o.d.toNat (BitVec.ofInt 64 ((groupS s o.a.toNat).toInt + o.imm.toInt))]))

/-! ### Majors 12 to 15: what each word asks of memory -/

namespace Sys2Proof

/-- `n` v registers from `d` on. -/
def vRegs (d n : Nat) : List (RegClass × Nat) := (List.range n).map (fun i => (RegClass.v, d + i))

/-- A load of `n` bytes at base + offset + n · displacement (R51, R206): its destinations are empty until it is answered. -/
def LoadIs (c : Ld → Instr) (n : Nat) (signed : Bool) : Prop :=
  ∀ o, AsksEach (c o) (vRegs o.d.toNat (if n ≤ 4 then 1 else n / 4)) (fun s L =>
    ⟨.ld o.d.toNat signed, s.effAddr L o.base.toNat o.off.toNat (n * o.imm.toNat), n, 0, 0, []⟩)

/-- A store of the low `n` bytes of its data registers (R208). -/
def StoreIs (c : St → Instr) (n : Nat) : Prop :=
  ∀ o, AsksEach (c o) [] (fun s L =>
    ⟨.st (s.vRun L o.d.toNat (if n ≤ 4 then 1 else n / 4) % 2 ^ (8 * n)),
      s.effAddr L o.base.toNat o.off.toNat (n * o.imm.toNat), n, 1, 0, []⟩)

/-- An atomic of function `fn` on `n` bytes: the old value goes to the first registers of the run, b and c come from the next
ones; FADD captures MODE (R85, R209, R210). -/
def AtomicIs (c : St → Instr) (fn n : Nat) : Prop :=
  ∀ o, AsksEach (c o) (vRegs o.d.toNat (n / 4)) (fun s L =>
    ⟨.atom o.d.toNat fn (s.vRun L (o.d.toNat + n / 4) (n / 4))
        (if fn = 12 ∨ fn = 13 then s.vRun L (o.d.toNat + 2 * (n / 4)) (n / 4) else 0),
      s.effAddr L o.base.toNat o.off.toNat (n * o.imm.toNat), n, 2, if fn = 2 then (s.lane L).mode else 0, []⟩)

/-- The 128-byte line at base + offset + 128 · displacement (R207, R212). -/
def askedLine (s : State) (L : LaneId) (o : Pf) : D64 :=
  BitVec.ofNat 64 ((s.effAddr L o.base.toNat o.off.toNat (128 * o.imm.toNat)).toNat / 128 * 128)

end Sys2Proof

/-- R51, R206, R207, R160, R176, R177: the loads of major 12 and the prefetch each make one access for each lane; SLD makes
one for the entry. Registers keep their values until the answer. -/
def Obligations.LoadWordsAsk : Prop :=
  LoadIs .ldS8 1 true ∧ LoadIs .ldZ8 1 false ∧ LoadIs .ldS16 2 true ∧ LoadIs .ldZ16 2 false ∧ LoadIs .ldB32 4 false ∧
  LoadIs .ldB64 8 false ∧ LoadIs .ldB128 16 false ∧
  (∀ o, AsksOnce (.sldB64 o) [(.s, o.d.toNat)] (fun s =>
    ⟨.sld o.d.toNat, groupS s o.base.toNat + BitVec.ofNat 64 (8 * o.imm.toNat), 8, 0, 0, []⟩)) ∧
  (∀ o, AsksEach (.dld o) [(.d, o.d.toNat)] (fun s L =>
    ⟨.dld o.d.toNat, s.effAddr L o.base.toNat o.off.toNat (48 * o.imm.toNat), 48, 7, ((s.lane L).dctl >>> 4) &&& 0xF, []⟩)) ∧
  (∀ o, AsksEach (.wld o) [(.w, o.d.toNat)] (fun s L =>
    ⟨.wld o.d.toNat, s.effAddr L o.base.toNat o.off.toNat (8 * o.imm.toNat), 8, 7, (s.lane L).prec, []⟩)) ∧
  (∀ o, AsksEach (.wlds o) [(.w, o.d.toNat)] (fun s L =>
    ⟨.wld o.d.toNat, s.getS L o.base.toNat + (s.getV L o.off.toNat).zeroExtend 64 * s.getS L (o.base.toNat + 1) +
      BitVec.ofNat 64 (8 * o.imm.toNat), 8, 7, (s.lane L).prec, []⟩)) ∧
  (∀ o, AsksEach (.prf o) [] (fun s L => ⟨.prf, askedLine s L o, 128, 0, 0, []⟩))

/-- R208, R145, R160, R176, R177: the stores of major 13. No byte of memory changes at the word: the access stores where it is
performed, at the address that the statement computes. DST of an invalid register sets DI. That DST's DI and its store come at one moment
is the model's choice (log entry 96). -/
def Obligations.StoreWordsAsk : Prop :=
  StoreIs .stB8 1 ∧ StoreIs .stB16 2 ∧ StoreIs .stB32 4 ∧ StoreIs .stB64 8 ∧ StoreIs .stB128 16 ∧
  (∀ o, AsksOnce (.sstB64 o) [] (fun s => ⟨.st (groupS s o.d.toNat).toNat,
    groupS s o.base.toNat + BitVec.ofNat 64 (8 * o.imm.toNat), 8, 1, 0, []⟩)) ∧
  (∀ o s hdr k prio, Passes s (.dst o) → s.fall = some (.go hdr k prio) → ∃ t, exec (.dst o) s = .next t ∧
    t.accs = s.accs ++ s.sel.lanes.mapIdx (fun j l => accessOf s (s.nextId + j) [l] ⟨.st (s.getD (s.sel.lane l) o.d.toNat).record,
      s.effAddr (s.sel.lane l) o.base.toNat o.off.toNat (48 * o.imm.toNat), 48, 8, 0, []⟩) ∧
    t.nextId = s.nextId + s.sel.lanes.length ∧
    (∀ l ∈ s.sel.lanes, Moved t (s.sel.lane l) { s.lane (s.sel.lane l) with dctl :=
      if (s.getD (s.sel.lane l) o.d.toNat).valid then (s.lane (s.sel.lane l)).dctl
      else (s.lane (s.sel.lane l)).dctl ||| flagDI } hdr k prio) ∧
    RegsKept s t [] ∧ ValuesKept s t ∧ LanesKept s t ∧ OnlyAsks s t) ∧
  (∀ o, AsksEach (.wst o) [] (fun s L => ⟨.st (ofLe (s.getW L o.d.toNat).record),
    s.effAddr L o.base.toNat o.off.toNat (8 * o.imm.toNat), (s.getW L o.d.toNat).record.length, 8, 0, []⟩)) ∧
  (∀ o, AsksEach (.wsts o) [] (fun s L => ⟨.st (ofLe (s.getW L o.d.toNat).record),
    s.getS L o.base.toNat + (s.getV L o.off.toNat).zeroExtend 64 * s.getS L (o.base.toNat + 1) +
      BitVec.ofNat 64 (8 * o.imm.toNat), (s.getW L o.d.toNat).record.length, 8, 0, []⟩))

/-- R209, R210: the atomics of major 14. -/
def Obligations.AtomicWordsAsk : Prop :=
  AtomicIs .atomAddB32 0 4 ∧ AtomicIs .atomAddB64 1 8 ∧ AtomicIs .atomFaddF32 2 4 ∧ AtomicIs .atomMinS32 3 4 ∧
  AtomicIs .atomMaxS32 4 4 ∧ AtomicIs .atomMinZ32 5 4 ∧ AtomicIs .atomMaxZ32 6 4 ∧ AtomicIs .atomAndB32 7 4 ∧
  AtomicIs .atomOrB32 8 4 ∧ AtomicIs .atomXorB32 9 4 ∧ AtomicIs .atomExchB32 10 4 ∧ AtomicIs .atomExchB64 11 8 ∧
  AtomicIs .atomCasB32 12 4 ∧ AtomicIs .atomCasB64 13 8 ∧ AtomicIs .atomIncZ32 14 4

/-- R194, R195, R211 to R213: a fence that has nothing to wait for only goes on; it waits while an access of the lane is still
to be performed, FENCE.host only while one is that may go to the host: it does not wait for those behind an aperture. CWB and CINV name a line; XLQ asks for a translation of one byte. -/
def Obligations.FenceAndCacheWordsAct : Prop :=
  Writes .fenceHost (fun _ _ => []) ∧ Writes .fenceSys (fun _ _ => []) ∧
  (∀ (s : State) (L : LaneId), (∃ a ∈ s.laneAccs L, a.stage ≠ .done) → s.moreWait L .fenceSys = true) ∧
  (∀ (s : State) (L : LaneId), (∃ a ∈ s.laneAccs L, a.stage ≠ .done ∧ vspace a.va = .ordinary ∧ (a.home = 1 ∨ a.home = 3) ∧
    (∀ d c as p, a.op ≠ .svc d c as p) ∧ (∀ d, a.op ≠ .xlq d) ∧ (∀ d op, a.op ≠ .bar d op)) → s.moreWait L .fenceHost = true) ∧
  (∀ (s : State) (L : LaneId), (∀ a ∈ s.laneAccs L, a.stage ≠ .done → vspace a.va ≠ .ordinary) → s.moreWait L .fenceHost = false) ∧
  (∀ o, AsksEach (.cwb o) [] (fun s L => ⟨.cwb, askedLine s L o, 128, 1, 0, []⟩)) ∧
  (∀ o, AsksEach (.cinv o) [] (fun s L => ⟨.cinv, askedLine s L o, 128, 1, 0, []⟩)) ∧
  (∀ o, AsksEach (.xlq o) [(.v, o.d.toNat), (.v, o.d.toNat + 1)] (fun s L =>
    ⟨.xlq o.d.toNat, s.effAddr L o.base.toNat o.off.toNat (8 * o.imm.toNat), 1, 0, 0, []⟩))

/-! ### Majors 16 to 18: the matrix pair, copies and barriers -/

namespace Sys2Proof

/-- The tile table after a word that marks tile `c` with a state, and adds a reader to each of `src` (R120, R221). -/
def TilesMarked (s t : State) (c : Nat) (st : TileState) (src : List Nat) : Prop :=
  ∀ n, t.tile s.sel.team n = (s.tile s.sel.team n).map (fun x =>
    let y := if n = c then { x with state := st, progress := 0 } else x
    { y with readers := x.readers + src.count n })

/-- The run that a word of major 16 creates (R120). -/
def runOf (s : State) (k : RunKind) (c a b f : Nat) (par : List D64) (total : Nat) : Run :=
  { id := s.nextId, team := s.sel.team, group := s.sel.group, kind := k, c := c, a := a, b := b, f := f, par := par, pos := 0,
    total := total, ts := s.groupPts s.sel.team s.sel.group, asked := [], eaten := [], lines := [], causes := [], ovf := false }

/-- A word of major 16 that passes its checks creates one run: its destination is FILLING, its sources have one more reader,
and, if it uses the pair, it joins the escapement's queue of its core; the lanes go on and nothing else differs (R120, R127). -/
def StartsRun (i : Instr) (r : State → Run) : Prop :=
  ∀ s hdr k prio, Passes s i → s.fall = some (.go hdr k prio) →
    ∃ t, exec i s = .next t ∧ t.runs = s.runs ++ [r s] ∧ t.nextId = s.nextId + 1 ∧
      TilesMarked s t (r s).c .filling (r s).sources ∧
      t.core (s.team s.sel.team).core =
        (if (r s).kind.paired then { s.core (s.team s.sel.team).core with
            fifo := (s.core (s.team s.sel.team).core).fifo ++ [s.nextId] } else s.core (s.team s.sel.team).core) ∧
      (∀ c, c ≠ (s.team s.sel.team).core → t.core c = s.core c) ∧
      (∀ u n, u ≠ s.sel.team → t.tile u n = s.tile u n) ∧
      (∀ l ∈ s.sel.lanes, (t.lane (s.sel.lane l)).hdr = hdr ∧ (t.lane (s.sel.lane l)).k = k ∧
        (t.lane (s.sel.lane l)).prio = prio) ∧
      LanesKept s t ∧
      t = { s with runs := t.runs, nextId := t.nextId, tiles := t.tiles, cores := t.cores, lanes := t.lanes }

/-- The s registers of a parameter base, `n` of them. -/
def parS (s : State) (sp n : Nat) : List D64 := (List.range n).map (fun i => s.getS (s.sel.lane 0) (sp + i))

/-- K-blocks of a tile (R131). -/
def kBlocks (s : State) (a : Nat) : Nat := ((s.tile s.sel.team a).map (fun x => x.cols / 64)).getD 0

end Sys2Proof

/-- R120 to R137: the words of major 16. MREL lets the lease of the team's leased run count as complete, and does nothing
where that team holds no pair. -/
def Obligations.MatrixWordsStartRuns : Prop :=
  (∀ c a b sp, StartsRun (.mma c a b sp) (fun s => runOf s .mma c.toNat a.toNat b.toNat 0 (parS s sp.toNat 2) 1)) ∧
  (∀ c a b sp, StartsRun (.mloop c a b sp) (fun s => runOf s .mloop c.toNat a.toNat b.toNat 0 (parS s sp.toNat 2)
    ((s.getS (s.sel.lane 0) sp.toNat).toNat % 2 ^ 16))) ∧
  (∀ c a b sp, StartsRun (.mloops c a b sp) (fun s => runOf s .mloops c.toNat a.toNat b.toNat 0 (parS s sp.toNat 2)
    ((s.getS (s.sel.lane 0) sp.toNat).toNat % 2 ^ 16))) ∧
  (∀ c a b sp f, StartsRun (.attn c a b sp f) (fun s => runOf s .attn c.toNat a.toNat b.toNat f.toNat (parS s sp.toNat 4)
    ((s.getS (s.sel.lane 0) sp.toNat).toNat % 2 ^ 16))) ∧
  (∀ c a f, StartsRun (.hadq c a f) (fun s => runOf s .hadq c.toNat a.toNat 0 f.toNat [] (kBlocks s a.toNat))) ∧
  (∀ c a, StartsRun (.qnt c a) (fun s => runOf s .qnt c.toNat a.toNat 0 0 [] (kBlocks s a.toNat))) ∧
  (∀ c, StartsRun (.accz c) (fun s => runOf s .accz c.toNat 0 0 0 [] 1)) ∧
  (∀ c a b16, StartsRun (.accrd c a b16) (fun s => runOf s .accrd c.toNat a.toNat 0 0 [] 1)) ∧
  (∀ c a, StartsRun (.accwr c a) (fun s => runOf s .accwr c.toNat a.toNat 0 0 [] 1)) ∧
  (∀ s hdr k prio, Passes s .mrel → s.fall = some (.go hdr k prio) → ∃ t, exec .mrel s = .next t ∧
    (∀ id n r, (s.core (s.team s.sel.team).core).hold = some (id, n) → s.run id = some r → r.team = s.sel.team →
      r.kind = .mloop ∨ r.kind = .mloops ∨ r.kind = .attn →
      (t.core (s.team s.sel.team).core).hold = some (r.id, (s.hdr s.sel.team).lease)) ∧
    (∀ c, (t.core c).fifo = (s.core c).fifo ∧ (c ≠ (s.team s.sel.team).core → t.core c = s.core c)) ∧
    ((s.core (s.team s.sel.team).core).hold = none → t.core (s.team s.sel.team).core = s.core (s.team s.sel.team).core) ∧
    (∀ l ∈ s.sel.lanes, (t.lane (s.sel.lane l)).hdr = hdr ∧ (t.lane (s.sel.lane l)).k = k) ∧
    LanesKept s t ∧ t = { s with cores := t.cores, lanes := t.lanes })

namespace Sys2Proof

/-- The copy that a word of major 17 creates (R220, R221). -/
def copyOf (s : State) (k : CopyKind) (tile idx : Nat) (d : Desc) (quad : List D64) (count rel : Bool) : Copy :=
  { id := s.nextId, team := s.sel.team, group := s.sel.group, kind := k, tile := tile, idx := idx, desc := d, quad := quad,
    index := none, count := count, rel := rel, ts := s.groupPts s.sel.team s.sel.group, sent := [], landed := [], done := 0,
    failed := false }

/-- A copy word that passes its checks creates one copy: its tile is DRAINING if it is written out, else FILLING, a gather's
index tile has one more reader, the lanes go on and nothing else differs (R215, R220, R221). -/
def StartsCopy (i : Instr) (src : List Nat) (d : State → Desc → Prop) (c : State → Desc → Copy) : Prop :=
  ∀ s hdr k prio x, Passes s i → s.fall = some (.go hdr k prio) → d s x →
    ∃ t, exec i s = .next t ∧ t.copies = s.copies ++ [c s x] ∧ t.nextId = s.nextId + 1 ∧
      TilesMarked s t (c s x).tile (if (c s x).kind = .out ∨ (c s x).kind = .tt then .draining else .filling) src ∧
      (∀ u n, u ≠ s.sel.team → t.tile u n = s.tile u n) ∧
      (∀ l ∈ s.sel.lanes, (t.lane (s.sel.lane l)).hdr = hdr ∧ (t.lane (s.sel.lane l)).k = k) ∧
      LanesKept s t ∧ t = { s with copies := t.copies, nextId := t.nextId, tiles := t.tiles, lanes := t.lanes }

/-- A tile word that passes its checks: the entry of tile `c` becomes `e`, the lanes go on and nothing else differs. -/
def SetsTile (i : Instr) (c : Nat) (e : State → Option Tile → Option Tile) : Prop :=
  ∀ s hdr k prio, Passes s i → s.fall = some (.go hdr k prio) →
    ∃ t, exec i s = .next t ∧ t.tile s.sel.team c = e s (s.tile s.sel.team c) ∧
      (∀ u n, (u, n) ≠ (s.sel.team, c) → t.tile u n = s.tile u n) ∧
      (∀ l ∈ s.sel.lanes, (t.lane (s.sel.lane l)).hdr = hdr ∧ (t.lane (s.sel.lane l)).k = k) ∧
      LanesKept s t ∧ t = { s with tiles := t.tiles, lanes := t.lanes }

end Sys2Proof

/-- R214 to R221: the words of major 17: the four copies capture a valid descriptor and their parameter quad; TDEF writes an
entry, EMPTY, from its parameter pair; TDROP removes it; TREL empties it; TSET asks for a descriptor and the tensor id is
pending; TSTAT writes the status word. -/
def Obligations.CopyAndTileWordsAct : Prop :=
  (∀ c x sp bar, StartsCopy (.copyIn c x sp bar) [] (fun s d => s.tensor s.sel.team x.toNat = .valid d)
    (fun s d => copyOf s .inn c.toNat 0 d (parS s sp.toNat 4) bar false)) ∧
  (∀ c x sp rel bar, StartsCopy (.copyOut c x sp rel bar) [] (fun s d => s.tensor s.sel.team x.toNat = .valid d)
    (fun s d => copyOf s .out c.toNat 0 d (parS s sp.toNat 4) bar rel)) ∧
  (∀ c sp rel bar, StartsCopy (.copyTt c sp rel bar) [] (fun s d => s.tensor s.sel.team 16 = .unset ∧ d = ⟨0, [], [], []⟩)
    (fun s d => copyOf s .tt c.toNat 0 d (parS s sp.toNat 4) bar rel)) ∧
  (∀ c x b sp bar, StartsCopy (.copyGather c x b sp bar) [b.toNat] (fun s d => s.tensor s.sel.team x.toNat = .valid d)
    (fun s d => copyOf s .gather c.toNat b.toNat d (parS s sp.toNat 4) bar false)) ∧
  (∀ c sp, SetsTile (.tdef c sp) c.toNat (fun s _ =>
    let p0 := (s.getS (s.sel.lane 0) sp.toNat).toNat
    let p1 := (s.getS (s.sel.lane 0) (sp.toNat + 1)).toNat
    some { fmt := p0 / 2 ^ 32 % 16, acc := p0.testBit 36, off := p0 % 2 ^ 32, rows := p1 % 2 ^ 16, cols := p1 / 2 ^ 16 % 2 ^ 16,
           state := .empty, readers := 0, progress := 0, ovf := false, failed := false, rel := false })) ∧
  (∀ c, SetsTile (.tdrop c) c.toNat (fun _ _ => none)) ∧
  (∀ c, SetsTile (.trel c) c.toNat (fun _ x => x.map (fun x => { x with state := .empty, progress := 0 }))) ∧
  (∀ c sp, Writes (.tstat c sp) (fun s _ => [.s sp.toNat (match s.tile s.sel.team c.toNat with
    | none => 0
    | some x => BitVec.ofNat 64 (x.state.code + b2n x.failed * 2 ^ 8 + 2 ^ 9 + b2n x.ovf * 2 ^ 10 + b2n x.acc * 2 ^ 11 +
        x.fmt * 2 ^ 12 + x.readers % 256 * 2 ^ 16 +
        (if x.state = .filling ∨ x.state = .draining then x.progress % 2 ^ 32 else 0) * 2 ^ 24))])) ∧
  (∀ x sp s hdr k prio, Passes s (.tset x sp) → s.fall = some (.go hdr k prio) → ∃ t, exec (.tset x sp) s = .next t ∧
    t.accs = s.accs ++ [accessOf s s.nextId s.sel.lanes ⟨.tset x.toNat, s.getS (s.sel.lane 0) sp.toNat, 64, 6, 0, []⟩] ∧
    t.tensor s.sel.team x.toNat = .pending ∧
    (∀ u n, (u, n) ≠ (s.sel.team, x.toNat) → t.tensor u n = s.tensor u n) ∧
    (∀ l ∈ s.sel.lanes, (t.lane (s.sel.lane l)).hdr = hdr ∧ (t.lane (s.sel.lane l)).k = k) ∧ LanesKept s t ∧
    t = { s with accs := t.accs, nextId := s.nextId + 1, tensors := t.tensors, lanes := t.lanes })

namespace Sys2Proof

/-- A barrier word asks its home once, for the lanes of its entry (R257). -/
def BarrierIs (i : Instr) (sb : BitVec 5) (op : State → BarOp) : Prop :=
  AsksOnce i [] (fun s => ⟨.bar 0 (op s), groupS s sb.toNat, 16, 9, 0, s.sel.lanes⟩)

/-- The sum of the byte counts of some lanes, each read as signed (R260). -/
def bytesOf (s : State) (v : BitVec 6) (ls : List Nat) : Int := (ls.map (fun l => (s.getV (s.sel.lane l) v.toNat).toInt)).sum

/-- A word after which each lane waits: `w` from its next word, the destinations `es` empty, and perhaps one access each. -/
def WaitsAt (i : Instr) (es : List (RegClass × Nat)) (q : Option (State → LaneId → Ask)) (w : State → LaneId → Next → Wait) :
    Prop :=
  ∀ s hdr k prio, Passes s i → s.fall = some (.go hdr k prio) →
    ∃ t, exec i s = .next t ∧
      t.accs = s.accs ++ (match q with
        | none => []
        | some q => s.sel.lanes.mapIdx (fun j l => accessOf s (s.nextId + j) [l] (q s (s.sel.lane l)))) ∧
      (∀ l ∈ s.sel.lanes, (∀ e ∈ es, e ≠ (.p, 0) → t.isFull (s.sel.lane l) e.1 e.2 = false) ∧
        t.lane (s.sel.lane l) = { s.lane (s.sel.lane l) with wait := w s (s.sel.lane l) (.go hdr k prio) }) ∧
      RegsKept s t (s.sel.lanes.flatMap (fun l => es.map (fun e => s.rid (s.sel.lane l) e.1 e.2))) ∧
      ValuesKept s t ∧ LanesKept s t ∧ OnlyAsks s t

/-- A word that gives the group a new join list; the lanes go on and nothing else differs (R261). -/
def SetsJoins (i : Instr) (j : State → List D64) : Prop :=
  ∀ s hdr k prio, Passes s i → s.fall = some (.go hdr k prio) →
    ∃ t, exec i s = .next t ∧
      t.group s.sel.team s.sel.group = { s.group s.sel.team s.sel.group with joins := j s } ∧
      (∀ u g, (u, g) ≠ (s.sel.team, s.sel.group) → t.group u g = s.group u g) ∧
      (∀ l ∈ s.sel.lanes, (t.lane (s.sel.lane l)).hdr = hdr ∧ (t.lane (s.sel.lane l)).k = k) ∧
      LanesKept s t ∧ t = { s with groups := t.groups, lanes := t.lanes }

end Sys2Proof

/-- R256 to R261: the words of major 18. BINIT, BARV, BARVB, BDROP and BTST ask the barrier's home once for the entry; BWAIT
and BWAITT begin a wait; BJOIN keeps at most four joins, the oldest giving way; BLEAVE removes one. -/
def Obligations.BarrierWordsAct : Prop :=
  (∀ sb n, BarrierIs (.binit sb n) sb (fun _ => .init n.toNat false 0)) ∧
  (∀ sb v, BarrierIs (.binitReg sb v) sb (fun s =>
    let x := (s.getV (s.sel.lane (s.sel.lanes.headD 0)) v.toNat).toNat
    .init (x % 2 ^ 16) (x.testBit 20) (x / 2 ^ 16 % 16))) ∧
  (∀ sb ord, BarrierIs (.barv sb ord) sb (fun s => .update (if ord then 1 else s.sel.lanes.length) 0 0 0)) ∧
  (∀ sb v out ord, BarrierIs (.barvb sb v out ord) sb (fun s =>
    let x := bytesOf s v (if ord then s.sel.lanes.take 1 else s.sel.lanes)
    .update (if ord then 1 else s.sel.lanes.length) 0 (if out then 0 else x) (if out then x else 0))) ∧
  (∀ sb ord, BarrierIs (.bdrop sb ord) sb (fun s => .update 0 (if ord then 1 else s.sel.lanes.length) 0 0)) ∧
  (∀ sb v, AsksOnce (.btst sb v) [(.v, v.toNat)] (fun s => ⟨.bar v.toNat .test, groupS s sb.toNat, 16, 9, 0, s.sel.lanes⟩)) ∧
  (∀ sb v, WaitsAt (.bwait sb v) [] none (fun s L n => .barrier (s.getS L sb.toNat) (s.getV L v.toNat).toNat n)) ∧
  (∀ sb v p, WaitsAt (.bwaitt sb v p) [(.p, p.toNat)] none (fun s L n =>
    .timed (s.getS L sb.toNat) (s.getV L v.toNat).toNat (s.clock + (s.getV L (v.toNat + 1)).toNat) p.toNat n)) ∧
  (∀ sb, SetsJoins (.bjoin sb) (fun s =>
    let j := (s.group s.sel.team s.sel.group).joins
    let a := groupS s sb.toNat
    if a ∈ j then j else (if j.length < 4 then j else j.tail) ++ [a])) ∧
  (∀ sb, SetsJoins (.bleave sb) (fun s => (s.group s.sel.team s.sel.group).joins.filter (· ≠ groupS s sb.toNat)))

/-! ### Majors 19 to 22: distributions and windows -/

namespace Sys2Proof

/-- What a pairing of two distributions gives, and its flags (R146, R147, R150): eight values of equal weight, or eight
canonical NaNs where a source is invalid. -/
def paired (m : ModeF) (g : Nat → Nat → Nat) (x y : DVal) : DVal × W32 :=
  if x.valid ∧ y.valid then
    let r := DVal.even (emc m 27 (pairing g x y).1) (x.tag ||| y.tag)
    (r, (pairing g x y).2 ||| r.dn)
  else (DVal.even (List.replicate 8 0x7FC00000) (x.tag ||| y.tag), flagDI ||| flagDN)

/-- A distribution word that begins one operation for each lane, with one d result. -/
def DistIs (i : Instr) (d : BitVec 4) (r : State → LaneId → DVal × W32) : Prop :=
  Begins i false (fun s L => [.d d.toNat (r s L).1]) (fun s L => (r s L).2) (fun _ _ => 0)

/-- A word of two d sources. -/
def DistPairIs (c : BitVec 4 → BitVec 4 → BitVec 4 → Instr) (g : ModeF → Nat → Nat → Nat) : Prop :=
  ∀ d a b, DistIs (c d a b) d (fun s L => paired (s.modeF L) (g (s.modeF L)) (s.getD L a.toNat) (s.getD L b.toNat))

/-- A word that maps each value; weights, tag and order stay (R152). -/
def mapped (x : DVal) (g : W32 → W32) : DVal × W32 :=
  let r := DVal.make (x.atoms.map (fun z => (g z.1, z.2))) x.tag
  (r, r.dn ||| (if x.valid then 0 else flagDI))

end Sys2Proof

/-- R144 to R152: the words of major 19. That a word's result is decided from the state at issue, and pends until it completes, is the
model's choice (log entry 36), and so is the enclosure that decides the rounding of DEXP2's values (log entry 13). -/
def Obligations.DistributionWordsBegin : Prop :=
  DistPairIs .dadd (fun m => flop2 .f32 m opAdd) ∧ DistPairIs .dsub (fun m => flop2 .f32 m opSub) ∧
  DistPairIs .dmul (fun m => flop2 .f32 m opMul) ∧ DistPairIs .dmax (fmaxOf .f32) ∧ DistPairIs .dmin (fminOf .f32) ∧
  (∀ d a b v, DistIs (.dmix d a b v) d (fun s L =>
    let x := s.getD L a.toNat
    let y := s.getD L b.toNat
    if x.valid ∧ y.valid then
      let lam := min (s.getV L v.toNat).toNat 65536
      let r := DVal.even (emc (s.modeF L) 28
        (x.atoms.mapIdx (fun i z => ⟨inF (s.modeF L) z.1, z.2.toNat * lam, i, 0⟩) ++
          y.atoms.mapIdx (fun i z => ⟨inF (s.modeF L) z.1, z.2.toNat * (65536 - lam), 8 + i, 0⟩))) (x.tag ||| y.tag)
      (r, r.dn)
    else (DVal.even (List.replicate 8 0x7FC00000) (x.tag ||| y.tag), flagDI ||| flagDN))) ∧
  (∀ d a, DistIs (.dneg d a) d (fun s L => mapped (s.getD L a.toNat) (fun x => BitVec.ofBool (!x.msb) ++ x.extractLsb' 0 31))) ∧
  (∀ d a v, DistIs (.daff d a v) d (fun s L => mapped (s.getD L a.toNat) (fun x => BitVec.ofNat 32
    (flop3 .f32 (s.modeF L) opFma x.toNat (s.getV L v.toNat).toNat (s.getV L (v.toNat + 1)).toNat)))) ∧
  (∀ d a, DistIs (.drelu d a) d (fun s L => mapped (s.getD L a.toNat) (fun x => BitVec.ofNat 32
    (fmaxOf .f32 (s.modeF L) x.toNat 0)))) ∧
  (∀ d a, DistIs (.dexp2 d a) d (fun s L => mapped (s.getD L a.toNat) (fun x => BitVec.ofNat 32
    (flop1 .f32 (s.modeF L) (Fval.exp2 .f32 (s.modeF L).rm) x.toNat)))) ∧
  (∀ d a, DistIs (.dmov d a) d (fun s L => (s.getD L a.toNat, 0)))

namespace Sys2Proof

/-- A word that reads a distribution into a v register: NaN and DI where it is invalid (R159). -/
def DistReadIs (i : Instr) (a : BitVec 4) (v : BitVec 6) (g : State → LaneId → DVal → W32) : Prop :=
  Begins i false (fun s L => [.v v.toNat (if (s.getD L a.toNat).valid then g s L (s.getD L a.toNat) else 0x7FC00000)])
    (fun s L => if (s.getD L a.toNat).valid then 0 else flagDI) (fun _ _ => 0)

/-- A register built from eight values of equal weight, DN where one is a NaN (R149, R154). -/
def built (xs : List W32) (tag : BitVec 16) : DVal × W32 := (DVal.even xs tag, (DVal.even xs tag).dn)

end Sys2Proof

/-- R153 to R159: the words of major 20. That a word's result is decided from the state at issue (log entry 36), and that
FZ32 decides DQNT's order of values but not the bits that it returns (log entry 38), is the model's choice. -/
def Obligations.DistributionReadsBegin : Prop :=
  (∀ d v, DistIs (.dpnt d v) d (fun s L => built (List.replicate 8 (s.getV L v.toNat)) 0)) ∧
  (∀ d v n, DistIs (.dfroms d v n) d (fun s L =>
    built ((List.range 8).map (fun i => inF (s.modeF L) (s.getV L (v.toNat + i)))) (BitVec.ofNat 16 (2 ^ n.toNat)))) ∧
  (∀ d v n, DistIs (.dnorm d v n) d (fun s L =>
    built (zConsts.map (fun z => BitVec.ofNat 32 (flop3 .f32 (s.modeF L) opFma (s.getV L (v.toNat + 1)).toNat z
      (s.getV L v.toNat).toNat))) (BitVec.ofNat 16 (2 ^ n.toNat)))) ∧
  (∀ a v k, DistReadIs (.dmom a v k) a v (fun s L x => moment (s.modeF L) k.toNat x)) ∧
  (∀ a v, DistReadIs (.dqnt a v) a v (fun s L x => quantile (s.modeF L) ((s.getV L v.toNat).toNat % 2 ^ 16) x)) ∧
  (∀ a v, DistReadIs (.dprb a v) a v (fun s L x => probability (s.modeF L) (s.getV L v.toNat) x)) ∧
  (∀ d a v, DistIs (.dtag d a v) d (fun s L =>
    ({ s.getD L a.toNat with tag := (s.getV L v.toNat).extractLsb' 0 16 }, 0))) ∧
  (∀ a v, Begins (.dtgr a v) false (fun s L => [.v v.toNat (BitVec.ofNat 32 ((s.getD L a.toNat).tag.toNat +
    (if (s.getD L a.toNat).sorted then 2 ^ 16 else 0) + (if (s.getD L a.toNat).valid then 0 else 2 ^ 17)))])
    (fun _ _ => 0) (fun _ _ => 0)) ∧
  (∀ a v n, Begins (.datom a v n) false (fun s L =>
    let z := (s.getD L a.toNat).atoms.getD n.toNat (0, 0)
    [.v v.toNat z.1, .v (v.toNat + 1) (0#16 ++ z.2)]) (fun _ _ => 0) (fun _ _ => 0))

namespace Sys2Proof

/-- The lane that a trap leaves (R62, R63, R64): TCAUSE, TPC and TVAL are written, and the lane stands at k = 1 of the
trap-handler clause, at priority 255. -/
def trapped (s : State) (L : LaneId) (cause : Nat) (tval : D64) : Lane :=
  { s.lane L with tcause := BitVec.ofNat 32 cause, tpc := tpcOf s.sel.hdr s.sel.k, tval := tval, inHandler := true,
                  hdr := s.handler L.team, k := 1, prio := 255, wait := .none, arrive := s.nextId, since := s.clock }

/-- Every lane of the entry can take a trap: its team is placed, its kernel has a handler clause, which is not known to be no
header, and the lane is not in its handler. -/
def CanTrap (s : State) : Prop :=
  s.sel.lanes.Nodup ∧ (s.teams.find s.sel.team).isSome ∧ ∀ l ∈ s.sel.lanes, s.trapBar (s.sel.lane l) = none

/-- A word at which every lane of the entry, where each meets `c`, takes one trap and nothing else (R63). -/
def TrapsIf (c : State → LaneId → Prop) (i : Instr) (cause : Nat) (tval : State → LaneId → D64) : Prop :=
  ∀ s, Passes s i → CanTrap s → (∀ l ∈ s.sel.lanes, c s (s.sel.lane l)) →
    ∃ t, exec i s = .next t ∧
      (∀ l ∈ s.sel.lanes, t.lane (s.sel.lane l) = trapped s (s.sel.lane l) cause (tval s (s.sel.lane l))) ∧
      LanesKept s t ∧ t = { s with lanes := t.lanes }

/-- What a word that writes w register `d` commits: the register value, and whether it is exhausted (R167, R169). -/
def committed (s : State) (L : LaneId) (d : Nat) (y : Wnum × Rule × Nat) : WVal :=
  commitVal (s.getW L d).cap (s.precF L).rm y.1 y.2.1 y.2.2
def exhausts (s : State) (L : LaneId) (d : Nat) (y : Wnum × Rule × Nat) : Bool :=
  exhausted (s.getW L d).cap (s.precF L).floor y.2.2 y.1 (committed s L d y)

/-- TVAL of the trap of an exhausted result (R62). -/
def exhaustedTval (s : State) (L : LaneId) (d : Nat) (y : Wnum × Rule × Nat) : D64 :=
  BitVec.ofNat 64 (d + (committed s L d y).valid * 2 ^ 5 + (s.precF L).floor * 2 ^ 14 +
    (if 64 * (s.getW L d).cap < y.2.2 then 2 ^ 23 else 0))

/-- The operation that a word which writes w register `d` begins for one lane: with TE clear one whose flag PX says that the result
is exhausted; with TE set one that holds the lane at the word, and ends with the write or, where the result is exhausted, with
trap 7 and no write (R169, R170); it keeps the word, PREC and the values of the word's sources, which its team's image records
(R180). -/
def windowOp (s : State) (i : Instr) (id : Nat) (L : LaneId) (d : Nat) (y : Wnum × Rule × Nat) : Pend :=
  if (s.precF L).te = true then
    { pendOf id L true (if exhausts s L d y then [] else [.w d (committed s L d y)]) 0 0 with
      te := true, trap := if exhausts s L d y then some (exhaustedTval s L d y) else none,
      word := s.sel.word, prec := (s.lane L).prec, srcs := s.captured L i.uses }
  else pendOf id L true [.w d (committed s L d y)] 0 (if exhausts s L d y then 0x200000 else 0)

/-- A word that writes a w register, whatever mix of TE bits and of exhausted results its lanes have: each lane of the entry begins its
operation, in lane order. A lane with TE clear goes on with its destination empty; one with TE set waits at the word, its registers
as they were (R169, R170). -/
def WindowIs (i : Instr) (d : BitVec 5) (y : State → LaneId → Wnum × Rule × Nat) : Prop :=
  ∀ s hdr k prio, Passes s i → s.fall = some (.go hdr k prio) →
    ∃ t, exec i s = .next t ∧
      t.pend = s.pend ++ s.sel.lanes.mapIdx (fun j l => windowOp s i (s.nextId + j) (s.sel.lane l) d.toNat (y s (s.sel.lane l))) ∧
      t.nextId = s.nextId + s.sel.lanes.length ∧
      (∀ l ∈ s.sel.lanes,
        ((s.precF (s.sel.lane l)).te = false → t.isFull (s.sel.lane l) .w d.toNat = false ∧
          Moved t (s.sel.lane l) (s.lane (s.sel.lane l)) hdr k prio) ∧
        ((s.precF (s.sel.lane l)).te = true →
          t.lane (s.sel.lane l) = { s.lane (s.sel.lane l) with wait := .te (.go hdr k prio) })) ∧
      RegsKept s t ((s.sel.lanes.filter (fun l => !(s.precF (s.sel.lane l)).te)).map (fun l => s.rid (s.sel.lane l) .w d.toNat)) ∧
      ValuesKept s t ∧ LanesKept s t ∧ OnlyPend s t

/-- A window word that writes v registers. -/
def WindowReadIs (i : Instr) (ws : State → LaneId → List RegW) : Prop := Begins i true ws (fun _ _ => 0) (fun _ _ => 0)

/-- The capacity that WCFG gives w register n, from two s registers (R166). -/
def capOf (x y : D64) (n : Nat) : Nat := (if n < 16 then x.toNat / 2 ^ (4 * n) else y.toNat / 2 ^ (4 * (n - 16))) % 16

end Sys2Proof

/-- R167 to R175: the words of major 21, and WSETL, WGETL and WINFO of major 22. That a result is decided from the state at issue is the
model's choice (log entry 36), and so is the order in which lanes held by TE complete (log entry 37); TVAL's bit 23 for WNEG, WABS, WMOV
and WSETL, and WDIV of an infinity by zero, are its choices too (log entry 93). -/
def Obligations.WindowWordResults : Prop :=
  (∀ d a b t, WindowIs (.wadd d a b t) d (fun s L => waddRes (s.precF L) (s.getW L a.toNat) (s.getW L b.toNat))) ∧
  (∀ d a b t, WindowIs (.wsub d a b t) d (fun s L => wsubRes (s.precF L) (s.getW L a.toNat) (s.getW L b.toNat))) ∧
  (∀ d a b t, WindowIs (.wmul d a b t) d (fun s L => wmulRes (s.precF L) (s.getW L a.toNat) (s.getW L b.toNat))) ∧
  (∀ d a b t, WindowIs (.wdiv d a b t) d (fun s L => wdivRes (s.precF L) (s.getW L a.toNat) (s.getW L b.toNat))) ∧
  (∀ d a t, WindowIs (.wsqrt d a t) d (fun s L => wsqrtRes (s.precF L) (s.getW L a.toNat))) ∧
  (∀ d a b t, WindowIs (.wfma d a b t) d (fun s L =>
    wfmaRes (s.precF L) (s.getW L a.toNat) (s.getW L b.toNat) (s.getW L d.toNat))) ∧
  (∀ d a t, WindowIs (.wneg d a t) d (fun s L =>
    wsame (s.getW L a.toNat) (!(s.getW L a.toNat).neg) (s.getW L a.toNat).len)) ∧
  (∀ d a t, WindowIs (.wabs d a t) d (fun s L => wsame (s.getW L a.toNat) false (s.getW L a.toNat).len)) ∧
  (∀ d a t, WindowIs (.wrnd d a t) d (fun s L => wrndRes (s.precF L) (s.getW L a.toNat))) ∧
  (∀ d a v t, WindowIs (.wldexp d a v t) d (fun s L => wldexpRes (s.precF L) (s.getW L a.toNat) (s.getV L v.toNat).toInt)) ∧
  (∀ d f v t, WindowIs (.wfrom d f v t) d (fun s L => wfromRes (s.precF L) f.toNat (s.getV L v.toNat)
    (if f.toNat = 1 ∨ 4 ≤ f.toNat then s.getV L (v.toNat + 1) else 0))) ∧
  (∀ d a t, WindowIs (.wmov d a t) d (fun s L =>
    wsame (s.getW L a.toNat) (s.getW L a.toNat).neg (s.getW L a.toNat).len)) ∧
  (∀ d a v t, WindowIs (.wsetl d a v t) d (fun s L =>
    wsame (s.getW L a.toNat) (s.getW L a.toNat).neg (max 2 (min 512 (s.getV L v.toNat).toNat)))) ∧
  (∀ a b v t, WindowReadIs (.wcmp a b v t) (fun s L => [.v v.toNat (wcompare (s.getW L a.toNat) (s.getW L b.toNat))])) ∧
  (∀ a f v t, WindowReadIs (.wto a f v t) (fun s L => wtoRes (s.precF L) f.toNat (s.getW L a.toNat) v.toNat)) ∧
  (∀ a v t, WindowReadIs (.wgetl a v t) (fun s L => [.v v.toNat (BitVec.ofNat 32 (s.getW L a.toNat).len)])) ∧
  (∀ a v t, WindowReadIs (.winfo a v t) (fun s L => [.v v.toNat (BitVec.ofNat 32 ((s.getW L a.toNat).len +
      (s.getW L a.toNat).valid * 2 ^ 10 + (s.getW L a.toNat).cls.code * 2 ^ 20 +
      (if (s.getW L a.toNat).neg then 2 ^ 22 else 0) + (s.getW L a.toNat).cap * 2 ^ 23)),
    .v (v.toNat + 1) (BitVec.ofInt 32 (s.getW L a.toNat).exp)]))

/-- R166: WCFG writes every w register of the lane as zero with its new capacity; it takes trap 4 with reason 3 where a
capacity is beyond 8 limbs, or their sum is beyond the header's. -/
def Obligations.WcfgResult : Prop :=
  ∀ sb t,
    WritesIf (fun s L => (∀ n < 32, capOf (s.getS L sb.toNat) (s.getS L (sb.toNat + 1)) n ≤ 8) ∧
        ((List.range 32).map (capOf (s.getS L sb.toNat) (s.getS L (sb.toNat + 1)))).sum ≤ (s.hdr L.team).wlimbs)
      (.wcfg sb t) (fun s L => (List.range 32).map (fun n =>
        .w n { WVal.zero with cap := capOf (s.getS L sb.toNat) (s.getS L (sb.toNat + 1)) n })) ∧
    TrapsIf (fun s L => (∃ n < 32, 8 < capOf (s.getS L sb.toNat) (s.getS L (sb.toNat + 1)) n) ∨
        (s.hdr L.team).wlimbs < ((List.range 32).map (capOf (s.getS L sb.toNat) (s.getS L (sb.toNat + 1)))).sum)
      (.wcfg sb t) 4 (fun _ _ => BitVec.ofNat 64 (sb.toNat + 1 * 2 ^ 8 + 3 * 2 ^ 11))

/-! ### Majors 23 to 26: control, waiting, launching, the system -/

namespace Sys2Proof

/-- A word that sends each lane, where it meets `c`, to the clause header that `goal` names, at its first word and its
priority, or on to the next word; the lane is otherwise `base`, and nothing else differs (R16, R45, R247). The header is read from the
instruction cache, or as its fetch would give it (log entry 9). -/
def JumpsIf (c : State → LaneId → Prop) (i : Instr) (goal : State → LaneId → Option D64) (base : State → LaneId → Lane) :
    Prop :=
  ∀ s, Passes s i →
    (∀ l ∈ s.sel.lanes, c s (s.sel.lane l) ∧
      (∀ a, goal s (s.sel.lane l) = some a → ∃ w, s.headAt (s.team s.sel.team).core (s.team s.sel.team).jn a = some w ∧
        isHeader w = true) ∧
      (goal s (s.sel.lane l) = none → ∃ h k p, s.fall = some (.go h k p))) →
    ∃ t, exec i s = .next t ∧
      (∀ l ∈ s.sel.lanes,
        (∀ a w, goal s (s.sel.lane l) = some a → s.headAt (s.team s.sel.team).core (s.team s.sel.team).jn a = some w →
          Moved t (s.sel.lane l) (base s (s.sel.lane l)) a 1 (headerP w)) ∧
        (∀ h k p, goal s (s.sel.lane l) = none → s.fall = some (.go h k p) →
          Moved t (s.sel.lane l) (base s (s.sel.lane l)) h k p)) ∧
      LanesKept s t ∧ t = { s with lanes := t.lanes }

/-- The target of a relative form: the word's own address, plus 4 times the signed offset (R54). -/
def relTarget (s : State) (off : Int) : D64 := s.sel.hdr + BitVec.ofNat 64 (4 * s.sel.k) + BitVec.ofInt 64 (4 * off)

/-- The return address that a call pushes: the word after the calling clause (R249). -/
def returnTo (s : State) : D64 := s.sel.hdr + BitVec.ofNat 64 (4 * (s.sel.n + 1))

/-- Whether a call of a lane finds room: 8 entries, and those of the header's memory stack (R249). -/
def hasRoom (s : State) (L : LaneId) : Prop := (s.lane L).stack.length < 8 + (s.hdr L.team).stack / 8

/-- An address that is known to be no header: it is misaligned (R41), or the word there has another major (R45). -/
def NoHeaderAt (s : State) (a : D64) : Prop :=
  codeAligned a = false ∨ ∃ w, s.headAt (s.team s.sel.team).core (s.team s.sel.team).jn a = some w ∧ isHeader w = false

/-- An address at which a header stands. -/
def HeaderAt (s : State) (a : D64) : Prop :=
  ∃ w, isHeader w = true ∧ s.headAt (s.team s.sel.team).core (s.team s.sel.team).jn a = some w

/-- A word after which the next clause would stand at an address, `a`, where no header stands (R45). -/
def FallsOff (i : Instr) (a : D64) : Prop := TrapsIf (fun s _ => s.fall = some (.bad a)) i 3 (fun _ _ => a)

/-- The target of BRX and CALLX: an unsigned byte offset from the kernel's first clause (R54, R247). -/
def farTarget (l : Launch) (x : W32) : D64 := l.record.kernel + BitVec.ofNat 64 l.hdr.first + x.zeroExtend 64

end Sys2Proof

/-- R45, R63, R247, R248: the branches. A last word that falls through to a word that is no header takes trap 3, and has none of its effect. BRX reads an unsigned byte offset from the kernel's first clause. A taken branch to no header
takes trap 3 at the branch word, with the target in TVAL. That a misaligned target is one at which no header stands is the model's
choice (log entry 15). -/
def Obligations.BranchWordsGo : Prop :=
  (∀ off, JumpsIf (fun _ _ => True) (.bra off) (fun s _ => some (relTarget s off.toInt)) State.lane) ∧
  (∀ p neg off, JumpsIf (fun _ _ => True) (.brc p neg off)
    (fun s L => if s.getP L p.toNat = neg then none else some (relTarget s off.toInt)) State.lane) ∧
  (∀ sb neg off, JumpsIf (fun _ _ => True) (.brs sb neg off)
    (fun s L => if (decide (s.getS L sb.toNat ≠ 0)) = neg then none else some (relTarget s off.toInt)) State.lane) ∧
  (∀ v, JumpsIf (fun s L => (s.launches.find (s.team L.team).jn).isSome) (.brx v)
    (fun s L => (s.launches.find (s.team L.team).jn).map (fun l => farTarget l (s.getV L v.toNat))) State.lane) ∧
  (∀ off, TrapsIf (fun s _ => NoHeaderAt s (relTarget s off.toInt)) (.bra off) 3 (fun s _ => relTarget s off.toInt)) ∧
  (∀ a o, FallsOff (.iadd o) a) ∧ (∀ a o, FallsOff (.sadd o) a) ∧ (∀ a o, FallsOff (.shflIdx o) a) ∧ (∀ a o, FallsOff (.stB32 o) a) ∧
  (∀ a c x y sp, FallsOff (.mma c x y sp) a) ∧ (∀ a n, FallsOff (.sleep n) a) ∧ (∀ a sb v, FallsOff (.bwait sb v) a) ∧
  (∀ a p neg off, TrapsIf (fun s L => s.getP L p.toNat = neg ∧ s.fall = some (.bad a)) (.brc p neg off) 3 (fun _ _ => a)) ∧
  (∀ p neg off, TrapsIf (fun s L => s.getP L p.toNat ≠ neg ∧ NoHeaderAt s (relTarget s off.toInt)) (.brc p neg off) 3
    (fun s _ => relTarget s off.toInt)) ∧
  (∀ sb neg off, TrapsIf (fun s L => decide (s.getS L sb.toNat ≠ 0) ≠ neg ∧ NoHeaderAt s (relTarget s off.toInt)) (.brs sb neg off) 3
    (fun s _ => relTarget s off.toInt)) ∧
  (∀ v l, TrapsIf (fun s L => s.launches.find (s.team L.team).jn = some l ∧ NoHeaderAt s (farTarget l (s.getV L v.toNat))) (.brx v) 3
    (fun s L => farTarget l (s.getV L v.toNat)))

/-- R249: CALL and CALLX push the return address, RET pops it. A call that finds the stack full takes trap 13 and pushes
nothing; one to no header takes trap 3, full or not, and pushes nothing (R61); RET whose popped address is no header takes trap 3 and
pops nothing. That a misaligned target is one at which no header stands is the model's choice (log entry 15). -/
def Obligations.CallWordsGo : Prop :=
  (∀ p neg off, JumpsIf (fun s L => s.getP L p.toNat ≠ neg → hasRoom s L) (.call p neg off)
    (fun s L => if s.getP L p.toNat = neg then none else some (relTarget s off.toInt))
    (fun s L => if s.getP L p.toNat = neg then s.lane L else { s.lane L with stack := returnTo s :: (s.lane L).stack })) ∧
  (∀ v, JumpsIf (fun s L => hasRoom s L ∧ (s.launches.find (s.team L.team).jn).isSome) (.callx v)
    (fun s L => (s.launches.find (s.team L.team).jn).map (fun l => farTarget l (s.getV L v.toNat)))
    (fun s L => { s.lane L with stack := returnTo s :: (s.lane L).stack })) ∧
  (∀ p neg, JumpsIf (fun s L => (s.getP L p.toNat ≠ neg → (s.lane L).stack ≠ []) ∧ (s.lane L).live = true ∧
      L.lane < (s.hdr L.team).width) (.ret p neg)
    (fun s L => if s.getP L p.toNat = neg then none else (s.lane L).stack.head?)
    (fun s L => if s.getP L p.toNat = neg then s.lane L else { s.lane L with stack := (s.lane L).stack.tail })) ∧
  (∀ p neg off, TrapsIf (fun s L => s.getP L p.toNat ≠ neg ∧ ¬ hasRoom s L ∧ HeaderAt s (relTarget s off.toInt)) (.call p neg off) 13
    (fun s L => BitVec.ofNat 64 (8 * ((s.lane L).stack.length - 7)))) ∧
  (∀ v l, TrapsIf (fun s L => ¬ hasRoom s L ∧ s.launches.find (s.team L.team).jn = some l ∧
      HeaderAt s (farTarget l (s.getV L v.toNat))) (.callx v) 13
    (fun s L => BitVec.ofNat 64 (8 * ((s.lane L).stack.length - 7)))) ∧
  (∀ p neg, TrapsIf (fun s L => s.getP L p.toNat ≠ neg ∧ (∃ a, (s.lane L).stack.head? = some a ∧ NoHeaderAt s a) ∧
      (s.lane L).live = true ∧ L.lane < (s.hdr L.team).width) (.ret p neg) 3
    (fun s L => (s.lane L).stack.head?.getD 0)) ∧
  (∀ p neg off, TrapsIf (fun s L => s.getP L p.toNat ≠ neg ∧ NoHeaderAt s (relTarget s off.toInt)) (.call p neg off) 3
    (fun s _ => relTarget s off.toInt)) ∧
  (∀ v l, TrapsIf (fun s L => s.launches.find (s.team L.team).jn = some l ∧ NoHeaderAt s (farTarget l (s.getV L v.toNat))) (.callx v) 3
    (fun s L => farTarget l (s.getV L v.toNat)))

namespace Sys2Proof

/-- A word at which lanes end (R250): each one of `ends` is no longer live, and drops one arrival at each barrier of its
group's join list, in order; the others go to the header that `goal` names, or on to the next word, and are otherwise `base`; the
group's list is emptied with its last lane. The lanes of other groups, and their lists, stay as they are. -/
def EndsIf (i : Instr) (ends : State → LaneId → Bool) (goal : State → LaneId → Option D64) (base : State → LaneId → Lane) : Prop :=
  ∀ s, Passes s i → (∀ l ∈ s.sel.lanes, ends s (s.sel.lane l) = false →
      (∀ a, goal s (s.sel.lane l) = some a → HeaderAt s a) ∧
      (goal s (s.sel.lane l) = none → ∃ h k p, s.fall = some (.go h k p))) →
    ∃ t, exec i s = .next t ∧
      (∀ l ∈ s.sel.lanes,
        (ends s (s.sel.lane l) = true → t.lane (s.sel.lane l) = { s.lane (s.sel.lane l) with live := false, wait := .none }) ∧
        (∀ a w, ends s (s.sel.lane l) = false → goal s (s.sel.lane l) = some a →
          s.headAt (s.team s.sel.team).core (s.team s.sel.team).jn a = some w →
          Moved t (s.sel.lane l) (base s (s.sel.lane l)) a 1 (headerP w)) ∧
        (∀ h k p, ends s (s.sel.lane l) = false → goal s (s.sel.lane l) = none → s.fall = some (.go h k p) →
          Moved t (s.sel.lane l) (base s (s.sel.lane l)) h k p)) ∧
      t.accs = s.accs ++ ((s.sel.lanes.filter (fun l => ends s (s.sel.lane l))).flatMap (fun l =>
        (s.group s.sel.team s.sel.group).joins.map (fun a => (l, a)))).mapIdx (fun j x =>
          accessOf s (s.nextId + j) [x.1] ⟨.bar 0 .leave, x.2, 16, 9, 0, []⟩) ∧
      t.group s.sel.team s.sel.group = { s.group s.sel.team s.sel.group with
        joins := if t.liveLanes s.sel.team s.sel.group = [] then [] else (s.group s.sel.team s.sel.group).joins } ∧
      (∀ u g, (u, g) ≠ (s.sel.team, s.sel.group) → t.group u g = s.group u g ∧ ∀ l, t.lane ⟨u, g, l⟩ = s.lane ⟨u, g, l⟩) ∧
      LanesKept s t ∧ t = { s with accs := t.accs, nextId := t.nextId, groups := t.groups, lanes := t.lanes }

end Sys2Proof

/-- R249, R250: EXIT ends the lanes that take it. RET ends those of its lanes whose stack is empty, and sends each other one that takes
it to the address that it pops. -/
def Obligations.ExitWordsEnd : Prop :=
  (∀ p neg, EndsIf (.exit p neg) (fun s L => s.getP L p.toNat != neg) (fun _ _ => none) State.lane) ∧
  (∀ p neg, EndsIf (.ret p neg) (fun s L => (s.getP L p.toNat != neg) && (s.lane L).stack.isEmpty)
    (fun s L => if s.getP L p.toNat = neg then none else (s.lane L).stack.head?)
    (fun s L => if s.getP L p.toNat = neg then s.lane L else { s.lane L with stack := (s.lane L).stack.tail }))

namespace Sys2Proof

/-- A word after which each lane is `base` at the next word, and nothing else differs. -/
def LanesBecome (i : Instr) (base : State → LaneId → Lane) : Prop :=
  ∀ s hdr k prio, Passes s i → s.fall = some (.go hdr k prio) →
    ∃ t, exec i s = .next t ∧
      (∀ l ∈ s.sel.lanes, Moved t (s.sel.lane l) (base s (s.sel.lane l)) hdr k prio) ∧
      LanesKept s t ∧ t = { s with lanes := t.lanes }

end Sys2Proof

/-- R239, R251 to R255: the words of major 24. WAITF and NOP only go on once they pass; SETE empties a shared register;
SHSEND fills one with a value, the sender's time and the accesses that the sender has not yet seen performed; SHTAKE takes the
value, empties the register, raises the taker's time and puts what it issues next behind those accesses; SLEEP waits 16 clocks for each unit;
YIELD sets the lane's mark. That what the taker issues next is held behind those accesses, so that it is performed after them, is the
model's choice among the ways to R254's guarantee (log entry 18). -/
def Obligations.SyncWordsAct : Prop :=
  (∀ r c, Writes (.waitf r c) (fun _ _ => [])) ∧ Writes .waitfAll (fun _ _ => []) ∧ Writes .nop (fun _ _ => []) ∧
  LanesBecome .yield (fun s L => { s.lane L with mark := true }) ∧
  LanesBecome (.sleep 0) State.lane ∧
  (∀ n, n ≠ 0 → WaitsAt (.sleep n) [] none (fun s _ next => .sleep (s.clock + 16 * n.toNat) next)) ∧
  (∀ d s hdr k prio, Passes s (.sete d) → s.fall = some (.go hdr k prio) → ∃ t, exec (.sete d) s = .next t ∧
    (∀ l ∈ s.sel.lanes, t.isFull (s.sel.lane l) .v d.toNat = false ∧
      Moved t (s.sel.lane l) (s.lane (s.sel.lane l)) hdr k prio) ∧
    RegsKept s t (s.sel.lanes.map (fun l => s.rid (s.sel.lane l) .v d.toNat)) ∧ LanesKept s t ∧
    t = { s with marks := t.marks, lanes := t.lanes }) ∧
  (∀ d a s hdr k prio, Passes s (.shsend d a) → s.fall = some (.go hdr k prio) → ∃ t, exec (.shsend d a) s = .next t ∧
    (∀ l ∈ s.sel.lanes, Holds t (s.sel.lane l) (.v d.toNat (s.getV (s.sel.lane l) a.toNat)) ∧
      (s.lane (s.sel.lane l)).pts ≤ (t.rstamps.get ⟨0, 0⟩ (s.rid (s.sel.lane l) .v d.toNat)).wts ∧
      t.sent.find (s.rid (s.sel.lane l) .v d.toNat) = some (s.sel.lane l, s.standing (s.sel.lane l)) ∧
      Moved t (s.sel.lane l) (s.lane (s.sel.lane l)) hdr k prio) ∧
    RegsKept s t (s.sel.lanes.map (fun l => s.rid (s.sel.lane l) .v d.toNat)) ∧ LanesKept s t ∧
    t = { s with v := t.v, marks := t.marks, rstamps := t.rstamps, sent := t.sent, lanes := t.lanes }) ∧
  (∀ d a s hdr k prio, d ≠ a → Passes s (.shtake d a) → s.fall = some (.go hdr k prio) →
    ∃ t, exec (.shtake d a) s = .next t ∧
    (∀ l ∈ s.sel.lanes, Holds t (s.sel.lane l) (.v d.toNat (s.getV (s.sel.lane l) a.toNat)) ∧
      t.isFull (s.sel.lane l) .v a.toNat = false ∧
      (∃ x y, Moved t (s.sel.lane l) { s.lane (s.sel.lane l) with pts := x, after := y } hdr k prio ∧ (s.lane (s.sel.lane l)).pts ≤ x ∧
        (s.rstamps.get ⟨0, 0⟩ (s.rid (s.sel.lane l) .v a.toNat)).wts ≤ x ∧
        (∀ z ∈ (s.lane (s.sel.lane l)).after, s.pendingAcc z.1 = true → z ∈ y) ∧
        ∀ K ids, s.sent.find (s.rid (s.sel.lane l) .v a.toNat) = some (K, ids) →
          (s.lane K).pts ≤ x ∧ ∀ i ∈ ids, s.pendingAcc i = true → (i, s.nextId) ∈ y)) ∧
    RegsKept s t (s.sel.lanes.flatMap (fun l => [s.rid (s.sel.lane l) .v d.toNat, s.rid (s.sel.lane l) .v a.toNat])) ∧
    LanesKept s t ∧ t = { s with v := t.v, marks := t.marks, lanes := t.lanes })

/-- R264, R24: LAUNCH reads a 64-byte record and waits for its answer, its destinations empty until then. That they are empty, as those
of every word that completes later (R24), is read from the two rules together (log entry 44). LSTAT reads a queue's indices, or all ones where the queue
is another context's. -/
def Obligations.LaunchWordsAct : Prop :=
  (∀ d a q, WaitsAt (.launch d a q) [(.v, d.toNat), (.v, d.toNat + 1)] (some (fun s L =>
    ⟨.launch d.toNat q.toNat, s.getV2 L a.toNat, 64, 6, BitVec.ofNat 32 s.nextId, []⟩)) (fun _ _ n => .launch n)) ∧
  (∀ d q, Writes (.lstat d q) (fun s L =>
    let x := s.queues.get Queue.idle q.toNat
    if x.owner = (s.team L.team).key then [.v d.toNat x.rd, .v (d.toNat + 1) x.wr]
    else [.v d.toNat 0xFFFFFFFF, .v (d.toNat + 1) 0xFFFFFFFF]))

/-- R276 to R281, with R27, R28, R84, R143, R164: SREAD, SWRITE and SVC. SWRITE keeps the fields that a register has; writing 0
to TCAUSE ends the handler state. -/
def Obligations.SpecialRegisterWordsAct : Prop :=
  (∀ d r, sregWidth r.toNat = 1 → Writes (.sread d r) (fun s L => [.v d.toNat ((s.sreg L r.toNat).extractLsb' 0 32)])) ∧
  (∀ d r, sregWidth r.toNat = 2 → Writes (.sread d r) (fun s L => v2 d.toNat (s.sreg L r.toNat))) ∧
  (∀ (s : State) (L : LaneId),
    s.sreg L 0x000 = BitVec.ofNat 64 L.lane ∧ s.sreg L 0x001 = BitVec.ofNat 64 (s.group L.team L.group).idx ∧
    s.sreg L 0x002 = BitVec.ofNat 64 (s.group L.team L.group).role ∧
    s.sreg L 0x009 = BitVec.ofNat 64 (s.hdr L.team).width ∧
    s.sreg L 0x010 = 0#32 ++ (s.lane L).mode ∧ s.sreg L 0x011 = 0#32 ++ (s.lane L).prec ∧
    s.sreg L 0x012 = 0#32 ++ (s.lane L).dctl ∧ s.sreg L 0x018 = BitVec.ofNat 64 s.clock ∧
    s.sreg L 0x020 = 0#32 ++ (s.lane L).tcause ∧ s.sreg L 0x021 = (s.lane L).tpc ∧ s.sreg L 0x022 = (s.lane L).tval ∧
    s.sreg L 0x030 = BitVec.ofNat 64 (s.team L.team).key ∧ s.sreg L 0x031 = BitVec.ofNat 64 (s.coreOf L.team)) ∧
  (∀ a, LanesBecome (.swrite a 0x010) (fun s L => { s.lane L with mode := s.getV L a.toNat &&& 0x1F })) ∧
  (∀ a, LanesBecome (.swrite a 0x011) (fun s L => { s.lane L with prec :=
    let y := s.getV L a.toNat &&& 0x3FFFFF
    if y &&& 0x1FF = 1 then y + 1 else y })) ∧
  (∀ a, LanesBecome (.swrite a 0x012) (fun s L => { s.lane L with dctl := s.getV L a.toNat &&& 0xF7 })) ∧
  (∀ a, LanesBecome (.swrite a 0x020) (fun s L => { s.lane L with
    tcause := s.getV L a.toNat &&& 0xFF,
    inHandler := (s.lane L).inHandler && s.getV L a.toNat &&& 0xFF ≠ 0 })) ∧
  (∀ a, LanesBecome (.swrite a 0x021) (fun s L => { s.lane L with tpc := s.getV2 L a.toNat &&& 0x0FFFFFFFFFFFFFFF })) ∧
  (∀ a, LanesBecome (.swrite a 0x022) (fun s L => { s.lane L with tval := s.getV2 L a.toNat })) ∧
  (∀ d a c, AsksEach (.svc d a c) [(.v, d.toNat), (.v, d.toNat + 1)] (fun s L =>
    ⟨.svc d.toNat c.toNat [s.getV L a.toNat, s.getV L (a.toNat + 1), s.getV L (a.toNat + 2), s.getV L (a.toNat + 3)]
      (s.lane L).pts, 0, 64, 10, BitVec.ofNat 32 s.nextId, []⟩))

/-- R59, R60, R62 to R64, R277: TRAP takes trap 10 and BRK trap 11, with imm10 in TVAL; the illegal word takes trap 1, with
the word in TVAL. BRK in a context with a debugger halts its group, and its team's attention runs give up the blocks that have arrived
(R136, R224); it changes nothing else. That the BRK of one group stops the runs of its whole team is the model's choice (log entry 100). -/
def Obligations.TrapWordsTrap : Prop :=
  (∀ n, TrapsIf (fun _ _ => True) (.trap n) 10 (fun _ _ => n.zeroExtend 64)) ∧
  (∀ n, TrapsIf (fun s _ => ∀ c, s.ctx (s.team s.sel.team).key = some c → c.dbg = false) (.brk n) 11
    (fun _ _ => n.zeroExtend 64)) ∧
  (∀ n s c, s.ctx (s.team s.sel.team).key = some c → c.dbg = true → ∃ t, exec (.brk n) s = .next t ∧
    t.group s.sel.team s.sel.group = { s.group s.sel.team s.sel.group with dbg := true, brk := true } ∧
    (∀ u g, (u, g) ≠ (s.sel.team, s.sel.group) → t.group u g = s.group u g) ∧
    (∀ r ∈ t.runs, r.team = s.sel.team → r.kind = .attn → r.asked = [] ∧ r.lines = []) ∧
    t.runs.map (fun r => (r.id, r.pos)) = s.runs.map (fun r => (r.id, r.pos)) ∧
    t = { s with groups := t.groups, runs := t.runs }) ∧
  (∀ s, CanTrap s → ∃ t, exec .illeg s = .next t ∧
    (∀ l ∈ s.sel.lanes, t.lane (s.sel.lane l) = trapped s (s.sel.lane l) 1 (s.sel.word.zeroExtend 64)) ∧
    LanesKept s t ∧ t = { s with lanes := t.lanes })

/-! ### Decoding, the step, reset, and what the machine keeps -/

/-- R48 to R58: words of the manual's own tables, and what they are. A word with a bit set that its form does not use, and
major 31, are none. -/
def Obligations.WordsDecode : Prop :=
  decode 0x00030420 = .ok (.iadd ⟨3, 1, 2, false, false, 0⟩) ∧ decode 0x04041460 = .ok (.shrS ⟨4, 5, 6, false, false, 0⟩) ∧
  decode 0x08820401 = .ok (.andi ⟨2, 1, 1⟩) ∧ decode 0x09430402 = .ok (.shli ⟨3, 1, 2⟩) ∧
  decode 0x10902180 = .ok (.fmul ⟨16, 8, 24, false, false, 0⟩) ∧ decode 0x28101083 = .ok (.fma ⟨4, 1, 2, 3⟩) ∧
  decode 0x82400000 = .ok .mrel ∧ decode 0x900A0020 = .ok (.binit 5 32) ∧ decode 0x90C84000 = .ok (.bwait 4 8) ∧
  decode 0xC1400000 = .ok .yield ∧
  (∃ e, decode 0x82400001 = .error e) ∧ (∃ e, decode 0xF8000000 = .error e)

/-- R46, R60, R182, R238, R241, R301: what one step runs, where the environment names nothing. A module that is out of reset issues on
even turns: the entry that a group chooses, the word that stands at its place in the cached clause, and the instruction that this
word decodes to; a faulty clause or a word that is none is the event ILLEGAL_INSTRUCTION. Code that the chosen entry needs and the core's
instruction cache lacks is fetched first. The turns are the model's (log entry 60), and so is the demand for the clause that a word leads to
(log entry 9). -/
def Obligations.StepRunsTheDecodedWord : Prop :=
  (∀ s i s', s.overdue = none → s.agenda = [] → (s.board.state ≠ .reset ∨ s.board.powered = false) → s.turn % 2 = 0 →
    State.nextIssue { s with clock := s.clock + 1 } = some (i, s') → step s = exec i { s' with turn := s.turn + 1 }) ∧
  (∀ s i s', State.nextIssue s = some (i, s') → ∃ t g e, s.groupChoice t g = some e ∧
    (∀ a rest, s.entryNeeds t g e = a :: rest → i = .instructionFetch t g a ∧ s' = s) ∧
    (s.entryNeeds t g e = [] → s'.sel = s.selFor t g e.lane e.ready ∧
      ((s.clauseAtFault t e.lane).isSome → i = .illegalInstruction) ∧
      (s.clauseAtFault t e.lane = none → ∀ j, decode s'.sel.word = .ok j → i = j) ∧
      (s.clauseAtFault t e.lane = none → ∀ r, decode s'.sel.word = .error r → i = .illegalInstruction))) ∧
  (∀ (s : State) t g e a, a ∈ s.missing (s.team t).core (s.team t).jn e.lane.hdr → a ∈ s.entryNeeds t g e) ∧
  (∀ (s : State) t g (l : Lane) lanes h body, s.clauseAt (s.team t).core (s.team t).jn l.hdr = some (h, body) →
    1 ≤ l.k → l.k ≤ headerN h →
    s.wordAt (s.team t).core (s.team t).jn (l.hdr + BitVec.ofNat 64 (4 * l.k)) = some (s.selFor t g l lanes).word)

/-- R187, R262, R309: what the clock makes happen comes first, and takes no cycle: the tick of every 256 cycles, the loss of a host link that has
been down for 10 ms, and a core's watchdog check of every 1,024. Then a step runs the event that the environment names next, where it may
happen; by itself the machine runs, on odd turns, an event that is due; a module in reset boots (R189, R231, R367). A save finds the waiting flag and
the wait reason of each of its lanes noted, but that a group which is off-core keeps what its own save noted (R283, R317, R351);
every other event is its meaning alone. The agenda and the turns are the model's (log entry 60), and so is it that a duty of the
clock takes no cycle (log entry 58). -/
def Obligations.StepRunsTheEvent : Prop :=
  (∀ s i, s.overdue = some i → step s = exec i s) ∧
  (∀ s : State, (s.ticks + 1) * 256 ≤ s.clock → s.overdue = some .ptsTick) ∧
  (∀ (s : State) since, s.clock < (s.ticks + 1) * 256 → s.board.link = .down since → since + 10000000 ≤ s.clock →
    s.overdue = some .hostLinkLost) ∧
  (∀ (s : State) u, s.clock < (s.ticks + 1) * 256 → (∀ since, s.board.link = .down since → s.clock < since + 10000000) → (∀ e ∈ s.teams, s.watch.get [] e.1 ≠ [] → s.coreOn e.2.core = true →
      (s.core e.2.core).checked < s.clock / 1024 → e.2.core = u) →
    (∃ e ∈ s.teams, s.watch.get [] e.1 ≠ [] ∧ s.coreOn e.2.core = true ∧ (s.core e.2.core).checked < s.clock / 1024) →
    s.overdue = some (.watchdogCheck u)) ∧
  (∀ s i rest, s.overdue = none → s.agenda = .happen i :: rest → State.admits1 { s with agenda := rest, clock := s.clock + 1 } i = true →
    step s = State.happen { s with agenda := rest, clock := s.clock + 1 } i) ∧
  (∀ s i, (∀ u, i ≠ .teamSave u) → (∀ u g, i ≠ .offCoreSave u g) → State.happen s i = exec i s) ∧
  (∀ (s : State) i, State.happen s i = exec i (s.recorded i)) ∧
  (∀ (s : State) u L x, (s.team u).phase = .halting → s.lanes.find L = some x → L.team = u →
    ((s.group u L.group).off = none →
      (s.recorded (.teamSave u)).lane L = { x with flag := s.standsWaiting L, why := (s.waitReason L).code }) ∧
    ((s.group u L.group).off ≠ none → (s.recorded (.teamSave u)).lane L = x)) ∧
  (∀ (s : State) u g L x, s.lanes.find L = some x → L.team = u → L.group = g →
    (s.recorded (.offCoreSave u g)).lane L = { x with flag := s.standsWaiting L, why := (s.waitReason L).code }) ∧
  (∀ s i, s.overdue = none → s.agenda = [] → (s.board.state ≠ .reset ∨ s.board.powered = false) → s.turn % 2 = 1 →
    State.nextEvent { s with clock := s.clock + 1 } = some i →
    step s = exec i { State.recorded { s with clock := s.clock + 1 } i with turn := s.turn + 1 }) ∧
  (∀ s, s.overdue = none → s.agenda = [] → s.board.state = .reset → s.board.powered = true →
    step s = exec .boot { s with clock := s.clock + 1 })

/-- R367, R368: the machine right after power-good: STATUS reads 0, no queue is enabled, no context, launch or team is there,
memory lists nothing. That memory and every table start empty is the model's form (log entry 6). -/
def Obligations.ResetLeavesNothing : Prop :=
  State.reset.mgmtRead 0x0008 = 0 ∧ (∀ q, (State.reset.queues.get Queue.idle q).enable = false) ∧
  (∀ k, State.reset.ctx k = none) ∧ State.reset.launches = [] ∧ State.reset.teams = [] ∧ State.reset.mem = [] ∧
  (∀ p, (State.reset.port p).up = false)

/-- Memory has its canonical form at reset, and so do the device's copies of host lines. The form is the model's (log entry 6). -/
def Obligations.ResetMemoryIsCanonical : Prop := Sys2Proof.Inv State.reset

/-- Every step keeps memory, and the device's copies of host lines, in their canonical form, from every state that has it. The form is the
model's (log entry 6). -/
def Obligations.StepKeepsMemoryCanonical : Prop := ∀ s t, Sys2Proof.Inv s → step s = .next t → Sys2Proof.Inv t

/-- R63, R267: nothing stops the machine. Every step has a next state, and so has every row of the table. -/
def Obligations.NothingStops : Prop := (∀ s, Goes s) ∧ ∀ i s, ∃ t, exec i s = .next t

/-- R48 to R59: decoding the word of a well-formed instruction gives it back, whatever its operands. -/
def Obligations.DecodeOfEncode : Prop :=
  ∀ i w, i.wellFormed = true → encode i = some w → decode w = .ok i

/-- R181, R185, R203: a word of the table writes no byte of memory, ends no context, and touches no queue, translation, poison,
page or stamp of memory, on whatever lanes it passes, waits or traps, as long as each of its lanes could take a trap: what a
word does to memory is done later, by its access at its home. -/
def Obligations.WordsLeaveMemoryAlone : Prop :=
  ∀ i w s t, encode i = some w → s.sel.lanes.Nodup → (∀ l ∈ s.sel.lanes, s.trapBar (s.sel.lane l) = none) →
    exec i s = .next t →
    t = { s with v := t.v, s := t.s, p := t.p, d := t.d, w := t.w, marks := t.marks, rstamps := t.rstamps, sent := t.sent,
                 lanes := t.lanes, groups := t.groups, tiles := t.tiles, tensors := t.tensors, accs := t.accs, runs := t.runs, copies := t.copies,
                 pend := t.pend, cores := t.cores, nextId := t.nextId }

/-- R76: an element is carried as three residues, and products and sums are formed in each channel modulo its own modulus; crt
gives every integer of the window from -1,048,512 to 1,048,511 back; a block of 64 products of RX8 elements lies in it, so
that its sum is exact; a NaN element yields no integer. -/
def Obligations.BlockSumsAreExact : Prop :=
  (∀ m x, m = 127 ∨ m = 128 ∨ m = 129 → residue m x < m ∧ ((residue m x : Int) - x) % m = 0) ∧
  (∀ m ps, m = 127 ∨ m = 128 ∨ m = 129 → chanSum m ps = residue m ((ps.map (fun p => p.1 * p.2)).foldl (· + ·) 0)) ∧
  (∀ x : Int, -1048512 ≤ x → x ≤ 1048511 → crt (residue 127 x) (residue 128 x) (residue 129 x) = x) ∧
  (∀ xs ys : List Int, xs.length ≤ 64 → (∀ x ∈ xs, -127 ≤ x ∧ x ≤ 127) → (∀ y ∈ ys, -127 ≤ y ∧ y ≤ 127) →
    blockSum (xs.map some) (ys.map some) = some (((xs.zip ys).map (fun p => p.1 * p.2)).foldl (· + ·) 0) ∧
    -1032256 ≤ ((xs.zip ys).map (fun p => p.1 * p.2)).foldl (· + ·) 0 ∧
    ((xs.zip ys).map (fun p => p.1 * p.2)).foldl (· + ·) 0 ≤ 1032256) ∧
  (∀ xs ys : List (Option Int), xs.length = ys.length → (none ∈ xs ∨ none ∈ ys) → blockSum xs ys = none)

/-- R255: SLEEP makes each lane a waiting lane for 16 · imm cycles, counted from issue, at most 16,368; SLEEP 0 does not wait;
before the time has come nothing of it changes, and once it has come the lane is ready at the word after it, as long as its group
may issue. -/
def Obligations.SleepWaits : Prop :=
  (∀ n, n ≠ 0 → WaitsAt (.sleep n) [] none (fun s _ next => .sleep (s.clock + 16 * n.toNat) next)) ∧
  (∀ n : BitVec 10, 16 * n.toNat ≤ 16368) ∧
  LanesBecome (.sleep 0) State.lane ∧
  (∀ (s : State) L till n, (s.lane L).wait = .sleep till n → s.waiting L = true) ∧
  (∀ s t g l till n, (s.lane ⟨t, g, l⟩).wait = .sleep till n → s.clock < till → exec (.sleepExpiry t g l) s = .next s) ∧
  (∀ s t g l till h k p, (s.lane ⟨t, g, l⟩).wait = .sleep till (.go h k p) → till ≤ s.clock → s.mayIssue t g = true →
    ∃ u, exec (.sleepExpiry t g l) s = .next u ∧ Moved u ⟨t, g, l⟩ { s.lane ⟨t, g, l⟩ with wait := .none } h k p ∧
      (∀ L, L ≠ ⟨t, g, l⟩ → u.lane L = s.lane L) ∧ u = { s with lanes := u.lanes })

/-- R239: YIELD sets the mark of each lane, and the lane goes on; in the state in which the next word runs, the marks of its group are
cleared where it is issued for an entry without marks, and stand where for an entry with marks; other groups keep theirs. An entry with marks that is waiting holds back no other. A save
keeps the marks, and so does a restore at which no lane's answered LAUNCH leads to a word that traps. -/
def Obligations.YieldMarks : Prop :=
  decode 0xC1400000 = .ok .yield ∧ LanesBecome .yield (fun s L => { s.lane L with mark := true }) ∧
  (∀ s i s', State.nextIssue s = some (i, s') → ∃ t g e, s.groupChoice t g = some e ∧
    (s.entryNeeds t g e = [] → s'.sel.team = t ∧ s'.sel.group = g ∧
      (e.lane.mark = false → ∀ l ∈ s.liveLanes t g, s'.lane ⟨t, g, l⟩ = { s.lane ⟨t, g, l⟩ with mark := false }) ∧
      (e.lane.mark = true → s'.lanes = s.lanes) ∧
      ∀ L : LaneId, L.team ≠ t ∨ L.group ≠ g → s'.lane L = s.lane L) ∧
    (s.entryNeeds t g e ≠ [] → s' = s)) ∧
  (∀ (x : Entry) es, x.lane.mark = true → x.ready = [] → chooseEntry (x :: es) = chooseEntry es) ∧
  (∀ s t u, exec (.teamSave u) s = .next t ∨ (exec (.teamRestore u) s = .next t ∧ ∀ L x, (s.lane L).wait ≠ .launch (.bad x)) →
    ∀ L, (t.lane L).mark = (s.lane L).mark)

/-- R129, R128: MREL makes the lease of its team's holding run complete; at the next step boundary such a run yields when a
waiter exists, and else begins a fresh lease; where the holder is another team's or none, MREL changes no run and no core. -/
def Obligations.MrelYields : Prop :=
  decode 0x82400000 = .ok .mrel ∧ (∀ x : BitVec 22, x ≠ 0 → ∃ e, decode (0x209#10 ++ x) = .error e) ∧
  (∀ s hdr k prio, Passes s .mrel → s.fall = some (.go hdr k prio) → ∃ t, exec .mrel s = .next t ∧
    (∀ r n, s.holder (s.team s.sel.team).core = some (r, n) → r.team = s.sel.team → r.kind.leased = true →
      t.core (s.team s.sel.team).core =
        { s.core (s.team s.sel.team).core with hold := some (r.id, (s.hdr r.team).lease) }) ∧
    ((∀ r n, s.holder (s.team s.sel.team).core = some (r, n) → r.team ≠ s.sel.team) → t.cores = s.cores) ∧
    (∀ l ∈ s.sel.lanes, Moved t (s.sel.lane l) (s.lane (s.sel.lane l)) hdr k prio) ∧ LanesKept s t ∧
    t = { s with cores := t.cores, lanes := t.lanes }) ∧
  (∀ s core r n, s.holder core = some (r, n) → r.kind.leased = true → (s.hdr r.team).lease ≤ n → (s.core core).fifo ≠ [] →
    ∃ t, exec (.leaseExpiry core) s = .next t ∧ (t.core core).hold = none ∧ r.id ∈ (t.core core).fifo ∧
      t = { s with cores := t.cores, runs := t.runs }) ∧
  (∀ s core r n, s.holder core = some (r, n) → r.kind.leased = true → (s.hdr r.team).lease ≤ n → (s.core core).fifo = [] →
    exec (.leaseExpiry core) s = .next (s.setCore core { s.core core with hold := some (r.id, 0) }))

namespace Sys2Proof

/-- The page of an address has a leaf, whose tables lie in the firmware region: no store outside it changes what the walk gives (R270, R358). -/
def Tabled (s : State) (c : Ctx) (va : D64) (tr : Trans) : Prop :=
  ∀ m : Memory, (∀ pa, Config.firmwareBase ≤ pa → pa < Config.hbmBytes → m.get pa = s.mem.get pa) → walk m c.root va = some tr

/-- A lane that would trap and cannot, for reason `r`: its team is placed, and its context is `c`. -/
def Barred (s : State) (L : LaneId) (r : Nat) (c : Ctx) : Prop :=
  Sys2Proof.Inv s ∧ (s.teams.find L.team).isSome ∧ (∀ e ∈ s.teams, s.team e.1 = e.2) ∧ s.trapBar L = some r ∧
    s.ctx (s.team L.team).key = some c ∧ c.key = (s.team L.team).key

/-- What becomes of a context that a barred trap ends (R64, R65, R267): the kind-24 record is logged, and then the context ends. Every
launch of it without a terminal status has INCIDENT, stored where its status page has a translation; its teams and lanes are gone, so
that none of them is in a handler; lanes of other contexts are as before. -/
def BarredEnd (s t : State) (L : LaneId) (r cause : Nat) (tval hdr : D64) (k : Nat) : Prop :=
  t = (s.logRecord (s.team L.team).key (s.record24 L r cause (tpcOf hdr k) tval)).endContext (s.team L.team).key 3 ∧
  t.ctx (s.team L.team).key = none ∧
  (∀ jn x, s.launches.find jn = some x → x.key = (s.team L.team).key → x.state.over = false →
    ∃ y, t.launches.find jn = some y ∧ (y.state = .written 3 ∨ y.state = .terminal 3) ∧
      (x.record.status = 0 → y.state = .written 3) ∧
      (∀ c tr, s.ctx (s.team L.team).key = some c → vspace x.record.status = .ordinary → x.record.status.toNat % 8 = 0 →
        Tabled s c x.record.status tr → y.state = .written 3)) ∧
  (∀ u, (s.teams.find u).isSome → (s.team u).key = (s.team L.team).key → t.teams.find u = none ∧ ∀ g l, t.lane ⟨u, g, l⟩ = Lane.none) ∧
  (∀ M : LaneId, (s.team M.team).key ≠ (s.team L.team).key → t.lane M = s.lane M)

/-- Where the next record of a context's log lies: 64 bytes of HBM or of host memory, apart from the log's header. -/
def LogSlot (s : State) (c : Ctx) (l : Nat) : Prop :=
  c.log.toNat % 64 = 0 ∧ c.logged < c.logCap ∧ vspace (c.log + BitVec.ofNat 64 (64 + 64 * c.logged)) = .ordinary ∧
    (isHbm l = true ∨ inSpace .host l = true) ∧
    (∃ tr, Tabled s c (c.log + BitVec.ofNat 64 (64 + 64 * c.logged)) tr ∧
      l = transLoc c tr (c.log + BitVec.ofNat 64 (64 + 64 * c.logged))) ∧
    ∀ tr, walk s.mem c.root c.log = some tr → transLoc c tr c.log + 64 ≤ l ∨ l + 64 ≤ transLoc c tr c.log

end Sys2Proof

/-- R64, R65, R228, R267, R322: a lane that would trap and cannot, since it is in its handler, its kernel has none, or the handler is no
clause header. No lane traps: TRAP, the illegal word, and every other trap of such a lane log the kind-24 record, which stands in the next
slot of the context's log, and end the context. That a launch whose status page has no translation keeps its code TERMINAL is the model's
choice (log entry 12). -/
def Obligations.BarredTrapsEndTheContext : Prop :=
  (∀ s n l rest r c, Passes s (.trap n) → s.sel.lanes = l :: rest → Barred s (s.sel.lane l) r c →
    ∃ t, exec (.trap n) s = .next t ∧ BarredEnd s t (s.sel.lane l) r 10 (n.zeroExtend 64) s.sel.hdr s.sel.k) ∧
  (∀ s l rest r c, s.sel.lanes = l :: rest → Barred s (s.sel.lane l) r c →
    ∃ t, exec .illeg s = .next t ∧ BarredEnd s t (s.sel.lane l) r 1 (s.sel.word.zeroExtend 64) s.sel.hdr s.sel.k) ∧
  (∀ s L r c cause tval hdr k, Barred s L r c → BarredEnd s (s.takeTrap L cause tval hdr k) L r cause tval hdr k) ∧
  (∀ s key c l bs, Sys2Proof.Inv s → s.ctx key = some c → c.key = key → LogSlot s c l → bs.length = 64 →
    (s.logRecord key bs).ctx key = some { c with logged := c.logged + 1 } ∧
    ∀ i (h : i < bs.length), (s.logRecord key bs).cell (l + i) = some bs[i])

/-! ### The events of accesses -/

namespace Sys2Proof

/-- What a translated access becomes, at the places and the home that it has got: a demand fetch whose line can be had at once brings it and
is over; one that has to wait for a peer or for the host link, and every other access, waits to be performed. -/
def arrived (s : State) (a : Access) (locs : List (Nat × Nat)) (home : Nat) : State :=
  match a.op with
  | .fetch _ =>
    if home = 2 ∨ ∃ g ∈ locs, (inSpace .host g.1 = true ∨ isMmio g.1 = true) ∧ s.board.link ≠ .up then s
    else (s.fillLine a.core a.jn a.va).dropAcc a.id
  | _ => s

/-- An event of an access of team `u`, which has a next state: it is `v`, with `v`'s own image of the team in memory where the team is
SAVED (R318, R355). -/
def Performs (i : Instr) (s : State) (u : Nat) (P : State → Prop) : Prop :=
  ∃ v : State, exec i s = .next (v.inImage u) ∧ v.teams = s.teams ∧ P v

/-- Whether an access needs its address translated: requests for service do not, and XLQ is answered by the translation unit. -/
def translates (a : Access) : Prop := (∀ d c as p, a.op ≠ .svc d c as p) ∧ (∀ d, a.op ≠ .xlq d)

/-- An access of ordinary memory that is translated: its places, and its home and port. -/
def readyAt (a : Access) (locs : List (Nat × Nat)) (home port : Nat) : Access :=
  { a with stage := .ready, cause := 0, locs := locs, home := home, port := port }

/-- Where an access that parks stands, beside the other entries, and with which of its fields changed (R287, R289, R290, R293, R294). -/
def parkedAs (s : State) (a : Access) (cause : Nat) (page : D64) : Access :=
  { a with
    stage := if ((s.parkedIn (clusterOf a.core)).filter (fun b => b.id ≠ a.id)).length < 8192 then .parked
      else if ((s.spilledIn (clusterOf a.core) a.key).filter (fun b => b.id ≠ a.id)).length < s.spillShare a.key then .spilled
      else .returned,
    cause := cause, page := page, locs := [], bytes := [], seq := (s.cluster (clusterOf a.core)).parkSeq,
    atCore := if a.group = 255 then 0 else s.coreOf a.team,
    ringAt := if 8192 ≤ ((s.parkedIn (clusterOf a.core)).filter (fun b => b.id ≠ a.id)).length ∧
        ((s.spilledIn (clusterOf a.core) a.key).filter (fun b => b.id ≠ a.id)).length < s.spillShare a.key
      then nextPlace (s.spillShare a.key) ((s.spilledIn (clusterOf a.core) a.key).filter (fun b => b.id ≠ a.id)) else 0 }

end Sys2Proof

/-- R37 to R39, R213, R254, R272, R273, R287 to R294: an access behind an older one of its lanes, or behind one of a sender whose
value a lane took, is neither translated nor performed. CTU_TRANSLATE takes an access whose older accesses are performed: a service request and
an aperture access are ready at once, an ordinary one is ready with its places and fills the TLB, waits for the host, or parks.
A parking access stands in the store, in its context's spill share with its 128 bytes, or is returned; a returned one is sent again when there is room;
the host's answer for a page, kept for its PASID, sends an access back to be translated, or parks it with cause bit 2. That an access waits
for the accesses of a sender (log entry 18) and for the older ones of its lanes (log entry 23), that one which touches two pages parks on the first
that fails (log entry 48), that XLQ reports a leaf without R as none (log entry 49) and asks the host nothing (log entry 107), and where in a spill
share an entry stands (log entry 95), is the model's choice. -/
def Obligations.TranslationEventsAct : Prop :=
  (∀ s id a, s.acc id = some a → a.stage = .core → s.held a = false →
    (∀ d c as p, a.op = .svc d c as p → exec (.ctuTranslate id) s = .next ((s.setAcc { a with stage := .ready }).inImage a.team)) ∧
    (∀ d, a.op = .xlq d → exec (.ctuTranslate id) s =
      .next ((s.setAcc { a with stage := .done, bytes := s.xlqWords a }).inImage a.team)) ∧
    (translates a → a.formFault (s.hdr a.team).scratch = none →
      (∀ l, s.placeOf a = .bytes l → a.op.quiet = false → exec (.ctuTranslate id) s =
        .next ((arrived (s.setAcc { a with stage := .ready, locs := a.pieces.map (fun g => (l + g.1, g.2)) }) a
          (a.pieces.map (fun g => (l + g.1, g.2))) a.home).inImage a.team)) ∧
      (∀ l, s.placeOf a = .bytes l → a.op.quiet = true → exec (.ctuTranslate id) s = .next ((s.dropAcc id).inImage a.team)) ∧
      (∀ c g n k b, s.placeOf a = .reg c g n k b → a.op.quiet = false →
        exec (.ctuTranslate id) s = .next ((arrived (s.setAcc { a with stage := .ready }) a a.locs a.home).inImage a.team)) ∧
      (s.placeOf a = .mapped →
        (∀ locs home port, s.look a.key (clusterOf a.core) a.op a.op.stores a.va a.size a.pieces = .ok locs home port →
          exec (.ctuTranslate id) s = .next ((arrived ((s.setAcc (readyAt a locs home port)).fillTlb (clusterOf a.core) a.key
            (pagesOf a.va a.size)) a locs home).inImage a.team)) ∧
        (∀ page, s.look a.key (clusterOf a.core) a.op a.op.stores a.va a.size a.pieces = .ats page →
          exec (.ctuTranslate id) s = .next ((s.setAcc { a with stage := .ats }).inImage a.team)) ∧
        (∀ cause page, s.look a.key (clusterOf a.core) a.op a.op.stores a.va a.size a.pieces = .park cause page →
          exec (.ctuTranslate id) s = .next ((if a.op.quiet then s.dropAcc id else s.park a cause page).inImage a.team))))) ∧
  (∀ s id a, s.acc id = some a → s.held a = true → exec (.ctuTranslate id) s = .next s ∧ exec (.accessAtHome id) s = .next s) ∧
  (∀ (s : State) a l, l ∈ a.lanes → s.behindSender ⟨a.team, a.group, l⟩ a.id = true → s.held a = true) ∧
  (∀ s a cause page, s.acc a.id = some a → (s.park a cause page).acc a.id = some (parkedAs s a cause page)) ∧
  (∀ s a cause page, ((parkedAs s a cause page).stage = .spilled → (s.park a cause page).mem = s.mem.putN
      (loc .spill a.key (2 ^ 32 * clusterOf a.core + 128 * (parkedAs s a cause page).ringAt)) (s.entryBytes (parkedAs s a cause page))) ∧
    ((parkedAs s a cause page).stage ≠ .spilled → (s.park a cause page).mem = s.mem)) ∧
  (∀ s id a, s.acc id = some a → a.stage = .returned →
    (s.parkedIn (clusterOf a.core)).length < 8192 ∨ (s.spilledIn (clusterOf a.core) a.key).length < s.spillShare a.key →
    exec (.returnedRequestResend id) s = .next (s.setAcc { a with stage := .core })) ∧
  (∀ s id a p ps, s.acc id = some a → a.stage = .ats → s.atsNeed a = p :: ps →
    (∀ g, exec (.atsResponse id (some g)) s = .next ((s.setAts a.key p g).setAcc { a with stage := .core })) ∧
    (a.op.quiet = false → exec (.atsResponse id none) s = .next (s.park a 4 p)) ∧
    (a.op.quiet = true → exec (.atsResponse id none) s = .next ((s.dropAcc id).inImage a.team))) ∧
  (∀ (s : State) key page g c pasid, s.ctx key = some c → c.pasid = some pasid →
    s.setAts key page g = { s with ats := s.ats.set (pasid, page) g })

namespace Sys2Proof

/-- An access that may be performed at its home now (R185, R199): translated, with no older access of its lanes before it; memory in
its canonical form. -/
def AtHome (s : State) (id : Nat) (a : Access) : Prop :=
  Sys2Proof.Inv s ∧ s.acc id = some a ∧ a.stage = .ready ∧ s.held a = false

/-- Its next piece, which lies in one line (R183): in ordinary memory, where the line can be had, carries no poison and is no uncached page; or
behind an aperture, in the scratchpad that its address names now. `rest` are the pieces after it. -/
def NextPiece (s : State) (a : Access) (l n : Nat) (rest : List (Nat × Nat)) : Prop :=
  isMmio l = false ∧ l % 128 + n ≤ 128 ∧
    ((vspace a.va = .ordinary ∧ a.locs = (l, n) :: rest ∧ s.meetsPoison a (l, n) = false ∧ s.reachable a.core l n = true) ∨
      (vspace a.va ≠ .ordinary ∧ ∃ l0, s.placeOf a = .bytes l0 ∧
        (a.pieces.map (fun g => (l0 + g.1, g.2))).filter (fun g => l0 + a.doneBytes ≤ g.1) = (l, n) :: rest))

/-- The bytes of an access that are done before its piece of `n` bytes, with `rest` after it. -/
def doneBefore (a : Access) (n : Nat) (rest : List (Nat × Nat)) : Nat := a.size - (n + (rest.map (·.2)).sum)

/-- Every byte outside a stretch reads as before, but that the rest of an HBM line that was last written under another key is
forgotten with the first store under this one (R268), and that a host line which makes way in a slice reads as the host has it (R361). -/
def BytesKept (s t : State) (draw l n : Nat) : Prop :=
  ∀ x, (x < l ∨ l + n ≤ x) → (isHbm x = true → (∃ i < n, lineOf (l + i) = lineOf x) → s.lineKey.get 0 (lineOf x) = draw) →
    t.cell x = s.cell x ∨ (inSpace .host x = true ∧ t.cell x = s.mem.get x)

/-- The request that a service call puts into its context's ring (R281). -/
def reqOf (s : State) (a : Access) (c : Ctx) (d code : Nat) (args : List W32) (pts : Nat) : Req :=
  { seq := c.nextSeq, code := code, team := a.team, group := a.group, lane := a.lanes.headD 0, d := d, args := args, pts := pts,
    core := s.coreOf a.team, issued := a.id, reply := none, ts := s.startTs a }

/-- A register as bytes, with those of a store in place from byte `b` on (R40). -/
def stored (x : List Byte) (b : Nat) (a : Access) (data : Nat) : Nat := ofLe (overlay x b (leBytes a.size data))

/-- An access to a full register through the aperture at its home (R39, R40). -/
def AtReg (s : State) (id : Nat) (a : Access) (c : RegClass) (g lane n b : Nat) : Prop :=
  AtHome s id a ∧ s.placeOf a = .reg c g lane n b ∧ vspace a.va ≠ .ordinary ∧
    (s.mark (s.rid ⟨a.team, g, lane⟩ c n)).full = true ∧ (s.group a.team g).off = none

/-- An access of a barrier word to an object in a scratchpad, of a team that is on the device (R256, R257, R265). -/
def AtBarrier (s : State) (id : Nat) (a : Access) (d : Nat) (op : BarOp) (l : Nat) : Prop :=
  AtHome s id a ∧ (s.team a.team).phase.holds = false ∧ a.op = .bar d op ∧ s.placeOf a = .bytes l ∧ 3 * 2 ^ 104 ≤ l ∧ l < 2 ^ 106

/-- The object at a location, and memory in which it alone has become another; the access is over. -/
def objectAt (s : State) (l : Nat) : Barrier := Barrier.of (s.readSegs 0 [(l, 16)])
def Becomes (s t : State) (id l : Nat) (b : Barrier) : Prop :=
  t.acc id = none ∧ (∀ i < 16, t.mem.get (l + i) = some (b.bytes.getD i 0)) ∧ ∀ x, (x < l ∨ l + 16 ≤ x) → t.mem.get x = s.mem.get x

end Sys2Proof

/-- R184, R185, R191, R203, R250, R256 to R260, R262, R265, R318, R355: ACCESS_AT_HOME performs the next piece of an access. A store writes its bytes,
little-endian, and no others, but that the image of a SAVED team is written anew (R318, R355); an atomic writes its new value and keeps the old one for its answer; a load that no copy of its core answers reads the
bytes of its home and writes none; a service request enters its context's ring in order. Through the register aperture a store puts its bytes into
the register, and a load reads them. BARRIER_UPDATE is one access to a barrier: BINIT, an update, F and EXIT's drop leave the object that the
manual says, and a test reads its generation and F; it waits while its team is away (R265). That the pieces of a lane's accesses are performed one after the other, where the ring
lies, and what the reserved bits of an object become, is the model's choice (log entries 23, 95, 98). -/
def Obligations.HomeEventsAct : Prop :=
  (∀ s id a data l n rest, AtHome s id a → a.op = .st data → NextPiece s a l n rest → Performs (.accessAtHome id) s a.team (fun t =>
    (∀ i < n, t.cell (l + i) = some (BitVec.ofNat 8 (data / 256 ^ (doneBefore a n rest + i)))) ∧
    BytesKept s t (s.drawOf a.key) l n ∧ (rest = [] → t.acc id = none) ∧
    (rest ≠ [] → ∃ ts, t.acc id = some { a with locs := rest, ts := ts }) ∧ t.v = s.v ∧ t.s = s.s ∧ t.p = s.p ∧ t.marks = s.marks)) ∧
  (∀ s id a d fn b c l n rest, AtHome s id a → a.op = .atom d fn b c → NextPiece s a l n rest → Performs (.accessAtHome id) s a.team (fun t =>
    (atomWrites fn (ofLe (s.readSegs (s.drawOf a.key) [(l, n)])) b = true → ∀ i < n, t.cell (l + i) = some (BitVec.ofNat 8
      (atomF fn a.ctl (ofLe (s.readSegs (s.drawOf a.key) [(l, n)])) b c / 256 ^ i))) ∧
    (atomWrites fn (ofLe (s.readSegs (s.drawOf a.key) [(l, n)])) b = false → BytesKept s t (s.drawOf a.key) l 0) ∧
    BytesKept s t (s.drawOf a.key) l n ∧
    (∃ ts, t.acc id = some { a with locs := rest, stage := if rest = [] then .done else .ready,
                                    bytes := a.bytes ++ s.readSegs (s.drawOf a.key) [(l, n)], ts := ts }) ∧
    t.v = s.v ∧ t.s = s.s ∧ t.p = s.p ∧ t.marks = s.marks)) ∧
  (∀ s id a d signed l n rest, AtHome s id a → a.op = .ld d signed → NextPiece s a l n rest →
    (∀ p, (s.touch l a.core).hit a.core (s.drawOf a.key) l n p = none) →
    Performs (.accessAtHome id) s a.team (fun t => BytesKept s t (s.drawOf a.key) l 0 ∧
      ∃ ts, t.acc id = some { a with locs := rest, bytes := a.bytes ++ s.readSegs (s.drawOf a.key) [(l, n)], ts := ts,
                                     stage := if rest = [] then .done else .ready })) ∧
  (∀ s id a d code args pts c, AtHome s id a → a.op = .svc d code args pts → s.behindLane a = false →
    s.ctx a.key = some c → c.key = a.key → Performs (.accessAtHome id) s a.team (fun t => t.acc id = none ∧
      t.ctx a.key = some { c with reqs := c.reqs ++ [reqOf s a c d code args pts], nextSeq := (c.nextSeq + 1) % 2 ^ 32 } ∧
      (∀ i < 64, t.mem.get (loc .ring a.key (64 * (c.nextSeq % c.ring)) + i) =
        some (((reqOf s a c d code args pts).bytes a.key).getD i 0)) ∧
      t = { s with mem := t.mem, ctxs := t.ctxs, accs := t.accs })) ∧
  (∀ s id a data g lane n b, AtReg s id a .v g lane n b → a.op = .st data → Performs (.accessAtHome id) s a.team (fun t =>
    t.v.get 0 (s.rid ⟨a.team, g, lane⟩ .v n) =
      BitVec.ofNat 32 (stored (leBytes 4 (s.v.get 0 (s.rid ⟨a.team, g, lane⟩ .v n)).toNat) b a data) ∧
    t.mark (s.rid ⟨a.team, g, lane⟩ .v n) = (if a.size = 4 then ⟨true, false⟩ else s.mark (s.rid ⟨a.team, g, lane⟩ .v n)) ∧
    RegsKept s t [s.rid ⟨a.team, g, lane⟩ .v n] ∧ t.acc id = none ∧ t.mem = s.mem)) ∧
  (∀ s id a data g lane n b, AtReg s id a .s g lane n b → a.op = .st data → Performs (.accessAtHome id) s a.team (fun t =>
    t.s.get 0 (s.rid ⟨a.team, g, lane⟩ .s n) =
      BitVec.ofNat 64 (stored (leBytes 8 (s.s.get 0 (s.rid ⟨a.team, g, lane⟩ .s n)).toNat) b a data) ∧
    t.mark (s.rid ⟨a.team, g, lane⟩ .s n) = (if a.size = 8 then ⟨true, false⟩ else s.mark (s.rid ⟨a.team, g, lane⟩ .s n)) ∧
    RegsKept s t [s.rid ⟨a.team, g, lane⟩ .s n] ∧ t.acc id = none ∧ t.mem = s.mem)) ∧
  (∀ s id a data g lane n b, AtReg s id a .p g lane n b → a.op = .st data → Performs (.accessAtHome id) s a.team (fun t =>
    t.getP ⟨a.team, g, lane⟩ n = (if n = 0 then true else data.testBit 0) ∧
    t.mark (s.rid ⟨a.team, g, lane⟩ .p n) = ⟨true, false⟩ ∧
    RegsKept s t [s.rid ⟨a.team, g, lane⟩ .p n] ∧ t.acc id = none ∧ t.mem = s.mem)) ∧
  (∀ s id a d signed c g lane n b, AtReg s id a c g lane n b → a.op = .ld d signed → Performs (.accessAtHome id) s a.team (fun t =>
    (∃ ts, t.acc id = some { a with stage := .done, ts := ts, poison := (s.mark (s.rid ⟨a.team, g, lane⟩ c n)).poison,
                                    bytes := ((s.regBytes (s.rid ⟨a.team, g, lane⟩ c n)).drop b).take a.size }) ∧
    ValuesKept s t ∧ t.marks = s.marks ∧ t.mem = s.mem)) ∧
  (∀ s id a c g lane n b, AtReg s id a c g lane n b → (∀ d x as p, a.op ≠ .svc d x as p) → a.op.stores = true ∨
      (∃ d x, a.op = .ld d x) → (∀ x y z, a.op ≠ .chunk x y z) →
    exec (.accessAtHome id) s = .next ((s.performReg a (s.rid ⟨a.team, g, lane⟩ c n) b).inImage a.team)) ∧
  (∀ (s : State) u, ((s.team u).phase = .saved → s.inImage u = s.writeImage u) ∧ ((s.team u).phase ≠ .saved → s.inImage u = s)) ∧
  (∀ s id a, s.acc id = some a → (s.team a.team).phase.holds = true → exec (.barrierUpdate id) s = .next s) ∧
  (∀ s id a d op l, AtHome s id a → (s.team a.team).phase.holds = false → a.op = .bar d op → op ≠ .test → s.placeOf a = .bytes l →
    exec (.barrierUpdate id) s = .next (((s.barrierAt l (s.startTs a) op).1.raise a (s.barrierAt l (s.startTs a) op).2.2).dropAcc id)) ∧
  (∀ s id a d n k din dout l, AtBarrier s id a d (.update n k din dout) l → ∃ t, exec (.barrierUpdate id) s = .next t ∧
    Becomes s t id l ((objectAt s l).update s.clock n k din dout)) ∧
  (∀ s id a d expected x e l, AtBarrier s id a d (.init expected x e) l → ∃ t, exec (.barrierUpdate id) s = .next t ∧
    Becomes s t id l (Barrier.init expected x (watchInit (s.watch.get [] (scratchTeam l)) (ownForm l) e).2) ∧
    t.watch.get [] (scratchTeam l) = (watchInit (s.watch.get [] (scratchTeam l)) (ownForm l) e).1 ∧
    ∀ u, u ≠ scratchTeam l → t.watch.get [] u = s.watch.get [] u) ∧
  (∀ s id a d l, AtBarrier s id a d .fail l → ∃ t, exec (.barrierUpdate id) s = .next t ∧
    Becomes s t id l { objectAt s l with f := true }) ∧
  (∀ s id a d l, AtBarrier s id a d .leave l → ∃ t, exec (.barrierUpdate id) s = .next t ∧
    ((objectAt s l).x = true → Becomes s t id l ((objectAt s l).update s.clock 0 1 0 0)) ∧
    ((objectAt s l).x = false → t.acc id = none ∧ t.mem = s.mem)) ∧
  (∀ s id a d l, AtBarrier s id a d .test l → ∃ t, exec (.barrierUpdate id) s = .next t ∧ t.mem = s.mem ∧ ∃ ts, t.acc id = some { a with
    stage := .done, locs := [], ts := ts, bytes := leBytes 4 ((objectAt s l).gen + 16 * (if (objectAt s l).f then 1 else 0)) })

namespace Sys2Proof

/-- An access that has been performed, and one of its lanes that can still take its answer. -/
def Answers (s : State) (id : Nat) (a : Access) (L : LaneId) : Prop :=
  s.acc id = some a ∧ a.stage = .done ∧ a.lanes = [L.lane] ∧ L.team = a.team ∧ L.group = a.group ∧ s.receives L = true

/-- A lane's flag registers merged with flags (R86), and nothing else of it. -/
def FlagsMerged (s t : State) (L : LaneId) (df pf : W32) : Prop :=
  t.lane L = { s.lane L with dctl := (s.lane L).dctl ||| df, prec := (s.lane L).prec ||| pf } ∧
    ∀ M, M ≠ L → t.lane M = s.lane M

end Sys2Proof

namespace Sys2Proof

/-- An answer written to a lane: its registers hold the values, the lane is `base`, and every other register and lane is as before. -/
def Fills (s t : State) (L : LaneId) (ws : List RegW) (base : Lane) : Prop :=
  (∀ w ∈ ws, Holds t L w) ∧ RegsKept s t (ws.map (fun w => s.rid L w.cls w.num)) ∧ t.lane L = base ∧
    ∀ M, M ≠ L → t.lane M = s.lane M

/-- Registers of a list of writes that are all different. -/
def Apart (ws : List RegW) : Prop := (ws.map (fun w => (w.cls, w.num))).Nodup

/-- A group's team is on the device, and the group's image is not being read back: answers reach its registers, or the image of a group that
is saved off-core (R299, R318, R351). -/
def Here (s : State) (u g : Nat) : Prop := (s.team u).phase.holds = false ∧ (s.group u g).loading = false

/-- A completion held for its team or its group, in order of arrival; a SAVED team's image holds it (R318, R319, R351). -/
def Held (s : State) (id : Nat) (a : Access) : State := State.inImage { s.dropAcc id with delayed := s.delayed ++ [a] } a.team

/-- An answer of its own kind: descriptors, launch records, attention lines and reads of the launch unit have other events. -/
def Plain (a : Access) : Prop :=
  (∀ x, a.op ≠ .tset x) ∧ (∀ x y, a.op ≠ .launch x y) ∧ (∀ x y, a.op ≠ .attn x y) ∧ ∀ q, a.op ≠ .accept q

/-- Memory is as before, but that the image of a group which is off-core is written anew (R283, R351). -/
def Imaged (s t : State) (u g : Nat) : Prop :=
  t.mem = if (s.group u g).off = none then s.mem else s.mem.splice (loc .save u (2 ^ 32 + 2 ^ 24 * g)) (t.groupImage u g)

/-- An operation in flight, of a lane that can still take its results. -/
def Pending (s : State) (p : Pend) : Prop :=
  s.pend.find? (fun q => q.id = p.id && q.window = p.window) = some p ∧ s.receives ⟨p.team, p.group, p.lane⟩ = true

/-- The event that completes an operation. -/
noncomputable def completion (p : Pend) : Instr := if p.window then .windowCompletion p.id else .distCompletion p.id

/-- An attention line that arrived: the run with the line, and the time, added. -/
def lineTaken (r : Run) (line : Nat) (a : Access) : Run := { r with lines := r.lines ++ [(line, a.bytes)], ts := max r.ts a.ts }

end Sys2Proof

/-- R86, R144, R169, R170, R180, R203, R206, R219, R264, R280, R299, R307, R318, R319, R351: the events at which answers arrive. ACCESS_RESPONSE writes
the values that an access has read to the registers of its lane, marked poisoned where it carries poison, and for a team that is away, or a group that is
being read back, holds the answer; the descriptor of the last TSET of a tensor id makes it valid or invalid; the launch unit takes a record of LAUNCH, or answers why not; a completed distribution or
window word, and a reply of firmware, write their registers, which are full from then on; a word that TE holds ends with its writes or with trap 7.
What is not written where a queue's page has no translation (log entry 12), that LAUNCH's destinations are empty until its answer (log entry 44), in which
order held words complete (log entry 37), and where completions of a team that is away are held (log entry 26), is the model's choice. -/
def Obligations.AnswerEventsAct : Prop :=
  (∀ s id a L, Answers s id a L → Here s a.team a.group → Plain a →
    a.poison = false → Apart (s.answer a L).1 → ∃ t, exec (.accessResponse id) s = .next t ∧
      Fills s t L (s.answer a L).1 { s.lane L with dctl := (s.lane L).dctl ||| (s.answer a L).2.1,
                                                   prec := (s.lane L).prec ||| (s.answer a L).2.2 } ∧
      t.acc id = none ∧ Imaged s t a.team a.group) ∧
  (∀ s id a L w, Answers s id a L → Here s a.team a.group → Plain a →
    a.poison = true → (s.answer a L).1 = [w] → (w.cls = .p → w.num ≠ 0) → ∃ t, exec (.accessResponse id) s = .next t ∧
      t.mark (s.rid L w.cls w.num) = ⟨true, true⟩ ∧ t.lane L = s.lane L ∧ t.acc id = none ∧ Imaged s t a.team a.group) ∧
  (∀ s id a, s.acc id = some a → a.stage = .done → Plain a → (s.teams.find a.team).isSome → ¬ Here s a.team a.group →
    exec (.accessResponse id) s = .next (Held s id a)) ∧
  (∀ (s : State) (a : Access) (L : LaneId),
    (∀ d sg, a.op = .ld d sg → a.bytes.length < 4 → s.answer a L = ([.v d (if sg then
      BitVec.ofInt 32 (sext (8 * a.bytes.length) (ofLe a.bytes)) else BitVec.ofNat 32 (ofLe a.bytes))], 0, 0)) ∧
    (∀ d sg, a.op = .ld d sg → 4 ≤ a.bytes.length → s.answer a L = ((List.range (a.bytes.length / 4)).map (fun i =>
      .v (d + i) (BitVec.ofNat 32 (leAt a.bytes (4 * i) 4))), 0, 0)) ∧
    (∀ d, a.op = .sld d → s.answer a L = ([.s d (BitVec.ofNat 64 (ofLe a.bytes))], 0, 0)) ∧
    (∀ d, a.op = .bar d .test → s.answer a L = ([.v d (BitVec.ofNat 32 (ofLe a.bytes))], 0, 0)) ∧
    (∀ d, a.op = .dld d → s.answer a L = ([.d d (dldValue (a.ctl.toNat % 16) a.bytes).1], (dldValue (a.ctl.toNat % 16) a.bytes).2, 0))) ∧
  (∀ s id a r line run, s.acc id = some a → a.stage = .done → a.op = .attn r line → s.run r = some run →
    run.asked.contains (line / linesOf run.f) = true → s.runGoes run = true → ∃ t, exec (.accessResponse id) s = .next t ∧
      t.run r = some (lineTaken run line a) ∧ t.acc id = none ∧ t = { s with accs := t.accs, runs := t.runs }) ∧
  (∀ s id a x, s.acc id = some a → a.op = .tset x → a.stage = .done → (s.teams.find a.team).isSome →
    ((∀ b ∈ s.accs, b.team = a.team → b.op = .tset x → b.id = a.id) →
      (Here s a.team a.group → ∃ t, exec (.tsetDescriptorArrival id) s = .next t ∧
        (∀ d, descOf a.bytes = some d → t.tensors.find (a.team, x) = some (.valid d)) ∧
        (descOf a.bytes = none → t.tensors.find (a.team, x) = some .invalid) ∧
        t.acc id = none ∧ Imaged s t a.team a.group ∧ t = { s with accs := t.accs, tensors := t.tensors, mem := t.mem }) ∧
      (¬ Here s a.team a.group → exec (.tsetDescriptorArrival id) s = .next (Held s id a))) ∧
    ((∃ b ∈ s.accs, b.team = a.team ∧ b.op = .tset x ∧ b.id < a.id) → exec (.tsetDescriptorArrival id) s = .next s) ∧
    ((∀ b ∈ s.accs, b.team = a.team → b.op = .tset x → a.id ≤ b.id) → (∃ b ∈ s.accs, b.team = a.team ∧ b.op = .tset x ∧ a.id < b.id) →
      exec (.tsetDescriptorArrival id) s = .next ((s.dropAcc id).inImage a.team))) ∧
  (∀ s id a d q L c h k p, Answers s id a L → a.op = .launch d q → s.behindLane a = false → (s.lane L).wait = .launch (.go h k p) →
    Here s a.team a.group → (s.queues.get Queue.idle q).enable = true → (s.queues.get Queue.idle q).owner = a.key →
    (s.queues.get Queue.idle q).backlog ≠ 2 ^ (s.queues.get Queue.idle q).size → s.ctx a.key = some c →
    ∃ t, exec (.launchRecordRead id) s = .next t ∧ Holds t L (.v d 0) ∧ Holds t L (.v (d + 1) (s.queues.get Queue.idle q).wr) ∧
      t.queues.get Queue.idle q = { s.queues.get Queue.idle q with wr := (s.queues.get Queue.idle q).wr + 1 } ∧
      t.mem = (s.ctxStore c ((s.queues.get Queue.idle q).base + BitVec.ofNat 64 (64 * ((s.queues.get Queue.idle q).wr.toNat %
        2 ^ (s.queues.get Queue.idle q).size))) a.bytes).mem ∧
      Moved t L { s.lane L with wait := .none } h k p ∧ t.acc id = none) ∧
  (∀ s id a d q L h k p, Answers s id a L → a.op = .launch d q → s.behindLane a = false → (s.lane L).wait = .launch (.go h k p) →
    Here s a.team a.group → ((s.queues.get Queue.idle q).enable = false ∨ (s.queues.get Queue.idle q).owner ≠ a.key) ∨
      (s.queues.get Queue.idle q).backlog = 2 ^ (s.queues.get Queue.idle q).size →
    ∃ t, exec (.launchRecordRead id) s = .next t ∧
      Holds t L (.v d (if (s.queues.get Queue.idle q).enable = true ∧ (s.queues.get Queue.idle q).owner = a.key then 1 else 2)) ∧
      Holds t L (.v (d + 1) 0) ∧ t.queues = s.queues ∧ t.mem = s.mem ∧
      Moved t L { s.lane L with wait := .none } h k p ∧ t.acc id = none) ∧
  (∀ s id a d q, s.acc id = some a → a.op = .launch d q → a.stage = .done → s.behindLane a = false → (s.teams.find a.team).isSome →
    ¬ Here s a.team a.group → exec (.launchRecordRead id) s = .next (Held (s.takeRecord a q).2.2 id
      { a with op := .ld d false, bytes := leBytes 4 (s.takeRecord a q).1 ++ leBytes 4 (s.takeRecord a q).2.1.toNat })) ∧
  (∀ s p, Pending s p → p.te = false → Apart p.writes → ∃ t, exec (completion p) s = .next t ∧
    Fills s t ⟨p.team, p.group, p.lane⟩ p.writes { s.lane ⟨p.team, p.group, p.lane⟩ with
      dctl := (s.lane ⟨p.team, p.group, p.lane⟩).dctl ||| p.dflags,
      prec := (s.lane ⟨p.team, p.group, p.lane⟩).prec ||| p.pflags } ∧
    t.pend = s.pend.filter (fun q => q.id ≠ p.id) ∧ t.mem = s.mem) ∧
  (∀ s p h k prio, Pending s p → p.te = true → p.trap = none → (s.team p.team).phase.holds = false → Apart p.writes →
    (s.lane ⟨p.team, p.group, p.lane⟩).wait = .te (.go h k prio) → ∃ t, exec (completion p) s = .next t ∧
    (∀ w ∈ p.writes, Holds t ⟨p.team, p.group, p.lane⟩ w) ∧
    RegsKept s t (p.writes.map (fun w => s.rid ⟨p.team, p.group, p.lane⟩ w.cls w.num)) ∧
    Moved t ⟨p.team, p.group, p.lane⟩ { s.lane ⟨p.team, p.group, p.lane⟩ with wait := .none } h k prio ∧
    (∀ M, M ≠ ⟨p.team, p.group, p.lane⟩ → t.lane M = s.lane M) ∧ t.pend = s.pend.filter (fun q => q.id ≠ p.id) ∧ t.mem = s.mem) ∧
  (∀ s p v, Pending s p → p.te = true → p.trap = some v → (s.team p.team).phase.holds = false → s.trapBar ⟨p.team, p.group, p.lane⟩ = none →
    ∃ t, exec (completion p) s = .next t ∧
    t.lane ⟨p.team, p.group, p.lane⟩ = { s.lane ⟨p.team, p.group, p.lane⟩ with
      tcause := 7, tpc := tpcOf (s.lane ⟨p.team, p.group, p.lane⟩).hdr (s.lane ⟨p.team, p.group, p.lane⟩).k, tval := v, inHandler := true,
      hdr := s.handler p.team, k := 1, prio := 255, wait := .none, arrive := s.nextId, since := s.clock } ∧
    (∀ M, M ≠ ⟨p.team, p.group, p.lane⟩ → t.lane M = s.lane M) ∧ t.pend = s.pend.filter (fun q => q.id ≠ p.id) ∧
    t = { s with pend := t.pend, lanes := t.lanes }) ∧
  (∀ s p, s.pend.find? (fun q => q.id = p.id && q.window = p.window) = some p → p.te = true → (s.team p.team).phase.holds = true →
    exec (completion p) s = .next s) ∧
  (∀ s key c r w0 w1, s.ctx key = some c → c.key = key → c.reqs.find? (fun x => x.seq = r.seq) = some r → r.reply = some (w0, w1) →
    s.receives ⟨r.team, r.group, r.lane⟩ = true → Here s r.team r.group → ∃ t, exec (.svcReply key r.seq) s = .next t ∧
      Fills s t ⟨r.team, r.group, r.lane⟩ [.v r.d w0, .v (r.d + 1) w1] { s.lane ⟨r.team, r.group, r.lane⟩ with
        pts := (max (s.lane ⟨r.team, r.group, r.lane⟩).pts r.ts) } ∧
      t.ctx key = some { c with reqs := c.reqs.filter (fun x => x.seq ≠ r.seq) } ∧
      t.groups = s.groups ∧ Imaged s t r.team r.group)

namespace Sys2Proof

/-- A page key of a cluster that is reported (R295). -/
def ReportedIn (s : State) (cluster key : Nat) (page : D64) : Prop := (s.cluster cluster).isReported key page = true

/-- The state in which a resolved page's entries are replayed: the page key resolved, its translation in the cluster dropped (R295, R298). -/
def resolved (s : State) (cluster key : Nat) (page : D64) : State :=
  let c := s.cluster cluster
  let u := s.setCluster cluster { c with pages := c.pages.filter (fun p => !(p.key = key && p.page = page && p.reported)) }
  { u with tlb := u.tlb.del (cluster, key, page) }

/-- Pages reported at one time; the others stay as they are. -/
def reportAll (now : Nat) (ps : List PageKey) : List PageKey :=
  ps.map (fun p => if p.reported then p else { p with reported := true, seen := now })

end Sys2Proof

/-- R273, R290 to R300, R306: the events that firmware and the host make of parked accesses. REFILL brings the spilled entry with the lowest
sequence number back; BATCH_DELIVERY reports the pages of an open window, one 16-byte entry each, in order of key id and page, behind a 64-byte header, and
moves the sequence number on, in the mailbox ring and its journal that the core serving it may have taken over (R328); LIST writes one 128-byte entry for each parked access of the context; RESOLVE, RESOLVE_POISON and a granting PRI_RESPONSE replay
the entries of a page in sequence order, each one translated again and then performed and answered, or parked again, and then the accesses held behind it;
a page that is not granted, that the host refuses, or that is neither granted nor repaired within 1 s ends its context with a kind-17 record. When firmware
asks the host (log entry 19), what it has granted (log entry 20), which entries record 17 counts (log entry 31), and that each of firmware's acts is one event
whose choices are arguments (log entry 90), is the model's choice. -/
def Obligations.ParkingEventsAct : Prop :=
  (∀ s cluster a, (s.parkedIn cluster).length < 8192 → a ∈ s.accs → a.stage = .spilled → clusterOf a.core = cluster →
    (∀ b ∈ s.accs, b.stage = .spilled → clusterOf b.core = cluster → b = a ∨ a.seq < b.seq) →
    exec (.refill cluster) s = .next (s.setAcc { a with stage := .parked })) ∧
  (∀ s cluster w, (s.cluster cluster).window = some w →
    w + 4000 ≤ s.clock ∨ ((s.cluster cluster).pages.filter (fun p => !p.reported)).length = 512 →
    ((s.cluster cluster).pages.filter (fun p => !p.reported)).length ≤ 512 →
    ∃ (t : State) (dest ring : Nat) (ps : List PageKey) (asks : List Sent), exec (.batchDelivery cluster) s = .next t ∧
      ring = s.ringOf ((ps.map (·.key)).headD 0) ∧ dest = s.preronOf ((ps.map (·.key)).headD 0) ∧
      t.cluster cluster = { s.cluster cluster with pages := reportAll s.clock (s.cluster cluster).pages, window := none,
                                                   batchSeq := ((s.cluster cluster).batchSeq + 1) % 2 ^ 32 } ∧
      ps.Perm ((s.cluster cluster).pages.filter (fun p => !p.reported)) ∧
      ps.Pairwise (fun a b => a.key < b.key ∨ (a.key = b.key ∧ a.page.toNat ≤ b.page.toNat)) ∧
      t.outbox = s.outbox ++ [.batch dest (record64 [(0, 2, ps.length), (2, 1, cluster), (4, 4, (s.cluster cluster).batchSeq),
        (8, 8, s.clock)] ++ ps.flatMap (s.batchEntry cluster))] ++ asks ∧
      t.board = { s.board with prerons := s.board.prerons.set ring { s.preron ring with mailPos := (s.preron ring).mailPos + 1 } } ∧
      t.mem = s.mem.putN (loc .preron ring 0) (t.preron ring).bytes ∧
      t = { s with clusters := t.clusters, outbox := t.outbox, board := t.board, mem := t.mem, pri := t.pri }) ∧
  (∀ s cluster, (s.cluster cluster).window = none → exec (.batchDelivery cluster) s = .next s) ∧
  (∀ s cluster w, (s.cluster cluster).window = some w → s.clock < w + 4000 →
    ((s.cluster cluster).pages.filter (fun p => !p.reported)).length < 512 → exec (.batchDelivery cluster) s = .next s) ∧
  (∀ (s : State) cluster p, (s.batchEntry cluster p).length = 16) ∧
  (∀ s key cluster, exec (.list key cluster) s = .next { s with outbox := s.outbox ++ [.listing (s.listing key cluster)] } ∧
    (s.listing key cluster).length = 128 * (s.accs.filter (fun a =>
      (a.stage = .parked || a.stage = .spilled) && clusterOf a.core = cluster && a.key = key)).length) ∧
  (∀ s key cluster page tables c, s.ctx key = some c →
    exec (.resolve key cluster page tables) s = .next ((s.applyTables key tables).resolvePage cluster key page false)) ∧
  (∀ s key cluster page c, s.ctx key = some c → exec (.resolvePoison key cluster page) s = .next (s.resolvePage cluster key page true)) ∧
  (∀ s key cluster page g, ReportedIn s cluster key page → s.priOut key page = true →
    exec (.priResponse key cluster page (some g)) s = .next ((List.range 16).foldl (fun u c => u.askHost c)
      ((cluster :: (List.range 16).filter (fun c => c ≠ cluster && (s.cluster c).isReported key page)).foldl
        (fun u c => u.resolvePage c key page false) ((s.priDone key page).setAts key page g)))) ∧
  (∀ s key cluster page grant, (s.cluster cluster).isReported key page = false ∨ s.priOut key page = false →
    exec (.priResponse key cluster page grant) s = .next s) ∧
  (∀ (s : State) cluster key page poisoned, ReportedIn s cluster key page → s.resolvePage cluster key page poisoned =
    (sortBy (fun (a b : Access) => a.seq < b.seq) (s.entriesOn cluster key page)).foldl (fun u a => u.replayOn poisoned a)
      (resolved s cluster key page)) ∧
  (∀ (s u : State) poisoned a, u = (s.replay poisoned a.id).inImage a.team → (u.pendingAcc a.id = true → s.replayOn poisoned a = u) ∧
    (u.pendingAcc a.id = false → s.replayOn poisoned a = u.sendOn (u.chainOf a))) ∧
  (∀ (s : State) id a b, s.acc id = some a → (s.translate a false).acc id = some b → b.stage ≠ .ready →
    s.replay false id = s.translate a false) ∧
  (∀ (s : State) id a b, s.acc id = some a → (s.translate a false).acc id = some b → b.stage = .ready →
    (∀ h, b.op ≠ .fetch h) → (∀ c i st, b.op ≠ .chunk c i st) →
    s.replay false id = ((s.translate a false).performAll id false 64).finish id) ∧
  (∀ s key cluster page c p, s.ctx key = some c →
    (s.cluster cluster).pages.find? (fun p => p.key = key && p.page = page && p.reported) = some p →
    ((c.grants page = false ∨ ∃ a ∈ s.entriesOn cluster key page, c.grantsNeed page a.op.need = false) →
      exec (.pageRepairTimeout key cluster page 0) s =
      .next (s.incident key 3 (s.record17 key cluster page (causesOf (s.entriesOn cluster key page)) 0))) ∧
    (p.seen + 1000000000 ≤ s.clock → c.grants page = false → s.entriesOn cluster key page ≠ [] →
      exec (.pageRepairTimeout key cluster page 2) s =
      .next (s.incident key 3 (s.record17 key cluster page (causesOf (s.entriesOn cluster key page)) 2))) ∧
    (s.clock < p.seen + 1000000000 → exec (.pageRepairTimeout key cluster page 2) s = .next s)) ∧
  (∀ s key cluster page, ReportedIn s cluster key page → s.priOut key page = true → exec (.priResponse key cluster page none) s =
    .next (s.incident key 3 (s.record17 key cluster page (causesOf (s.entriesOn cluster key page)) 1)))

namespace Sys2Proof

/-- The range of addresses whose translations a change of an address's leaf concerns: the whole page, as the tables have it before the writes
or after them, whichever is larger (R196). -/
def changedRange (s : State) (c : Ctx) (key : Nat) (page : D64) (tables : List (Nat × D64)) : D64 × Nat :=
  let before := leafRange (walk s.mem c.root page) page
  let after := leafRange (walk (s.applyTables key tables).mem c.root page) page
  if before.2 < after.2 then after else before

/-- Whether a word lies in a host line of a PASID whose address is in a range. -/
def HostWordIn (pasid : Nat) (base : D64) (len word : Nat) : Prop :=
  inSpace .host (128 * lineOf (4 * word)) = true ∧ 128 * lineOf (4 * word) / 2 ^ 64 % 2 ^ 40 = pasid ∧
    inRange base len (BitVec.ofNat 64 (128 * lineOf (4 * word) % 2 ^ 64)) = true

end Sys2Proof

/-- R187, R189 to R192, R196, R268: the events of timestamps, pages and copies. A tick raises the time of every live lane of a placed, unsaved team
by 1, and with it the least time at which a core's next access starts; a private page that another core misses on becomes shared, with the next version and its words at least at its stamp, and an invalidation
is on its way to each copy of its words; an invalidation drops a copy of its version or an older one and no other; a delegation is made and taken
back; a translation change completes once no translated access on its page is left to perform: then no cluster's entry, no answer of the host and no
copy of a host line in the page is left. Timestamps for each 4-byte word (log entry 40), the tick as an event of the clock (log entry 58), a core's least time that ticks raise (log entry 108), firmware's change as one
event with the table writes as argument (log entry 90), and that writes which would map a page into two contexts, or move a page of a host window
(R274), are not made (log entry 102), are the model's choice. -/
def Obligations.OrderingEventsAct : Prop :=
  (∀ s, (s.ticks + 1) * 256 ≤ s.clock → ∃ t, exec .ptsTick s = .next t ∧ t.ticks = s.ticks + 1 ∧
    (∀ L, (s.lane L).live = true → (s.team L.team).phase ≠ .saved → t.lane L = { s.lane L with pts := (s.lane L).pts + 1 }) ∧
    (∀ L, (s.lane L).live = false ∨ (s.team L.team).phase = .saved → t.lane L = s.lane L) ∧
    (∀ c, (s.cores.find c).isSome → t.core c = { s.core c with aged := (s.core c).least + 1 }) ∧
    (∀ c, s.cores.find c = none → t.core c = s.core c) ∧
    t = { s with ticks := t.ticks, cores := t.cores, lanes := t.lanes }) ∧
  (∀ s f core o a g, a ∈ s.accs → a.core = core → a.stage = .ready → g ∈ a.locs → frameOf g.1 = f → isHbm g.1 = true →
    (s.page f).owner = some o → o ≠ core → (s.page f).shared = false → ∃ t, exec (.pageReclassification f core) s = .next t ∧
      t.page f = { owner := none, shared := true, cts := (s.page f).cts, version := ((s.page f).version + 1) % 2 ^ 32 } ∧
      (∀ k, copyable (4 * k) = true → inSpace .host (4 * k) = false → frameOf (4 * k) = f →
        (s.page f).cts ≤ (t.stampAt k).wts ∧ (s.page f).cts ≤ (t.stampAt k).rts) ∧
      (∀ e ∈ s.copies1, frameOf (4 * e.1.2) = f → (e.1.1, e.1.2, (s.page f).version) ∈ t.invals) ∧ (∀ x ∈ s.invals, x ∈ t.invals) ∧
      (∀ f', f' ≠ f → t.page f' = s.page f') ∧ t = { s with pages := t.pages, invals := t.invals }) ∧
  (∀ s core word version c, s.copies1.find (core, word) = some c →
    (c.version ≤ version → ∃ t, exec (.invalidation core word version) s = .next t ∧ t.copies1.find (core, word) = none ∧
      (∀ k, k ≠ (core, word) → t.copies1.find k = s.copies1.find k) ∧ t.invals = s.invals.filter (· ≠ (core, word, version)) ∧
      t = { s with copies1 := t.copies1, invals := t.invals }) ∧
    (version < c.version → exec (.invalidation core word version) s =
      .next { s with invals := s.invals.filter (· ≠ (core, word, version)) })) ∧
  (∀ s core word version, s.copies1.find (core, word) = none → exec (.invalidation core word version) s =
    .next { s with invals := s.invals.filter (· ≠ (core, word, version)) }) ∧
  (∀ s word core, copyable (4 * word) = true → (isHbm (4 * word) = true → (s.page (frameOf (4 * word))).shared = true) →
    s.coreOn core = true → s.deleg.find word = none →
    exec (.delegation word core) s = .next { s with deleg := s.deleg.set word core }) ∧
  (∀ s word, ∃ t, exec (.delegationRecall word) s = .next t ∧ t.deleg.find word = none ∧
    (∀ k, k ≠ word → t.deleg.find k = s.deleg.find k) ∧ t = { s with deleg := t.deleg }) ∧
  (∀ s key page tables c, s.ctx key = some c →
    (s.usesRange key (changedRange s c key page tables).1 (changedRange s c key page tables).2 = false →
      exec (.tlbInvalidation key page tables) s = .next ((s.applyTables key tables).forgetRange c
        (changedRange s c key page tables).1 (changedRange s c key page tables).2)) ∧
    (s.usesRange key (changedRange s c key page tables).1 (changedRange s c key page tables).2 = true →
      exec (.tlbInvalidation key page tables) s = .next s) ∧
    inRange (changedRange s c key page tables).1 (changedRange s c key page tables).2 page = true) ∧
  (∀ (s : State) c base len, ∃ t, t = s.forgetRange c base len ∧
    (∀ e ∈ t.tlb, e.1.2.1 = c.key → inRange base len e.1.2.2 = false) ∧
    (∀ e ∈ t.ats, some e.1.1 = c.pasid → inRange base len e.1.2 = false) ∧
    (∀ p, c.pasid = some p → (∀ e ∈ t.copies1, ¬ HostWordIn p base len e.1.2) ∧
      ∀ e ∈ t.proxy, inSpace .host (128 * e.1) = true → 128 * e.1 / 2 ^ 64 % 2 ^ 40 = p →
        inRange base len (BitVec.ofNat 64 (128 * e.1 % 2 ^ 64)) = false) ∧
    t = { s with copies1 := t.copies1, tlb := t.tlb, ats := t.ats, mem := t.mem, proxy := t.proxy, absent := t.absent, dirty := t.dirty, l2 := t.l2 }) ∧
  (∀ (s : State) key tables c, s.ctx key = some c →
    (s.othersMap key (writeTables s.mem (tables.filter tableWrite)) (c.runsIn (writeTables s.mem (tables.filter tableWrite))) = false →
      s.winsMove c (writeTables s.mem (tables.filter tableWrite)) = false →
      (s.applyTables key tables).mem = writeTables s.mem (tables.filter tableWrite)) ∧
    (s.othersMap key (writeTables s.mem (tables.filter tableWrite)) (c.runsIn (writeTables s.mem (tables.filter tableWrite))) = true ∨
      s.winsMove c (writeTables s.mem (tables.filter tableWrite)) = true → s.applyTables key tables = s))

namespace Sys2Proof

/-- Where a host access of `size` bytes lies, inside one line, when a window of the context holds it and its page is device memory. -/
def HostAt (s : State) (c : Ctx) (key : Nat) (addr : D64) (size l : Nat) : Prop :=
  Sys2Proof.Inv s ∧ s.board.link = .up ∧ s.ctx key = some c ∧
    (∃ w ∈ c.wins, w.1.toNat ≤ addr.toNat ∧ addr.toNat + size ≤ w.1.toNat + w.2) ∧
    1 ≤ size ∧ addr.toNat % 4096 + size ≤ 4096 ∧ l % 128 + size ≤ 128 ∧
    isHbm l = true ∧ ∃ t, walk s.mem c.root addr = some t ∧ t.home = 0 ∧ l = transLoc c t addr

/-- The same for a peer's request: the issuing device and key id are listed, and the address lies below the firmware region. -/
def PeerAt (s : State) (c : Ctx) (port device issuer key pa size : Nat) : Prop :=
  Sys2Proof.Inv s ∧ (s.port port).up = true ∧ s.ctx key = some c ∧ c.peers.contains (port, device, issuer) = true ∧
    pa + size ≤ Config.firmwareBase ∧ 1 ≤ size ∧ pa % 128 + size ≤ 128

/-- A port that has taken the flit which it expected (R364). -/
def taken (s : State) (port : Nat) : State :=
  s.setPort port { s.port port with recvSeq := ((s.port port).recvSeq + 1) % 4096, nak := none }

/-- A peer's count, or setting of F, on an object in a scratchpad of this device (R220, R329): the object alone becomes another. -/
def PeerCounted (s t : State) (l : Nat) (b : Barrier) : Prop :=
  (∀ i < 16, t.mem.get (l + i) = some (b.bytes.getD i 0)) ∧ (∀ x, (x < l ∨ l + 16 ≤ x) → t.mem.get x = s.mem.get x) ∧ t.outbox = s.outbox

end Sys2Proof

/-- R195, R274, R275, R329: what the host and peers do to the device. Inside a window a write changes its bytes and no others, under the context's key,
and a read returns the bytes of the home; outside every window a read gives all ones and a write is dropped. A peer's load, store or atomic is performed for a
context that lists it, and its counts change the barrier that they name; it is refused for any other context, and nothing is taken from a port that is
down. That an access of which a page is not of device memory is outside its window (log entry 74), and that a peer's request
which reaches the firmware region is refused (log entry 75), is the model's choice. -/
def Obligations.OutsideEventsAct : Prop :=
  (∀ s c key addr size l v, HostAt s c key addr size l → ∃ t, exec (.hostAccess key addr size (some v)) s = .next t ∧
    (∀ i < size, t.cell (l + i) = some (BitVec.ofNat 8 (v / 256 ^ i))) ∧ BytesKept s t c.draw l size ∧ t.outbox = s.outbox) ∧
  (∀ s c key addr size l, HostAt s c key addr size l → ∃ t, exec (.hostAccess key addr size none) s = .next t ∧
    t.outbox = s.outbox ++ [.hostRead (s.readSegs c.draw [(l, size)])] ∧ BytesKept s t c.draw l 0) ∧
  (∀ s c key addr size store, s.board.link = .up → s.ctx key = some c →
    (∀ w ∈ c.wins, ¬ (w.1.toNat ≤ addr.toNat ∧ addr.toNat + size ≤ w.1.toNat + w.2)) ∨
      (∃ p ∈ pageSplit addr size, ∀ x, walk s.mem c.root p.1 = some x → x.home ≠ 0) →
    exec (.hostAccess key addr size store) s = .next { s with outbox := s.outbox ++ [.hostOutside addr] ++
      (if store = none then [.hostRead (List.replicate size 0xFF)] else []) }) ∧
  (∀ s c port device issuer key pa size d, PeerAt s c port device issuer key pa size →
    ∃ t, exec (.peerRequest port device issuer key pa size (.store d)) s = .next t ∧
      (∀ i < size, t.cell (hbmLoc pa + i) = some (BitVec.ofNat 8 (d / 256 ^ i))) ∧ BytesKept s t c.draw (hbmLoc pa) size ∧
      t.outbox = s.outbox ++ [.peerAnswer port []] ∧ t.ports = (taken s port).ports) ∧
  (∀ s c port device issuer key pa size, PeerAt s c port device issuer key pa size →
    ∃ t, exec (.peerRequest port device issuer key pa size .load) s = .next t ∧
      t.outbox = s.outbox ++ [.peerAnswer port (s.readSegs c.draw [(hbmLoc pa, size)])] ∧ BytesKept s t c.draw (hbmLoc pa) 0 ∧
      t.ports = (taken s port).ports) ∧
  (∀ s c port device issuer key pa size fn b d mode, PeerAt s c port device issuer key pa size →
    ∃ t, exec (.peerRequest port device issuer key pa size (.atomic fn b d mode)) s = .next t ∧
      t.outbox = s.outbox ++ [.peerAnswer port (s.readSegs c.draw [(hbmLoc pa, size)])] ∧
      (atomWrites fn (ofLe (s.readSegs c.draw [(hbmLoc pa, size)])) b = true → ∀ i < size, t.cell (hbmLoc pa + i) = some (BitVec.ofNat 8
        (atomF fn mode (ofLe (s.readSegs c.draw [(hbmLoc pa, size)])) b d / 256 ^ i))) ∧
      (atomWrites fn (ofLe (s.readSegs c.draw [(hbmLoc pa, size)])) b = false → BytesKept s t c.draw (hbmLoc pa) 0) ∧
      BytesKept s t c.draw (hbmLoc pa) size ∧ t.ports = (taken s port).ports) ∧
  (∀ s c port device issuer key pa size bar l, Sys2Proof.Inv s → (s.port port).up = true → s.ctx key = some c →
    c.peers.contains (port, device, issuer) = true → bits bar.toNat 48 16 = 0xFF03 → s.designated key bar.toNat = .at l → l % 16 = 0 →
    (∀ n, ∃ t, exec (.peerRequest port device issuer key pa size (.count bar n)) s = .next t ∧
      PeerCounted s t l ((objectAt s l).update s.clock 0 0 (-(n : Int)) 0)) ∧
    (∃ t, exec (.peerRequest port device issuer key pa size (.fail bar)) s = .next t ∧ PeerCounted s t l { objectAt s l with f := true })) ∧
  (∀ s port device issuer key pa size op, (s.port port).up = true →
    (∀ c, s.ctx key = some c → (port, device, issuer) ∉ c.peers ∨ (Config.firmwareBase < pa + size ∧ (∀ b n, op ≠ .count b n) ∧ ∀ b, op ≠ .fail b)) →
    exec (.peerRequest port device issuer key pa size op) s =
      .next { taken s port with outbox := s.outbox ++ [.peerRefused port] }) ∧
  (∀ s port device issuer key pa size op, (s.port port).up = false → exec (.peerRequest port device issuer key pa size op) s = .next s)

namespace Sys2Proof

/-- Accepted launches of a queue without a terminal status (R227). -/
def openIn (s : State) (q : Nat) : Nat := (s.launches.filter (fun e => e.2.queue = q && !e.2.state.over)).length

/-- What acceptance asks of a queue before it reads (R227): the module works, the queue is enabled with a backlog and fewer than 64 open
records, its owner is there, and no read of the launch unit for it is pending. -/
def MayAccept (s : State) (q : Nat) (c : Ctx) : Prop :=
  s.working = true ∧ (s.queues.get Queue.idle q).enable = true ∧ (s.queues.get Queue.idle q).backlog ≠ 0 ∧ openIn s q < 64 ∧
    (∀ a ∈ s.accs, a.op = .accept q → a.stage = .done) ∧ s.ctx (s.queues.get Queue.idle q).owner = some c

/-- A journal entry in both copies of the journal (R323), and nothing else of memory. -/
def Journalled (m m' : Memory) (jn : Nat) (l : Launch) : Prop :=
  m' = (m.putN (loc .journal 0 (32 * jn)) l.entry).putN (loc .journal 1 (32 * jn)) l.entry

/-- The state of a journal entry after its terminal code (R228, R323): STATUS-WRITTEN where the status store was performed, as it is where there is
no status address and where that address's page has a leaf; otherwise TERMINAL. -/
def Coded (s : State) (l : Launch) (x : JState) (code : Nat) : Prop :=
  (x = .written code ∨ x = .terminal code) ∧ (l.record.status = 0 → x = .written code) ∧
    ∀ c tr, s.ctx l.key = some c → vspace l.record.status = .ordinary → l.record.status.toNat % 8 = 0 → Tabled s c l.record.status tr →
      x = .written code

end Sys2Proof

/-- R225 to R232, R323: doorbells, acceptance, dispatch and completion. A doorbell that keeps the backlog within the queue's size sets the write index, and
any other is dropped. A record that passes is journalled as accepted, in both copies of the journal, and the read index moves on; one that does not is
journalled and ends with BAD_HEADER. The ready head of the highest priority sends its next team to the enabled cluster with the fewest waiting. A launch of
which nothing is left is DONE: its status word, with the record's tag, is stored once, and its teams leave; one that is TERMINAL has that store issued
again, and one that is STATUS-WRITTEN is left alone. That a store to a page without a translation is not performed, so that its launch stays TERMINAL (log
entry 12), and where the launch unit's reads are translated and timed (log entry 55), is the model's choice. -/
def Obligations.QueueEventsAct : Prop :=
  (∀ s q w, (s.queues.get Queue.idle q).enable = true → s.board.link = .up →
    (w - (s.queues.get Queue.idle q).rd).toNat ≤ 2 ^ (s.queues.get Queue.idle q).size →
    exec (.doorbell q w) s = .next { s with queues := s.queues.set q { s.queues.get Queue.idle q with wr := w } }) ∧
  (∀ s q w, (s.queues.get Queue.idle q).enable = false ∨
    2 ^ (s.queues.get Queue.idle q).size < (w - (s.queues.get Queue.idle q).rd).toNat → exec (.doorbell q w) s = .next s) ∧
  (∀ s q c l s', MayAccept s q c → s.judge q (s.queues.get Queue.idle q) c = .accept l s' →
    ∃ t, exec (.launchAcceptance q) s = .next t ∧ t.launches.find s'.launches.length = some l ∧
      (∀ j, j ≠ s'.launches.length → t.launches.find j = s'.launches.find j) ∧
      t.queues.get Queue.idle q = { s.queues.get Queue.idle q with rd := (s.queues.get Queue.idle q).rd + 1 } ∧
      Journalled s'.mem t.mem s'.launches.length l) ∧
  (∀ s q c r s' ts, MayAccept s q c → s.judge q (s.queues.get Queue.idle q) c = .reject r s' ts →
    ∃ t l, exec (.launchAcceptance q) s = .next t ∧ t.launches.find s'.launches.length = some l ∧ l.record = r ∧ l.key = c.key ∧
      Coded s' l l.state 2 ∧ (∀ j, j ≠ s'.launches.length → t.launches.find j = s'.launches.find j) ∧
      t.queues.get Queue.idle q = { s.queues.get Queue.idle q with rd := (s.queues.get Queue.idle q).rd + 1 }) ∧
  (∀ b, recordOk b = true → (recordOf b).kernel.toNat % 64 = 0 ∧ 1 ≤ (recordOf b).gx ∧ (recordOf b).gx < 2 ^ 31 ∧ 1 ≤ (recordOf b).gy ∧
    (recordOf b).gy ≤ 65535 ∧ 1 ≤ (recordOf b).gz ∧ (recordOf b).gz ≤ 65535 ∧ (recordOf b).plen ≤ 65536 ∧ (recordOf b).plen % 4 = 0 ∧
    (recordOf b).statusOk = true ∧ (recordOf b).gx * (recordOf b).gy * (recordOf b).gz < 2 ^ 48) ∧
  (∀ s q jn l c, s.working = true → q < 64 → s.readyHead q = some (jn, l) → (∀ q', q' ≠ q → s.readyHead q' = none) →
    s.dispatchTo = some c → s.launches.find jn = some l → ∃ t, exec .tcbDispatch s = .next t ∧
      t.cluster c = { s.cluster c with tcbs := (s.cluster c).tcbs ++ [(jn, l.dispatched)] } ∧
      t.launches.find jn = some { l with dispatched := l.dispatched + 1, state := if l.state = .accepted then .placing else l.state } ∧
      t.levels.get 0 l.record.prio = (q + 1) % 64 ∧
      Journalled s.mem t.mem jn { l with dispatched := l.dispatched + 1, state := if l.state = .accepted then .placing else l.state } ∧
      t = { s with clusters := t.clusters, launches := t.launches, levels := t.levels, mem := t.mem }) ∧
  (∀ s jn l, s.launches.find jn = some l → l.state.over = false → s.unfinished jn l = false → ∃ t x, exec (.launchCompletion jn) s = .next t ∧
    t.launches.find jn = some { l with state := x } ∧ Coded s l x 1 ∧ (∀ e ∈ t.teams, e.2.jn ≠ jn) ∧ (∀ e ∈ t.icache, e.jn ≠ jn) ∧
    (∀ j, j ≠ jn → t.launches.find j = s.launches.find j)) ∧
  (∀ s jn l, s.launches.find jn = some l → l.state.over = false → s.unfinished jn l = true → exec (.launchCompletion jn) s = .next s) ∧
  (∀ s jn l code, s.launches.find jn = some l → l.state = .terminal code → ∃ t x, exec (.launchCompletion jn) s = .next t ∧
    t.launches.find jn = some { l with state := x } ∧ Coded s l x code ∧ t.teams = s.teams) ∧
  (∀ s jn l code, s.launches.find jn = some l → l.state = .written code → exec (.launchCompletion jn) s = .next s) ∧
  (∀ (s : State) jn l c tr code, Sys2Proof.Inv s → s.launches.find jn = some l → l.state.over = false → s.ctx l.key = some c → l.record.status ≠ 0 →
    vspace l.record.status = .ordinary → l.record.status.toNat % 8 = 0 → Tabled s c l.record.status tr →
    isHbm (transLoc c tr l.record.status) = true ∨ inSpace .host (transLoc c tr l.record.status) = true →
    ∀ i < 8, (s.terminate jn code).cell (transLoc c tr l.record.status + i) =
      some (BitVec.ofNat 8 ((l.record.tag.toNat * 2 ^ 32 + code) / 256 ^ i)))

namespace Sys2Proof

/-- A team number that nothing carries yet. -/
def Unused (s : State) (n : Nat) : Prop :=
  (∀ e ∈ s.lanes, e.1.team ≠ n) ∧ (∀ e ∈ s.v, e.1.team ≠ n) ∧ (∀ e ∈ s.s, e.1.team ≠ n) ∧ (∀ e ∈ s.p, e.1.team ≠ n) ∧
    (∀ e ∈ s.d, e.1.team ≠ n) ∧ (∀ e ∈ s.w, e.1.team ≠ n) ∧ (∀ e ∈ s.marks, e.1.team ≠ n)

/-- A lane of a team that has just started (R22, R27): at its kernel's first clause, in round-to-nearest, at the launch's time. -/
def FreshLane (l : Launch) (x : Lane) : Prop :=
  x.live = true ∧ x.hdr = l.record.kernel + BitVec.ofNat 64 l.hdr.first ∧ x.k = 1 ∧ x.mark = false ∧ x.wait = .none ∧
    x.inHandler = false ∧ x.stack = [] ∧ x.mode = 0 ∧ x.prec = 0x40 ∧ x.dctl = 0 ∧ x.tcause = 0 ∧ x.tpc = 0 ∧ x.tval = 0

/-- A team that has started: its lanes are fresh, and every register holds the value of R25, full and without poison. -/
def Started (t : State) (n : Nat) (l : Launch) : Prop :=
  (∀ g < l.hdr.groupsA + l.hdr.groupsB, ∀ i < l.hdr.width, FreshLane l (t.lane ⟨n, g, i⟩)) ∧
  (∀ (L : LaneId) r, L.team = n → t.getV L r = 0 ∧ t.getS L r = 0 ∧ (r ≠ 0 → t.getP L r = false) ∧ t.getD L r = DVal.zero ∧
    t.getW L r = WVal.zero) ∧
  (∀ r : RId, r.team = n → t.mark r = ⟨true, false⟩)

/-- A demand fetch of a group for a line, as kind 3 parks it (R287, R302). -/
def fetchOf (s : State) (team group : Nat) (line hdr : D64) : Access :=
  { id := s.nextId, key := (s.team team).key, jn := (s.team team).jn, team := team, group := group, lanes := [],
    core := (s.team team).core, kind := 3, op := .fetch hdr, va := line, size := 128, major := 0, fn := 0, ctl := 0, stage := .core,
    page := 0, locs := [], home := 0, port := 0, seq := 0, cause := 0, bytes := [], ts := 0, poison := false }

end Sys2Proof

/-- R3, R22, R25, R27, R29, R36, R198, R233 to R235, R301 to R303: teams start and code arrives. The first of a cluster's start order starts on the first core of
it that has room, with fresh lanes and registers; a waiting co-resident launch starts every team at once or none. A demand fetch whose page may be executed
puts its line, as of the launch's acceptance, into the core's instruction cache; so does a prefetch, which is dropped where translation fails; a line beyond a host link that is not up is not had (R309). A cache that
is full gives up its oldest line (log entry 33), and code of a page that had no translation at acceptance is read as of the fetch (log entry 24): these two are
the model's choice. -/
def Obligations.StartEventsAct : Prop :=
  (∀ s cl jn lin l core f, s.working = true → s.firstOf cl = .tcb jn lin → s.launches.find jn = some l →
    s.fitIn l.hdr [] (coresOf cl) = some (core, f) → Unused s s.nextId → ∃ t, exec (.teamStart cl) s = .next t ∧
      Started t s.nextId l ∧ (jn, lin) ∉ (t.cluster cl).tcbs ∧
      (t.team s.nextId).core = core ∧ (t.team s.nextId).slot = f.slot ∧ (t.team s.nextId).base = f.base ∧
      (t.team s.nextId).part0 = f.part0 ∧ (t.team s.nextId).key = l.key ∧ (t.team s.nextId).jn = jn ∧ (t.team s.nextId).lin = lin ∧
      (t.team s.nextId).phase = .resident ∧
      (∀ g < l.hdr.groupsA + l.hdr.groupsB, (t.group s.nextId g).part = (f.part0 + g) % 4) ∧
      (∀ L : LaneId, L.team ≠ s.nextId → t.lane L = s.lane L) ∧ t.mem = s.mem) ∧
  (∀ s jn l s', s.working = true → s.coTop = some (jn, l) → s.coWaits jn l = true →
    s.startAll jn l.hdr allCores 0 l.record.total = some s' → exec .coResidentStart s = .next (s'.countTeams jn l.record.total)) ∧
  (∀ s jn l, s.coTop = some (jn, l) → s.startAll jn l.hdr allCores 0 l.record.total = none → exec .coResidentStart s = .next s) ∧
  (∀ s team group a b line hdr l ws locs home port, s.mayIssue team group = true →
    (((s.liveLanes team group).filter (fun i => (s.lane ⟨team, group, i⟩).wait = .none)).flatMap
      (fun i => s.codeNeeds ⟨team, group, i⟩)).find? (fun x => x.1 = a) = some (b, hdr) → lineAddr a = line →
    (∀ e ∈ s.icache, ¬ (e.core = (s.team team).core ∧ e.jn = (s.team team).jn ∧ e.line = line)) →
    (∀ b ∈ s.accs, ¬ (b.team = team ∧ b.group = group ∧ b.va = line ∧ b.op = .fetch hdr)) →
    (∀ b ∈ s.accs, b.id ≠ s.nextId) → s.placeOf (fetchOf s team group line hdr) = .mapped →
    s.look (s.team team).key (clusterOf (s.team team).core) (.fetch hdr) false line 128 (fetchOf s team group line hdr).pieces =
      .ok locs home port →
    home ≠ 2 → (∀ g ∈ locs, s.linkAway g.1 = false) → s.launches.find (s.team team).jn = some l → s.codeLine l line = some ws →
    ∃ t, exec (.instructionFetch team group a) s = .next t ∧
      t.icache = keepNewest 512 (fun e => e.core = (s.team team).core) (s.icache ++ [⟨(s.team team).core, (s.team team).jn, line, ws⟩]) ∧
      t.accs = s.accs ∧ t.mem = s.mem) ∧
  (∀ s core jn a l ws locs home port, s.coreOn core = true → s.launches.find jn = some l → vspace (lineAddr a) = .ordinary →
    s.look l.key (clusterOf core) (.fetch 0) false (lineAddr a) 128 [(0, 128)] = .ok locs home port →
    (∀ g ∈ locs, s.linkAway g.1 = false) → (∀ e ∈ s.icache, ¬ (e.core = core ∧ e.jn = jn ∧ e.line = lineAddr a)) → s.codeLine l (lineAddr a) = some ws →
    exec (.prefetch core jn a) s = .next { s with
      fresh := s.fresh + 128, icache := keepNewest 512 (fun e => e.core = core) (s.icache ++ [⟨core, jn, lineAddr a, ws⟩]) }) ∧
  (∀ s core jn a l locs home port, s.launches.find jn = some l →
    s.look l.key (clusterOf core) (.fetch 0) false (lineAddr a) 128 [(0, 128)] = .ok locs home port →
    (∃ g ∈ locs, s.linkAway g.1 = true) → exec (.prefetch core jn a) s = .next s) ∧
  (∀ s core jn a l c p, s.launches.find jn = some l →
    s.look l.key (clusterOf core) (.fetch 0) false (lineAddr a) 128 [(0, 128)] = .park c p → exec (.prefetch core jn a) s = .next s)

namespace Sys2Proof

/-- Pre-emption requests made for a list of teams, and nothing else (R312, R320): a resident team is named, and one that is RESTORING will be. -/
def Named (s t : State) (ts : List Nat) : Prop :=
  (∀ u ∈ ts, (s.teams.find u).isSome = true →
    ((s.team u).phase = .resident → t.team u = { s.team u with phase := .named }) ∧
    (∀ b, (s.team u).phase = .restoring b → t.team u = { s.team u with phase := .restoring true })) ∧
  (∀ u, u ∉ ts → t.team u = s.team u) ∧ t = { s with teams := t.teams }

/-- What the first of a cluster's start order asks room for: a header and a priority (R233, R237). -/
def FirstNeeds (s : State) (cl : Nat) (h : Header) (prio : Nat) : Prop :=
  (∃ jn lin l, s.firstOf cl = .tcb jn lin ∧ s.launches.find jn = some l ∧ h = l.hdr ∧ prio = l.record.prio) ∨
    ∃ u, s.firstOf cl = .team u ∧ h = s.hdr u ∧ prio = s.prioOf (s.team u).jn

/-- The victims that would make the room, beside the teams that leave already (R237). -/
def victimsFor (s : State) (cl : Nat) (h : Header) (prio : Nat) : Option (List Nat) :=
  takeUntil s.broughtBy (fun gone => (s.fitIn h gone (coresOf cl)).isSome) s.leaving (s.victimTeams prio [cl])

/-- The first of the start order asks nothing of any team: it fits, or all victims together would not do. -/
def FirstAsksNothing (s : State) (cl : Nat) : Prop :=
  ∀ h prio, FirstNeeds s cl h prio → (s.fitIn h [] (coresOf cl)).isSome ∨ victimsFor s cl h prio = none

/-- Whether a waiting co-resident launch fits the module now, to start or to be restored (R234, R237). -/
def coFits (s : State) (jn : Nat) (l : Launch) : Bool :=
  if s.coWaits jn l then (s.startAll jn l.hdr allCores 0 l.record.total).isSome else (s.reseatAll l.hdr (s.savedOf jn)).isSome

/-- A team is not in its runs' way: none of its runs holds the matrix pair of a core or waits for it (R141). -/
def RunsOff (s t : State) (u : Nat) : Prop :=
  ∀ r ∈ s.runs, r.team = u → r.id ∉ (t.core (s.team u).core).fifo ∧ ∀ n, (t.core (s.team u).core).hold ≠ some (r.id, n)

/-- Every live lane of a group waits on service, by R283's exact test, and the group may issue; it has such lanes. -/
def OnService (s : State) (u g : Nat) : Prop :=
  s.mayIssue u g = true ∧ s.liveLanes u g ≠ [] ∧ (∀ i ∈ s.liveLanes u g, s.onService ⟨u, g, i⟩ = true) ∧
    s.admits1 (.offCoreSave u g) = true

end Sys2Proof

/-- R236, R237, R244, R283, R312, R313, R317 to R320, R351: donation, pre-emption, save and restore. A cluster with nothing to start asks its victims in turn, and
the shipment arrives or the next is asked, with a pause of 1,024 cycles after a round of empty answers. Room for a team, or for a co-resident launch, is made by
naming victims, each with the other teams of its co-resident launch; a request that reaches its core halts the team; a halted team is SAVING once its pending
words are complete, with its image begun, then saved with its image in memory, and a saved one is RESTORING with its place and accesses moved, and comes back
with its sleeps and deadlines moved on by the time it was away. A group all of whose lanes wait on service leaves its core after 10,000 cycles of that; once a reply
has ended a lane's wait its image is read back, replies to it being held meanwhile, and it is on the same partition again. These
are the model's choice: where completions of a team that is away are held (log entry 26), that pending words complete before the save (35), when a stopped run
leaves the pair (54), that no victim is named where all would not make room (63), that teams of a held context are passed over (65), that a restore resets the
pointers of the core (66), by what the waits move on (85), and the place of an image (95). -/
def Obligations.PlacementEventsAct : Prop :=
  (∀ s cl v, s.working = true → (s.cluster cl).asking = none → (s.cluster cl).tcbs = [] → (s.cluster cl).retryAt ≤ s.clock →
    (∃ c ∈ coresOf cl, s.freeSlot c = true) → (victims cl)[(s.cluster cl).round]? = some v → v ≠ cl →
    ∃ t, exec (.foragerRequest cl) s = .next t ∧
      t.cluster cl = { s.cluster cl with asking := some v, shipped := s.shipment v } ∧
      t.cluster v = { s.cluster v with tcbs := (s.cluster v).tcbs.filter (fun x => !((s.shipment v).contains x)) } ∧
      t = { s with clusters := t.clusters }) ∧
  (∀ (s : State) v, ∀ x ∈ s.shipment v, x ∈ (s.cluster v).tcbs ∧ ∀ l, s.launches.find x.1 = some l → l.hdr.coRes = false) ∧
  (∀ s cl v, (s.cluster cl).asking = some v →
    ((s.cluster cl).shipped ≠ [] → exec (.foragerAnswer cl) s = .next (s.setCluster cl { s.cluster cl with
      tcbs := (s.cluster cl).tcbs ++ (s.cluster cl).shipped, shipped := [], asking := none, round := 0 })) ∧
    ((s.cluster cl).shipped = [] → (s.cluster cl).round < 14 → (victims cl).length = 15 → exec (.foragerAnswer cl) s =
      .next (s.setCluster cl { s.cluster cl with asking := none, round := (s.cluster cl).round + 1 })) ∧
    ((s.cluster cl).shipped = [] → (s.cluster cl).round = 14 → (victims cl).length = 15 → exec (.foragerAnswer cl) s =
      .next (s.setCluster cl { s.cluster cl with asking := none, round := 0, retryAt := s.clock + 1024 }))) ∧
  (∀ cl, cl < 16 → (victims cl).length = 15 ∧ (victims cl).Nodup ∧ cl ∉ victims cl ∧ ∀ i < 3, ((victims cl).getD i 0) / 4 = cl / 4) ∧
  (∀ s cl h prio ts, s.working = true → FirstNeeds s cl h prio → s.fitIn h [] (coresOf cl) = none → victimsFor s cl h prio = some ts →
    (∃ u ∈ ts, (s.teams.find u).isSome ∧ (s.team u).phase = .resident) → ∃ t, exec (.preemptForRoom cl) s = .next t ∧ Named s t ts) ∧
  (∀ s cl jn l ts, s.working = true → FirstAsksNothing s cl → s.coTop = some (jn, l) → coFits s jn l = false →
    takeUntil s.broughtBy (fun gone => coFits (s.without gone) jn l) s.leaving (s.victimTeams l.record.prio (List.range 16)) = some ts →
    ∃ t, exec (.preemptForRoom cl) s = .next t ∧ Named s t ts) ∧
  (∀ s cl, FirstAsksNothing s cl → (s.coTop = none ∨ ∃ jn l, s.coTop = some (jn, l) ∧ coFits s jn l = true) →
    exec (.preemptForRoom cl) s = .next s) ∧
  (∀ (s : State) u, (s.hdr u).coRes = true → ∀ e ∈ s.teams, e.2.jn = (s.team u).jn → s.teamLive e.1 = true →
    e.2.phase = .resident ∨ e.2.phase = .restoring false → e.1 ∈ s.broughtBy u) ∧
  (∀ (s : State) prio cls, ∀ u ∈ s.victimTeams prio cls, ∀ x, s.teams.find u = some x → (∀ e ∈ s.teams, s.team e.1 = e.2) →
    x.phase = .resident ∧ s.teamLive u = true ∧ s.prioOf x.jn < prio ∧ x.since + 50000 ≤ s.clock) ∧
  (∀ s u, (s.team u).phase = .named → exec (.preemptionRequest u) s = .next (s.setTeam u { s.team u with phase := .halting })) ∧
  (∀ s u, (s.team u).phase = .halting → (∀ p ∈ s.pend, p.team = u → p.te = true) → ∃ v : State, exec (.teamSave u) s = .next (v.writeImage u) ∧
    v.team u = { s.team u with phase := .saving, saveCore := s.coreOf u, savePart := (s.team u).partition } ∧ RunsOff s v u ∧
    (∀ g, (v.group u g).loading = false) ∧ v = { s with teams := v.teams, cores := v.cores, runs := v.runs, groups := v.groups }) ∧
  (∀ s u, (s.team u).phase = .halting → (∃ p ∈ s.pend, p.team = u ∧ p.te = false) → exec (.teamSave u) s = .next s) ∧
  (∀ s u, (s.team u).phase = .saving → ∃ v : State, exec (.teamSave u) s = .next (v.writeImage u) ∧
    v.team u = { s.team u with phase := .saved, savedAt := s.clock } ∧ v.delayed = s.delayed.filter (fun a => a.team ≠ u) ∧ v.mem = s.mem ∧
    (∀ L : LaneId, L.team ≠ u → v.lane L = s.lane L)) ∧
  (∀ (s : State) u, Sys2Proof.Inv s →
    (∀ i (h : i < (s.saveImage u).length), (∀ p ∈ s.stackParts u, loc .save u 0 + i < p.1 ∨ p.1 + p.2.length ≤ loc .save u 0 + i) →
      (s.writeImage u).mem.get (loc .save u 0 + i) = some (s.saveImage u)[i]) ∧
    (∀ x, inTeamImage u x = false → (x < loc .save u 0 ∨ loc .save u 0 + (s.saveImage u).length ≤ x) →
      (∀ p ∈ s.stackParts u, x < p.1 ∨ p.1 + p.2.length ≤ x) → (s.writeImage u).mem.get x = s.mem.get x) ∧
    s.writeImage u = { s with mem := (s.writeImage u).mem }) ∧
  (∀ s u core f, s.working = true → (s.team u).phase = .saved → s.restoresAlone u = true → s.firstOf (clusterOf (s.team u).core) = .team u →
    s.fitIn (s.hdr u) [] (coresOf (clusterOf (s.team u).core)) = some (core, f) → ∃ t, exec (.teamRestore u) s = .next t ∧
      (t.team u).phase = .restoring false ∧ (t.team u).core = core ∧ (t.team u).slot = f.slot ∧ (t.team u).base = f.base ∧
      (t.team u).part0 = f.part0 ∧ (∀ g < (s.hdr u).groups, (t.group u g).part = (f.part0 + g) % 4) ∧
      (∀ a ∈ t.accs, a.team = u → a.core = core) ∧ t.delayed = s.delayed.filter (fun a => a.team ≠ u) ∧
      (∀ L : LaneId, L.team ≠ u → t.lane L = s.lane L) ∧
      ((∀ a ∈ s.delayed, a.team ≠ u) → t.lanes = s.lanes ∧ t.v = s.v ∧ t.s = s.s ∧ t.p = s.p ∧ t.d = s.d ∧ t.w = s.w ∧ t.marks = s.marks)) ∧
  (∀ (s : State) u, (s.hdr u).coRes = false → s.restoresAlone u = true) ∧
  (∀ s u jn l s', s.working = true → (s.team u).phase = .saved → s.restoresAlone u = false → s.coTop = some (jn, l) → (s.team u).jn = jn →
    s.reseatAll (s.hdr u) (s.savedOf jn) = some s' → exec (.teamRestore u) s = .next s') ∧
  (∀ s u again, s.working = true → (s.team u).phase = .restoring again → (∀ a ∈ s.delayed, a.team ≠ u) →
    (∀ L : LaneId, L.team = u → ∀ n, (s.lane L).wait ≠ .launch n) → ∃ t, exec (.teamRestore u) s = .next t ∧
      t.team u = { s.team u with phase := if again then .named else .resident, since := s.clock } ∧
      (∀ L : LaneId, L.team = u → t.lane L = { s.lane L with wait := (s.lane L).wait.advance (s.clock - (s.team u).savedAt) }) ∧
      (∀ L : LaneId, L.team ≠ u → t.lane L = s.lane L) ∧ t.v = s.v ∧ t.s = s.s ∧ t.p = s.p ∧ t.d = s.d ∧ t.w = s.w ∧ t.marks = s.marks ∧
      t.pend = s.pend ∧ (Sys2Proof.Inv s → ∀ x, inTeamImage u x = true → t.mem.get x = none) ∧ (t.core (s.team u).core).ptrs = [0, 0, 0, 0] ∧
      (t.core (s.team u).core).fifo = (s.core (s.team u).core).fifo ++ (s.runs.filter (fun r => r.team = u && r.kind.paired)).map (·.id)) ∧
  (∀ d x n a k p, Wait.advance d (.sleep x n) = .sleep (x + d) n ∧ Wait.advance d (.timed a k x p n) = .timed a k (x + d) p n ∧
    Wait.advance d (.barrier a k n) = .barrier a k n ∧ Wait.advance d (.te n) = .te n) ∧
  (∀ s u g, OnService s u g →
    ((s.group u g).svcSince = none → exec (.offCoreSave u g) s = .next (s.setGroup u g { s.group u g with svcSince := some s.clock })) ∧
    (∀ at0, (s.group u g).svcSince = some at0 → s.clock < at0 + 10000 → exec (.offCoreSave u g) s = .next s) ∧
    (∀ at0, Sys2Proof.Inv s → (s.group u g).svcSince = some at0 → at0 + 10000 ≤ s.clock → ∃ t, exec (.offCoreSave u g) s = .next t ∧
      t.group u g = { s.group u g with off := some s.clock, svcSince := none } ∧
      (∀ img, img = (s.setGroup u g { s.group u g with off := some s.clock, svcSince := none }).groupImage u g →
        ∀ i (h : i < img.length), t.mem.get (loc .save u (2 ^ 32 + 2 ^ 24 * g) + i) = some img[i]) ∧
      t = { s with groups := t.groups, mem := t.mem })) ∧
  (∀ (s : State) u g i, i ∈ s.liveLanes u g → s.waitsService ⟨u, g, i⟩ = false → s.due (.offCoreSave u g) = false ∧
    s.act (.happen (.offCoreSave u g)) = .next s) ∧
  (∀ (s : State) u g at0, (s.group u g).off = some at0 → (s.team u).phase = .resident →
    ((s.group u g).loading = false → s.admits1 (.offCoreRestore u g) = true →
      exec (.offCoreRestore u g) s = .next (s.setGroup u g { s.group u g with loading := true })) ∧
    ((s.group u g).loading = true → ∃ t, exec (.offCoreRestore u g) s = .next t ∧
      t.group u g = { s.group u g with off := none, loading := false, issued := s.clock } ∧
      (t.core (s.team u).core).ptrs = (s.core (s.team u).core).ptrs.set (s.group u g).part 0 ∧
      t.delayed = s.delayed.filter (fun a => a.team ≠ u || a.group ≠ g) ∧
      (∀ x, (x < loc .save u (2 ^ 32 + 2 ^ 24 * g) ∨ loc .save u (2 ^ 32 + 2 ^ 24 * g) + 2 ^ 24 ≤ x) → t.mem.get x = s.mem.get x) ∧
      ((∀ a ∈ s.delayed, a.team = u → a.group ≠ g) → t = { s with groups := t.groups, cores := t.cores, mem := t.mem }))) ∧
  (∀ (s : State) u g, (s.group u g).loading = false → (∀ i ∈ s.liveLanes u g, s.waitsService ⟨u, g, i⟩ = true) →
    s.due (.offCoreRestore u g) = false ∧ s.act (.happen (.offCoreRestore u g)) = .next s)

namespace Sys2Proof

/-- Memory holds bytes from a location on. -/
def BytesAt (s : State) (l : Nat) (bs : List Byte) : Prop := ∀ i (h : i < bs.length), s.mem.get (l + i) = some bs[i]

/-- Every byte outside a stretch is as it was. -/
def BytesOutside (s t : State) (l n : Nat) : Prop := ∀ x, (x < l ∨ l + n ≤ x) → t.mem.get x = s.mem.get x

/-- A run holds its core's pair, `n` steps into its lease, and may take its next step (R126, R128). -/
def Steps (s : State) (core : Nat) (r : Run) (n : Nat) : Prop :=
  Sys2Proof.Inv s ∧ s.holder core = some (r, n) ∧ (s.team r.team).core = core ∧ s.runGoes r = true ∧
    (r.kind.leased = true → n < (s.hdr r.team).lease) ∧ r.pos < r.total

/-- A step counted: the run goes on with the pair, one step further in its lease, or with its last step it is over, and frees
the pair (R115, R120, R126). -/
def Counted (t : State) (core : Nat) (r : Run) (n : Nat) : Prop :=
  (r.pos + 1 < r.total → (t.core core).hold = some (r.id, n + 1) ∧ (t.run r.id).map (·.pos) = some (r.pos + 1)) ∧
  (r.pos + 1 = r.total → (t.core core).hold = none ∧ t.run r.id = none)

/-- What a run's step may change; registers are not among it. -/
def RunOnly (s t : State) : Prop :=
  t = { s with mem := t.mem, stamps := t.stamps, fresh := t.fresh, runs := t.runs, tiles := t.tiles, cores := t.cores,
               lanes := t.lanes, maxTs := t.maxTs }

/-- The request of a line of key block `b` (R136). -/
def lineAsk (s : State) (r : Run) (b i : Nat) : Access :=
  { id := s.nextId + i, key := (s.team r.team).key, jn := (s.team r.team).jn, team := r.team, group := r.group, lanes := [],
    core := (s.team r.team).core, kind := 5, op := .attn r.id (b * linesOf r.f + i),
    va := (r.par.getD 2 0) + BitVec.ofNat 64 b * ((r.par.getD 1 0) &&& 0xFFFFFFFF) + BitVec.ofNat 64 (128 * i), size := 128,
    major := 16, fn := 3, ctl := 0, stage := .core, page := 0, locs := [], home := 0, port := 0, seq := 0, cause := 0,
    bytes := [], ts := s.runTs r, poison := false }

/-- The rows of attention after key block `b` (R134): from the query tile's bytes and the workspace's. -/
def rowsAfter (r : Run) (x z : Tile) (qb wb : List Byte) (b : Nat) : List AttnRow :=
  (List.range z.rows).map (fun i =>
    attnRow (r.f + 1) (bitOf (r.par.getD 0 0).toNat 16) (sext 32 (bits (r.par.getD 0 0).toNat 32 32))
      (bits (r.par.getD 3 0).toNat 0 32) (bits (r.par.getD 3 0).toNat 32 32) b i
      (denseLine x.fmt x.rows qb i) (r.block b) (rowOf wb r.causes r.ovf i))

/-- The workspace of rows (R135). -/
def workspace (rows : List AttnRow) : List Byte := rows.flatMap (fun w => w.num.flatMap slotBytes ++ slotBytes w.den)

/-- The 64 inputs of a row of a tile in its format (R131). -/
def inputsOf (fmt : Nat) (b : List Byte) : List Nat :=
  if fmt = 4 then words4 b else (List.range 64).map (fun k => leAt b (2 * k) 2 * 2 ^ 16)

end Sys2Proof

/-- R115, R120, R125 to R128: the escapement and the block products. PAIR_GRANT gives a free pair to the head of the FIFO, and clears an
attention run's sums; MATRIX_STEP of MMA, MLOOP or MLOOPS updates every accumulator of its tile once from the lines of its step
blocks, in one accUpdate each, and changes no other byte. -/
def Obligations.ProductStepsAct : Prop :=
  (∀ s core id rest, (s.core core).hold = none → (s.core core).fifo = id :: rest →
    (∀ r, s.run id = some r → r.kind ≠ .attn ∨ r.pos ≠ 0) →
    exec (.pairGrant core) s = .next (s.setCore core { s.core core with hold := some (id, 0), fifo := rest })) ∧
  (∀ s core id rest r z, Sys2Proof.Inv s → (s.core core).hold = none → (s.core core).fifo = id :: rest → s.run id = some r →
    r.kind = .attn → r.pos = 0 → s.tile r.team r.c = some z → ∃ t, exec (.pairGrant core) s = .next t ∧
      t.core core = { s.core core with hold := some (id, 0), fifo := rest } ∧
      t.run id = some { r with causes := List.replicate (64 * z.rows) 0, ovf := false } ∧
      t.tile r.team r.c = some { z with ovf := false } ∧
      BytesAt t (loc .acc r.team (z.off + 256 * z.rows)) (List.replicate (1040 * z.rows) 0) ∧
      BytesOutside s t (loc .acc r.team (z.off + 256 * z.rows)) (1040 * z.rows) ∧ RunOnly s t) ∧
  (∀ s core r n x y z ab bb cs, Steps s core r n → r.kind = .mma ∨ r.kind = .mloop ∨ r.kind = .mloops →
    s.tile r.team r.a = some x → s.tile r.team r.b = some y → s.tile r.team r.c = some z →
    ab.length = stepBytes x.fmt x.rows false → bb.length = stepBytes y.fmt y.rows (r.kind = .mloops) → cs.length = x.rows * y.rows →
    BytesAt s (loc .scratch r.team (blockOff x.off (advA (if r.kind = .mma then 0 else r.par.getD 1 0)) r.pos)) ab →
    BytesAt s (loc .scratch r.team (blockOff y.off (advB (if r.kind = .mma then 0 else r.par.getD 1 0)) r.pos)) bb →
    ((bitOf (r.par.getD 0 0).toNat 20 = true ∧ r.pos = 0) ∨
      ((∀ c ∈ cs, c < 2 ^ 32) ∧ BytesAt s (loc .acc r.team z.off) (bytes4 cs))) →
    ∃ t, exec (.matrixStep core) s = .next t ∧ Counted t core r n ∧
      BytesAt t (loc .acc r.team z.off) (bytes4 (productStep (bitOf (r.par.getD 0 0).toNat 20 && r.pos = 0)
        (bits (r.par.getD 0 0).toNat 16 3) ((List.range x.rows).map (denseLine x.fmt x.rows ab))
        ((List.range y.rows).map (if r.kind = .mloops then sparseLine y.fmt y.rows bb else denseLine y.fmt y.rows bb)) cs)) ∧
      BytesOutside s t (loc .acc r.team z.off) (4 * (x.rows * y.rows)) ∧ RunOnly s t) ∧
  (∀ zero h (rows cols : List Line) c i j (hi : i < rows.length) (hj : j < cols.length),
    (productStep zero h rows cols c).getD (i * cols.length + j) 0 =
      accUpdate (if zero then 0 else c.getD (i * cols.length + j) 0) rows[i] cols[j] h)

/-- R130 to R137: a step of HADQ or QNT transforms and quantises one K-block of every row: its packed elements and its scale stand in
the destination's block; ACCZ zeroes its tile, and ACCRD and ACCWR carry every value over, rounded to BF16 where the destination
holds BF16. They change no other byte. ATTN_BLOCK asks for the lines of a key block that was not asked for, or consumes an arrived one:
the workspace holds the sums of every row after it, and with the last block the outputs stand in the tile. -/
def Obligations.QuantiseAttentionAndAccumulatorRunsAct : Prop :=
  (∀ s core r n x z (ys : Nat → List Byte), Steps s core r n → r.kind = .hadq ∨ r.kind = .qnt →
    s.tile r.team r.a = some x → s.tile r.team r.c = some z → z.rows = x.rows → 64 * (r.pos + 1) ≤ x.cols →
    x.off + (if x.fmt = 4 then 4 else 2) * (x.cols * x.rows) ≤ z.off + r.pos * stepBytes z.fmt z.rows false ∨
      z.off + (r.pos + 1) * stepBytes z.fmt z.rows false ≤ x.off →
    (∀ i < x.rows, (ys i).length = (if x.fmt = 4 then 256 else 128) ∧
      BytesAt s (loc .scratch r.team (x.off + (if x.fmt = 4 then 4 else 2) * (x.cols * i + 64 * r.pos))) (ys i)) →
    ∃ t, exec (.matrixStep core) s = .next t ∧ Counted t core r n ∧
      (∀ i < x.rows,
        BytesAt t (loc .scratch r.team (z.off + r.pos * stepBytes z.fmt z.rows false + i * elemBytes z.fmt))
          (quantRow z.fmt (if r.kind = .qnt then 1 else 16 * 2 ^ r.f) (inputsOf x.fmt (ys i))).1 ∧
        BytesAt t (loc .scratch r.team (z.off + r.pos * stepBytes z.fmt z.rows false + z.rows * elemBytes z.fmt + 2 * i))
          (leBytes 2 (quantRow z.fmt (if r.kind = .qnt then 1 else 16 * 2 ^ r.f) (inputsOf x.fmt (ys i))).2)) ∧
      BytesOutside s t (loc .scratch r.team (z.off + r.pos * stepBytes z.fmt z.rows false)) (stepBytes z.fmt z.rows false) ∧
      RunOnly s t) ∧
  (∀ s id r z, Sys2Proof.Inv s → s.run id = some r → r.kind = .accz → s.runGoes r = true →
    (∀ x ∈ s.runs, x.team = r.team → x.kind.paired = false → id ≤ x.id) → s.tile r.team r.c = some z →
    ∃ t, exec (.accRun id) s = .next t ∧ t.run id = none ∧
      BytesAt t (loc .acc r.team z.off) (List.replicate z.bytes 0) ∧ BytesOutside s t (loc .acc r.team z.off) z.bytes ∧ RunOnly s t) ∧
  (∀ s id r x z b, Sys2Proof.Inv s → s.run id = some r → r.kind = .accrd ∨ r.kind = .accwr → s.runGoes r = true →
    (∀ x ∈ s.runs, x.team = r.team → x.kind.paired = false → id ≤ x.id) → s.tile r.team r.c = some z →
    s.tile r.team r.a = some x → b.length = 4 * x.rows * x.cols →
    BytesAt s (loc (if x.acc then .acc else .scratch) r.team x.off) b →
    ∃ t, exec (.accRun id) s = .next t ∧ t.run id = none ∧
      (z.fmt ≠ 5 → BytesAt t (loc (if z.acc then .acc else .scratch) r.team z.off) b) ∧
      (z.fmt = 5 → BytesAt t (loc (if z.acc then .acc else .scratch) r.team z.off)
        ((words4 b).flatMap (fun y => leBytes 2 (convert .f32 .b16 .rne false false y)))) ∧
      BytesOutside s t (loc (if z.acc then .acc else .scratch) r.team z.off) (if z.fmt = 5 then 2 * (x.rows * x.cols) else b.length) ∧
      RunOnly s t) ∧
  (∀ s id r n b, s.run id = some r → s.holder (s.team r.team).core = some (r, n) → r.kind = .attn → s.runGoes r = true →
    n < (s.hdr r.team).lease → r.arrived = none →
    (List.range r.total).find? (fun b => !(r.eaten.contains b) && !(r.asked.contains b)) = some b →
    ∃ t, exec (.attnBlock id) s = .next t ∧ t.accs = s.accs ++ (List.range (linesOf r.f)).map (lineAsk s r b) ∧
      t.run id = some { r with asked := r.asked ++ [b] } ∧ t = { s with accs := t.accs, nextId := t.nextId, runs := t.runs }) ∧
  (∀ s r n x y z b qb wb, Steps s (s.team r.team).core r n → r.kind = .attn → r.arrived = some b → s.run r.id = some r →
    s.tile r.team r.a = some x → s.tile r.team r.b = some y → s.tile r.team r.c = some z → r.pos + 1 < r.total →
    qb.length = stepBytes x.fmt x.rows false → BytesAt s (loc .scratch r.team x.off) qb →
    wb.length = 1040 * z.rows → BytesAt s (loc .acc r.team (z.off + 256 * z.rows)) wb →
    ∃ t, exec (.attnBlock r.id) s = .next t ∧ Counted t (s.team r.team).core r n ∧
      BytesAt t (loc .acc r.team (z.off + 256 * z.rows)) (workspace (rowsAfter r x z qb wb b)) ∧
      (∃ ts, t.run r.id = some { r with
        pos := r.pos + 1, causes := (rowsAfter r x z qb wb b).flatMap (·.causes), ovf := (rowsAfter r x z qb wb b).any (·.ovf),
        eaten := b :: r.eaten, lines := r.lines.filter (fun e => e.1 / linesOf r.f ≠ b), asked := r.asked.filter (· ≠ b), ts := ts }) ∧
      RunOnly s t) ∧
  (∀ s r n x y z b qb wb vb, Steps s (s.team r.team).core r n → r.kind = .attn → r.arrived = some b → s.run r.id = some r →
    s.tile r.team r.a = some x → s.tile r.team r.b = some y → s.tile r.team r.c = some z → r.pos + 1 = r.total →
    qb.length = stepBytes x.fmt x.rows false → BytesAt s (loc .scratch r.team x.off) qb →
    wb.length = 1040 * z.rows → BytesAt s (loc .acc r.team (z.off + 256 * z.rows)) wb →
    vb.length = 128 → BytesAt s (loc .scratch r.team y.off) vb → r.team < 2 ^ 40 → y.off + 128 ≤ 2 ^ 64 →
    ∃ t, exec (.attnBlock r.id) s = .next t ∧ Counted t (s.team r.team).core r n ∧
      (∀ i < z.rows, ∀ j < 64, BytesAt t (loc .acc r.team (z.off + 4 * (64 * i + j))) (leBytes 4
        (let w := (rowsAfter r x z qb wb b).getD i ⟨[], 0, [], false⟩
         attnOut (w.num.getD j 0) w.den (w.causes.getD j 0) (leAt vb (2 * j) 2)))) ∧
      (t.tile r.team r.c).map (·.ovf) = some ((rowsAfter r x z qb wb b).any (·.ovf)) ∧ RunOnly s t)

namespace Sys2Proof

/-- The access of the far side of chunk `i` (R222). -/
def chunkAsk (s : State) (c : Copy) (i : Nat) (h : Chunk) : Access :=
  { id := s.nextId, key := (s.team c.team).key, jn := (s.team c.team).jn, team := c.team, group := c.group, lanes := [],
    core := (s.team c.team).core, kind := 4, op := .chunk c.id i c.kind.outward, va := c.farAddr h, size := (c.inBounds h).2,
    major := 17, fn := (match c.kind with | .inn => 0 | .out => 1 | .tt => 2 | .gather => 3), ctl := 0, stage := .core, page := 0,
    locs := [], home := 0, port := 0, seq := 0, cause := 0, bytes := [], ts := c.ts, poison := false }

/-- The access of chunk `i` of a copy, if it is in flight. -/
def chunkOf (s : State) (id i : Nat) : Option Access :=
  s.accs.find? (fun a => match a.op with | .chunk x j _ => x = id && j = i | _ => false)

/-- The copy counts a landed chunk, and is over with its last: its tile is then READY, or with release EMPTY, once it has no
reader (R221); until then its progress is the bytes read out (R217). -/
def ChunkCounted (u : State) (id i : Nat) (c : Copy) (x : Tile) (h : Chunk) : Prop :=
  (c.landed.length + 1 ≠ (c.chunks x.off x.bytes).length →
    (u.copy id).map (fun y => (y.landed, y.done)) = some (i :: c.landed, c.done + h.n)) ∧
  (c.landed.length + 1 = (c.chunks x.off x.bytes).length → u.copy id = none ∧
    ((c.kind = .gather → c.idx ≠ c.tile) → (u.tile c.team c.tile).map (fun y => (y.state, y.progress)) = some
      (if c.rel = false then (.ready, 0) else if x.readers = 0 then (.empty, 0) else (x.state, c.done + h.n))))

/-- The one piece of a chunk's far side, in one line (R222): in memory, where the line can be had and carries no poison, or behind an aperture. The
image of its team is neither being written nor read back, and the port that its flits take has room (R313, R318, R364). -/
def FarPiece (s : State) (c : Copy) (a : Access) (l n : Nat) : Prop :=
  a.stage = .ready ∧ (s.team c.team).phase.moving = false ∧ s.chunkRoom c (some a) = true ∧ isMmio l = false ∧ l % 128 + n ≤ 128 ∧
    ((s.placeOf a = .mapped ∧ a.locs = [(l, n)] ∧ s.meetsPoison a (l, n) = false ∧ s.reachable a.core l n = true) ∨
      ∃ l0, s.placeOf a = .bytes l0 ∧ a.pieces.map (fun g => (l0 + g.1, g.2)) = [(l, n)])

/-- A chunk of a copy into a tile has landed with bytes `bs`; then its counts are placed on its barrier (R222). -/
def LandsIn (s : State) (id i : Nat) (c : Copy) (x : Tile) (h : Chunk) (bs : List Byte) : Prop :=
  ∃ u ts, BytesAt u (loc .scratch c.team (x.off + h.r)) bs ∧ BytesKept s u 0 (loc .scratch c.team (x.off + h.r)) h.n ∧
    ChunkCounted u id i c x h ∧ exec (.copyChunk id i) s =
      .next ((if c.count then u.countOn c (c.quad.getD 2 0) none h.n ts false else u).inImage c.team)

/-- What a check of a barrier wait reads (R257, R260): an object of its own or its cluster's scratchpad. -/
def BarrierSeen (s : State) (L : LaneId) (a : D64) (b : Barrier) : Prop :=
  s.mayCheck L = true ∧ (vspace a = .own ∨ vspace a = .cluster) ∧ a.toNat % 16 = 0 ∧
    ∃ l, s.place L.team (s.team L.team).key (s.team L.team).core a 16 = .bytes l ∧ 3 * 2 ^ 104 ≤ l ∧ l < 2 ^ 106 ∧
      b = Barrier.of (s.readSegs 0 [(l, 16)])

/-- A waiting lane goes on at the place that it waited to go to, and has observed the update; no other lane changes. -/
def Released (s t : State) (L : LaneId) (hdr : D64) (k prio : Nat) : Prop :=
  (∃ ts, (s.lane L).pts ≤ ts ∧ Moved t L { s.lane L with wait := .none, pts := ts } hdr k prio) ∧
    (∀ K, K ≠ L → t.lane K = s.lane K) ∧ t.mem = s.mem ∧ t.v = s.v ∧ t.s = s.s

end Sys2Proof

/-- R215, R218, R221 to R224: COPY_CHUNK sends a chunk's access, or lands zeros where none of it is in bounds; a gather reads its indices
first; a translated chunk of an inward copy lands the bytes of its home, zeros outside the extents; of an outward copy the tile's
bytes are stored to the chunk's place; then the counts are placed, and the image of a SAVED team has it (R318); while an image is written or read
back, no chunk lands. COPY_FAILURE ends a failed copy, with its tile READY or EMPTY and
marked failed. R60 to R64, R260, R262: a check of BWAIT or BWAITT ends the wait once the generation differs, with true in
BWAITT's predicate, and BWAITT's deadline ends it with false; else nothing changes. WATCHDOG_CHECK ends the context of an overdue
barrier. A faulty clause takes trap 2, and a word that is none trap 1. That a copy whose barrier is gone fails before its next chunk is written
(log entry 16), that a check which does not release leaves no timestamp (41), that a bad address of BWAIT is found at the first check (42), that the pieces of
a chunk are performed together (52), and one watchdog check in each unit (58), is the model's choice. -/
def Obligations.CopiesAndWaitsAct : Prop :=
  (∀ s id i c x h, s.copy id = some c → chunkOf s id i = none → i ∉ c.sent → s.copyGoes c = true → c.kind ≠ .gather ∨ c.index ≠ none →
    s.tile c.team c.tile = some x → (c.chunks x.off x.bytes)[i]? = some h → (c.inBounds h).2 ≠ 0 →
    exec (.copyChunk id i) s = .next { s with
      nextId := s.nextId + 1, accs := s.accs ++ [chunkAsk s c i h],
      copies := s.copies.map (fun y => if y.id = c.id then { c with sent := i :: c.sent } else y) }) ∧
  (∀ s id i c x y h ks, s.copy id = some c → chunkOf s id i = none → i ∉ c.sent → s.copyGoes c = true → c.kind = .gather →
    c.index = none → s.tile c.team c.tile = some x → s.tile c.team c.idx = some y → ks.length = c.desc.box.getD 1 1 →
    (∀ k ∈ ks, k < 2 ^ 32) → BytesAt s (loc .scratch c.team y.off) (bytes4 ks) →
    (Copy.chunks { c with index := some ks } x.off x.bytes)[i]? = some h → (Copy.inBounds { c with index := some ks } h).2 ≠ 0 →
    ∃ t ts, exec (.copyChunk id i) s = .next t ∧ t.copy id = some { c with index := some ks, ts := ts, sent := i :: c.sent } ∧
      t.accs = s.accs ++ [chunkAsk s { c with index := some ks, ts := ts } i h] ∧ t.mem = s.mem) ∧
  (∀ s id i c x h, Sys2Proof.Inv s → s.copy id = some c → chunkOf s id i = none → i ∉ c.sent → s.copyGoes c = true → c.kind = .inn →
    s.tile c.team c.tile = some x → (c.chunks x.off x.bytes)[i]? = some h → (c.inBounds h).2 = 0 → s.chunkRoom c none = true →
    s.barrierGone c (s.copyHome c) = false → LandsIn s id i c x h (List.replicate h.n 0)) ∧
  (∀ s id i c x h a l n bs, Sys2Proof.Inv s → s.copy id = some c → chunkOf s id i = some a → FarPiece s c a l n →
    (∀ p, (s.touch l a.core).hit a.core (s.drawOf a.key) l n p = none) → bs.length = n → s.readSegs (s.drawOf a.key) [(l, n)] = bs →
    c.kind.outward = false → s.tile c.team c.tile = some x → (c.chunks x.off x.bytes)[i]? = some h →
    (c.inBounds h).1 + n ≤ h.n → s.barrierGone c (chunkPort (some a)) = false →
    LandsIn s id i c x h (List.replicate (c.inBounds h).1 0 ++ bs ++ List.replicate (h.n - (c.inBounds h).1 - n) 0)) ∧
  (∀ s id i c x h a l n bs, Sys2Proof.Inv s → s.copy id = some c → chunkOf s id i = some a → FarPiece s c a l n →
    c.kind.outward = true → s.tile c.team c.tile = some x → (c.chunks x.off x.bytes)[i]? = some h →
    bs.length = h.n → BytesAt s (loc .scratch c.team (x.off + h.r)) bs → n = (c.inBounds h).2 → (c.inBounds h).1 + n ≤ h.n →
    s.barrierGone c (chunkPort (some a)) = false →
    ∃ u ts, (∀ j (_ : j < n), u.cell (l + j) = some (bs.getD ((c.inBounds h).1 + j) 0)) ∧ BytesKept s u (s.drawOf a.key) l n ∧
      ChunkCounted u id i c x h ∧
      exec (.copyChunk id i) s = .next ((if c.count then (u.countOn c (c.quad.getD 2 0) none h.n ts true).countOn c (c.quad.getD 3 0)
        (if a.home = 2 then some a.port else none) h.n ts false else u).inImage c.team)) ∧
  (∀ s id i c a l n, s.copy id = some c → chunkOf s id i = some a → FarPiece s c a l n → s.barrierGone c (chunkPort (some a)) = true →
    exec (.copyChunk id i) s = .next ((s.markFailed id).inImage c.team)) ∧
  (∀ s id i c a, s.copy id = some c → chunkOf s id i = some a → (s.team c.team).phase.moving = true →
    exec (.copyChunk id i) s = .next s) ∧
  (∀ s id c, s.copy id = some c → c.failed = true → s.chunkRoom c none = true → ∃ t, exec (.copyFailure id) s = .next t ∧ t.copy id = none ∧
    (∀ x, s.tile c.team c.tile = some x → (c.kind = .gather → c.idx ≠ c.tile) → t.tile c.team c.tile =
      some { x with state := if c.kind.outward then .ready else .empty, failed := true, progress := 0 })) ∧
  (∀ s L a k b hdr w prio, (s.lane L).wait = .barrier a k (.go hdr w prio) → BarrierSeen s L a b →
    (b.gen ≠ k % 16 → ∃ t, exec (.bwaitRelease L.team L.group L.lane) s = .next t ∧ Released s t L hdr w prio ∧ t.p = s.p) ∧
    (b.gen = k % 16 → exec (.bwaitRelease L.team L.group L.lane) s = .next s)) ∧
  (∀ s L a k till p b hdr w prio, (s.lane L).wait = .timed a k till p (.go hdr w prio) → BarrierSeen s L a b →
    (b.gen ≠ k % 16 → ∃ t, exec (.bwaitRelease L.team L.group L.lane) s = .next t ∧ Released s t L hdr w prio ∧
      Sys2Proof.Holds t L (.p p true)) ∧
    (b.gen = k % 16 → exec (.bwaitRelease L.team L.group L.lane) s = .next s) ∧
    (b.gen ≠ k % 16 → till ≤ s.clock → ∃ t, exec (.bwaittDeadline L.team L.group L.lane) s = .next t ∧ Released s t L hdr w prio ∧
      Sys2Proof.Holds t L (.p p true)) ∧
    (b.gen = k % 16 → till ≤ s.clock → ∃ t, exec (.bwaittDeadline L.team L.group L.lane) s = .next t ∧ Released s t L hdr w prio ∧
      Sys2Proof.Holds t L (.p p false)) ∧
    (s.clock < till → exec (.bwaittDeadline L.team L.group L.lane) s = .next s)) ∧
  (∀ s core, s.coreOn core = true → (s.core core).checked < s.clock / 1024 →
    ∃ t, exec (.watchdogCheck core) s = .next t ∧ (t.core core).checked = s.clock / 1024) ∧
  (∀ s core, s.coreOn core = true → (s.core core).checked < s.clock / 1024 → (∀ u ∈ s.teams, s.team u.1 = u.2) →
    (∀ u va, (s.team u).core = core → va ∈ s.watch.get [] u →
      Barrier.overdue (Barrier.of (s.readSegs 0 [(loc .scratch u (va.toNat % 2 ^ 48), 16)])) s.clock = false) →
    exec (.watchdogCheck core) s = .next (s.setCore core { s.core core with checked := s.clock / 1024 })) ∧
  (∀ s core u va, Sys2Proof.Inv s → s.coreOn core = true → (s.core core).checked < s.clock / 1024 → (s.team u).core = core →
    (s.teams.find u).isSome → (s.team u).phase ≠ .saved → (∀ b, (s.team u).phase ≠ .restoring b) → s.teamLive u = true → s.watch.get [] u = [va] →
    (∀ v ∈ s.teams, v.2.core = core → v.1 = u) → (∀ c, s.ctx (s.team u).key = some c → c.key = (s.team u).key) →
    Barrier.overdue (Barrier.of (s.readSegs 0 [(loc .scratch u (va.toNat % 2 ^ 48), 16)])) s.clock = true →
    ∃ t, exec (.watchdogCheck core) s = .next t ∧ t.ctx (s.team u).key = none) ∧
  (∀ s, CanTrap s → s.sel.lanes ≠ [] →
    (s.clauseAtFault s.sel.team (s.lane (s.sel.lane (s.sel.lanes.headD 0))) = none → ∃ t, exec .illegalInstruction s = .next t ∧
      (∀ l ∈ s.sel.lanes, t.lane (s.sel.lane l) = trapped s (s.sel.lane l) 1 (s.sel.word.zeroExtend 64)) ∧
      LanesKept s t ∧ t = { s with lanes := t.lanes }) ∧
    (∀ r i w, s.clauseAtFault s.sel.team (s.lane (s.sel.lane (s.sel.lanes.headD 0))) = some (r, i, w) → r ≠ 8 →
      ∃ t, exec .illegalInstruction s = .next t ∧
        (∀ l ∈ s.sel.lanes, t.lane (s.sel.lane l) =
          { trapped s (s.sel.lane l) 2 (clauseTval r i w) with tpc := tpcOf s.sel.hdr 0 }) ∧
        LanesKept s t ∧ t = { s with lanes := t.lanes })) ∧
  (∀ s i w, s.clauseAtFault s.sel.team (s.lane (s.sel.lane (s.sel.lanes.headD 0))) = some (8, i, w) →
    (∀ c, s.ctx (s.team s.sel.team).key = some c → c.key = (s.team s.sel.team).key) →
    ∃ t, exec .illegalInstruction s = .next t ∧ t.ctx (s.team s.sel.team).key = none)

namespace Sys2Proof

/-- Whether a slice serves a word's line now (R326, R358). -/
def ServedBy (s : State) (slice word : Nat) : Prop := s.sliceNow (sliceOf (128 * lineOf (4 * word) % 2 ^ 64)) = slice

/-- Whether a context owns a host line whose writes no home has. -/
def hostHeld (s : State) : List (Nat × Nat × D64 × Nat) := s.dirty.filter (fun e => inSpace .host (128 * e.1))

end Sys2Proof

/-- R305, R306, R324 to R328: parts fail. A failed core holds nothing more: a team all of whose live groups are off-core is saved, and every other that took room
there is gone, with a kind-19 record, to be run again or with its launch ended by CORE_LOST; a failed Comb row is retired and the context of its team ends;
another slice takes over a failed one's ranges, no word that it served keeps an older time, and a context with a dirty line in it ends; an uncorrectable error
poisons its line, and ends the contexts that depend on it through their tables, a save image, the ring or the spill area; a failed Preron core hands on what it had
taken. Which contexts depend on a line (log entry 57), that a wholly off-core team counts as saved and one that is RESTORING as lost (67), and which lines of a slice are clean and how far it had
issued (68), is the model's choice. -/
def Obligations.PartFailuresAct : Prop :=
  (∀ s core, s.coreOn core = true → ∃ t, exec (.coreFailure core) s = .next t ∧
    (t.core core).failed = true ∧ (t.core core).fifo = [] ∧ (t.core core).hold = none ∧ t.coreOn core = false ∧
    (∀ e ∈ t.icache, e.core ≠ core) ∧ (∀ e ∈ t.copies1, e.1.1 ≠ core) ∧ (∀ e ∈ t.deleg, e.2 ≠ core) ∧
    (∀ u x, t.teams.find u = some x → x.core = core → s.occupies u = true → x.phase = .saved ∧ s.allOff u = true)) ∧
  (∀ s core u x l, s.coreOn core = true → s.teamsOn core [] = [(u, x)] → s.team u = x → s.allOff u = false → s.launches.find x.jn = some l →
    l.state.over = false → ∃ t, exec (.coreFailure core) s = .next t ∧ t.teams.find u = none ∧
      (l.hdr.restart = true → (x.jn, x.lin) ∈ (t.cluster (clusterOf core)).tcbs ∧ t.launches.find x.jn = some l) ∧
      (l.hdr.restart = false → (∃ y, t.launches.find x.jn = some y ∧ (y.state = .written 4 ∨ y.state = .terminal 4)) ∧
        ∀ v z, t.teams.find v = some z → z.jn ≠ x.jn) ∧
      (∀ c, s.ctx x.key = some c → c.key = x.key → ∃ d, t.ctx x.key = some d ∧ d.logged + d.dropped = c.logged + c.dropped + 1)) ∧
  (∀ s core, s.coreOn core = false → exec (.coreFailure core) s = .next s) ∧
  (∀ (s : State) u, (s.teams.find u).isSome → (s.hdr u).restart = true → (s.loseTeam u).teams.find u = none ∧
    ((s.team u).jn, (s.team u).lin) ∈ ((s.loseTeam u).cluster (clusterOf (s.team u).core)).tcbs) ∧
  (∀ (s : State) u, (s.teams.find u).isSome → (s.hdr u).restart = false → (s.loseTeam u).teams.find u = none ∧
    ∀ l, (s.loseTeam u).launches.find (s.team u).jn = some l → l.state.over = true) ∧
  (∀ s core row u tm, s.teams.find? (fun e => e.2.core = core && s.occupies e.1 && e.2.base ≤ row && row < e.2.base + e.2.rows) =
      some (u, tm) → (∀ c, s.ctx tm.key = some c → c.key = tm.key) →
    ∃ t, exec (.combError core row) s = .next t ∧ (t.core core).retired = (s.core core).retired ++ [row] ∧ t.ctx tm.key = none) ∧
  (∀ s slice rts clean, s.sliceOn slice = true → ∃ t, exec (.sliceFailure slice rts clean) s = .next t ∧
    (∀ n < 2048, s.sliceNow n = slice → t.sliceNow n = s.sliceHeir slice) ∧
    (∀ n, s.sliceNow n ≠ slice → t.sliceNow n = s.sliceNow n) ∧
    ((∀ e ∈ s.ctxs, e.2.key = e.1) → ∀ e ∈ s.ctxs, 0 < s.lostLines slice e.1 clean → t.ctx e.1 = none)) ∧
  (∀ (s : State) n, s.sliceOn (n ^^^ 1) = true → s.sliceHeir n = n ^^^ 1) ∧
  (∀ s slice rts clean, s.sliceOn slice = true → (∀ e ∈ s.ctxs, s.lostLines slice e.1 clean = 0) →
    ∃ t, exec (.sliceFailure slice rts clean) s = .next t ∧
      t = { s with stamps := t.stamps, floors := t.floors, l2 := t.l2, proxy := t.proxy, absent := t.absent, board := t.board } ∧ (∀ e ∈ t.l2, e.1.1 ≠ slice) ∧
      (∀ k, ServedBy s slice k → copyable (4 * k) = true →
        inSpace .host (4 * k) = true ∨ (s.stamps.find k).isSome = true ∨ (s.page (frameOf (4 * k))).shared = true →
        rts ≤ (t.stampAt k).rts ∧ rts ≤ (t.stampAt k).wts ∧ (s.stampAt k).rts ≤ (t.stampAt k).rts) ∧
      (∀ k, ¬ ServedBy s slice k → t.stamps.get ⟨0, 0⟩ k = s.stamps.get ⟨0, 0⟩ k)) ∧
  (∀ s line, line < Config.firmwareBase / 128 → ∃ t, exec (.uncorrectableError line) s = .next t ∧ line ∈ t.poison ∧
    t.board = { s.board with uncorrected := bumpDie s.board.uncorrected (dieOfPa (128 * line)) } ∧
    t = { s with poison := t.poison, board := t.board }) ∧
  (∀ s line c, Config.firmwareBase ≤ 128 * line → 128 * line < Config.hbmBytes → (c.key, c) ∈ s.ctxs → s.ctxs = [(c.key, c)] →
    s.tableLine c line = true → ∃ t, exec (.uncorrectableError line) s = .next t ∧ t.ctx c.key = none) ∧
  (∀ s line u x, inSpace .save (128 * line) = true → 128 * line / 2 ^ 64 % 2 ^ 40 = u → s.teams.find u = some x →
    (∀ c, s.ctx x.key = some c → c.key = x.key) → ∃ t, exec (.uncorrectableError line) s = .next t ∧ t.ctx x.key = none) ∧
  (∀ s line key, inSpace .ring (128 * line) = true ∨ inSpace .spill (128 * line) = true → 128 * line / 2 ^ 64 % 2 ^ 40 = key →
    (∀ c, s.ctx key = some c → c.key = key) → ∃ t, exec (.uncorrectableError line) s = .next t ∧ t.ctx key = none) ∧
  (∀ s n, n ∈ s.preronsOn → ∃ t, exec (.preronFailure n) s = .next t ∧ n ∉ t.preronsOn ∧
    t.board.preronFailed = s.board.preronFailed ++ [n] ∧
    (∀ h, h = nextFrom t.preronsOn n 64 → (t.preron h).taken = (s.preron h).taken ++ n :: (s.preron n).taken) ∧
    (∀ jn l code, s.launches = [(jn, l)] → l.state = .terminal code → ∃ x, t.launches.find jn = some { l with state := x } ∧ Coded s l x code)) ∧
  (∀ s n, n ∉ s.preronsOn → exec (.preronFailure n) s = .next s)

/-- R309, R310, R327, R363, R364: links. A peer reset takes the port down, unbinds it, and leaves no access in flight through it: a
store is dropped, and a load alone in flight is answered as poison, with one record for the context; a retrained port starts with 8 lanes; every bad flit, and the
first one beyond a gap, is answered by a NAK that names the number which the receiver lacks; a NAK is answered by every flit from
the named one on, and a port that loses a lane goes on with 4 and sends again what was in flight. The host link goes down, retrains within 10 ms, or is lost: every
host window is closed, no core holds a copy of a host line, and every context that has host lines unwritten, or accesses that wait for the host's translation,
ends. Which accesses a peer reset cuts and that bindings go with it (log entry 70), what other reads of a cut port return (71), and one flit for each
piece of an access (84), is the model's choice. -/
def Obligations.LinkEventsAct : Prop :=
  (∀ s p, (s.port p).up = true → ∃ t, exec (.peerReset p) s = .next t ∧
    (∃ x : Port, t.port p = x ∧ x.up = false ∧ x.replay = [] ∧ x.resend = [] ∧ x.nak = none ∧ x.counted = []) ∧
    (∀ a ∈ t.accs, a.through p = false) ∧ (∀ e ∈ t.ctxs, ∀ b ∈ e.2.peers, b.1 ≠ p)) ∧
  (∀ s a, s.accs.filter (fun b => b.through a.port) = [a] → a.through a.port = true → (s.port a.port).up = true → s.copies = [] →
    (∀ c, s.ctx a.key = some c → c.key = a.key) → (∀ x y z, a.op ≠ .chunk x y z) → ∃ t, exec (.peerReset a.port) s = .next t ∧
      ((∃ d, a.op = .st d) → t.accs = s.accs.filter (fun b => b.id ≠ a.id) ∧ t.v = s.v ∧ t.marks = s.marks) ∧
      (∀ d g L, a.op = .ld d g → a.size = 4 → a.lanes = [L] → s.receives ⟨a.team, a.group, L⟩ = true → Here s a.team a.group →
        t.mark (t.rid ⟨a.team, a.group, L⟩ .v d) = ⟨true, true⟩ ∧ t.acc a.id = none) ∧
      (∀ c, s.ctx a.key = some c → ∃ d, t.ctx a.key = some d ∧ d.logged + d.dropped = c.logged + c.dropped + 1)) ∧
  (∀ s p, (s.port p).up = false → exec (.peerReset p) s = .next s) ∧
  (∀ s p, (s.port p).enabled = true → (s.port p).up = false → exec (.gidonPortRetrain p) s =
    .next (s.setPort p { Port.idle with enabled := true, up := true, lanes := 8 })) ∧
  (∀ s p n, (s.port p).up = true →
    n = (s.port p).recvSeq ∨ ((s.port p).nak = none ∧ (n + 4096 - (s.port p).recvSeq) % 4096 < 2048) → exec (.gidonFlitError p n) s = .next { s.setPort p { s.port p with nak := some (s.port p).recvSeq } with
      outbox := s.outbox ++ [.nak p (s.port p).recvSeq] }) ∧
  (∀ s p n, (s.port p).up = false ∨
      (n ≠ (s.port p).recvSeq ∧ ((s.port p).nak ≠ none ∨ 2048 ≤ (n + 4096 - (s.port p).recvSeq) % 4096)) →
    exec (.gidonFlitError p n) s = .next s) ∧
  (∀ s p (x : Flit) i, (s.port p).up = true → x.good = false → s.receive p x i = exec (.gidonFlitError p (s.port p).recvSeq) s) ∧
  (∀ s p n pre post, (s.port p).up = true → (s.port p).replay = pre ++ n :: post → n ∉ pre → ∃ t, exec (.gidonNak p n) s = .next t ∧
    t.port p = { s.port p with resend := n :: post } ∧
    t.outbox = s.outbox ++ (n :: post).map (fun k => .resent p k) ∧ t = { s with ports := t.ports, outbox := t.outbox }) ∧
  (∀ s p, (s.port p).up = true → ∃ t, exec (.gidonLaneFailure p) s = .next t ∧
    t.port p = { s.port p with lanes := 4, resend := (s.port p).replay } ∧
    t.outbox = s.outbox ++ (s.port p).replay.map (fun k => .resent p k) ∧ t = { s with ports := t.ports, outbox := t.outbox }) ∧
  (∀ s, s.board.link = .up → exec .hostLinkDown s = .next { s with board := { s.board with link := .down s.clock } }) ∧
  (∀ s at0 rate width, s.board.link = .down at0 → s.clock < at0 + 10000000 → rate = 128 ∨ rate = 64 ∨ rate = 32 →
    width = 16 ∨ width = 8 → exec (.hostLinkRetrain rate width) s =
      .next { s with board := { s.board with link := .up, degraded := rate ≠ 128 || width ≠ 16 } }) ∧
  (∀ s at0 rate width, s.board.link = .down at0 → at0 + 10000000 ≤ s.clock → exec (.hostLinkRetrain rate width) s = .next s) ∧
  (∀ s at0, s.board.link = .down at0 → s.clock < at0 + 10000000 → exec .hostLinkLost s = .next s) ∧
  (∀ s at0, s.board.link = .down at0 → at0 + 10000000 ≤ s.clock → (∀ e ∈ s.ctxs, e.2.key = e.1) → ∃ t, exec .hostLinkLost s = .next t ∧
    t.board.link = .lost ∧ (∀ e ∈ t.ctxs, e.2.wins = []) ∧ (∀ e ∈ t.copies1, inSpace .host (4 * e.1.2) = false) ∧
    (∀ e ∈ hostHeld s, t.ctx e.2.1 = none) ∧
    (∀ a ∈ s.accs, a.stage = .ats ∨ (a.stage = .ready ∧ ∃ g ∈ a.locs, inSpace .host g.1 = true) → t.ctx a.key = none))

namespace Sys2Proof

/-- The address that a MIGRATE request names, and the home that it asks for (R282). -/
def migrateVa (r : Req) : D64 := BitVec.ofNat 64 r.arg64
def migrateHome (r : Req) : Nat := (r.args.getD 2 0).toNat

/-- The tables after firmware's writes, as memory. -/
def tabled (s : State) (tables : List (Nat × D64)) : Memory := writeTables s.mem (tables.filter tableWrite)

/-- A page that can move (R197, R282): its request is the oldest without an answer, it lies in device memory or in the host's, in no window, and the
tables that firmware writes map it at the home asked for, with the same size, at the frame of firmware's choice and in no page of another
context. `x` and `y` are its old and its new leaf. -/
def Moves (s : State) (key : Nat) (c : Ctx) (r : Req) (target : Option Nat) (tables : List (Nat × D64)) (x y : Trans) : Prop :=
  Sys2Proof.Inv s ∧ s.ctx key = some c ∧ c.key = key ∧ c.nextReq 4 = some r ∧ migrateHome r ≤ 1 ∧ vspace (migrateVa r) = .ordinary ∧
    walk s.mem c.root (migrateVa r) = some x ∧ x.home ≤ 1 ∧ (migrateHome r = 1 → c.pasid ≠ none) ∧ target ≠ none ∧
    c.pinned (leafRange (some x) (migrateVa r)).1 (leafRange (some x) (migrateVa r)).2 = false ∧ s.winsMove c (tabled s tables) = false ∧
    walk (tabled s tables) c.root (migrateVa r) = some y ∧ y.home = migrateHome r ∧ y.size = x.size ∧
    s.othersMap key (tabled s tables) (c.runsIn (tabled s tables)) = false ∧
    (migrateHome r = 0 → some (spanOf c y (migrateVa r)).start = target ∧
      (spanOf c y (migrateVa r)).start + (spanOf c y (migrateVa r)).size ≤ Config.firmwareBase)

end Sys2Proof

/-- R284, R285, R364 to R368: the board. A hot or overdrawn module lowers its clock by 25 MHz, to 500 MHz at the least, and a cool one raises
it to the configured one; at 105 °C every context ends and the clocks stop; at 115 °C no launch, team, context or access is left, device memory is
gone, and the module has failed; a boot with a good image and configuration makes the module ready with no queue enabled, its registers, lane state,
tags and check bits cleared and a notice of the reset on each enabled port, and with a bad one leaves it in recovery. R197, R280 to R282: services. Requests are served in order. An
allocation is an aligned free run of the heap, or says why there is none; FREE takes a block off the heap; the host's words answer a call,
and all ones while its link is down; a page that cannot move is refused with 1, and one that moves carries its bytes, and its words stand at least at the greatest time that its old home has
given to a read. What answers a MIGRATE to a home
that the manual does not name (log entry 69), that HBM is lost with the power (71), to which rate the host link trains (109), that a waiting HOSTCALL holds back later requests (83), when the module is
throttled (86), and that each act of firmware is one event with its choices as arguments (90), is the model's choice. -/
def Obligations.BoardAndServiceEventsAct : Prop :=
  (∀ (s : State) power temp, s.board.state = .ready → s.board.cap < power ∨ 100 < temp →
    exec (.throttle power temp) s = .next { s with board := { s.board with
      power := power, temp := temp, throttled := true, mhz := if s.board.mhz ≤ 500 then s.board.mhz else max 500 (s.board.mhz - 25) } }) ∧
  (∀ (s : State) power temp, s.board.state = .ready → power ≤ s.board.cap → temp ≤ 100 →
    exec (.throttle power temp) s = .next { s with board := { s.board with
      power := power, temp := temp, mhz := min s.board.flash.mhz (s.board.mhz + 25),
      throttled := decide (min s.board.flash.mhz (s.board.mhz + 25) < s.board.flash.mhz) } }) ∧
  (∀ (s : State) die temp, 105 ≤ temp → s.board.powered = true → ∃ t : State, exec (.overTemperature die temp) s = .next t ∧
    t.board = { s.board with temp := max s.board.temp temp, clocksOff := true, state := .failed } ∧
    (∀ e ∈ s.ctxs, t.ctx e.1 = none) ∧ (∀ u g, t.mayIssue u g = false)) ∧
  (∀ (s : State) die temp, temp < 105 → exec (.overTemperature die temp) s = .next s) ∧
  (∀ (s : State) temp, 115 ≤ temp → ∃ t : State, exec (.powerRemoval temp) s = .next t ∧
    t.board = { s.board with temp := max s.board.temp temp, state := .failed, powered := false, clocksOff := true, diesOn := [] } ∧
    t.launches = [] ∧ t.teams = [] ∧ t.ctxs = [] ∧ t.accs = [] ∧ t.v = [] ∧ t.lanes = [] ∧ (∀ u g, t.mayIssue u g = false) ∧
    (∀ x, isHbm x = true → t.mem.get x = none) ∧ (∀ e ∈ s.ports, e.2.enabled = true → e.2.up = true → .resetNotice e.1 ∈ t.outbox)) ∧
  (∀ (s : State) temp, temp < 115 → exec (.powerRemoval temp) s = .next s) ∧
  (∀ s : State, s.board.state = .reset ∨ s.board.state = .recovery → s.board.imageOk = true → s.board.confOk = true →
    ∃ t : State, exec .boot s = .next t ∧ t.board.state = .ready ∧ t.board.link = .up ∧ t.board.mhz = s.board.flash.mhz ∧
      t.queues = [] ∧ t.tlb = [] ∧ t.ats = [] ∧ t.icache = [] ∧ t.copies1 = [] ∧ t.l2 = [] ∧
      t.v = [] ∧ t.s = [] ∧ t.p = [] ∧ t.d = [] ∧ t.w = [] ∧ t.marks = [] ∧ t.lanes = [] ∧ t.teams = [] ∧
      (∀ l ∈ t.poison, isHbm (128 * l) = false) ∧
      (∀ p < 12, (t.port p).up = !(s.board.flash.portsOff.contains p)) ∧
      (∀ p < 12, p ∉ s.board.flash.portsOff → .resetNotice p ∈ t.outbox) ∧
      t.board.fused = (if s.board.flash.image.raise then s.board.flash.image.version else s.board.fused) ∧
      (∀ x, inSpace .scratch x = true ∨ inSpace .acc x = true → t.mem.get x = none) ∧
      (∀ x, isHbm x = true ∨ inSpace .host x = true → t.mem.get x = s.mem.get x)) ∧
  (∀ s : State, s.board.state = .reset ∨ s.board.state = .recovery → s.board.imageOk = false ∨ s.board.confOk = false →
    exec .boot s = .next { s with board := { s.board with state := .recovery, link := .up, degraded := false } }) ∧
  (∀ (c : Ctx) pre r post code, c.reqs = pre ++ r :: post → (∀ x ∈ pre, x.reply ≠ none) → r.reply = none →
    c.nextReq code = if r.code = code then some r else none) ∧
  (∀ (s : State) key c r short, s.ctx key = some c → c.nextReq 1 = some r →
    r.arg64 = 0 ∨ (r.args.getD 2 0 ≠ 0 ∧ ((r.args.getD 2 0).toNat < 8 ∨ 21 < (r.args.getD 2 0).toNat)) →
    exec (.alloc key short) s = .next (s.answerReq c r 0 2)) ∧
  (∀ (s : State) key c r lg, s.ctx key = some c → c.nextReq 1 = some r → r.arg64 ≠ 0 → 8 ≤ lg → lg ≤ 21 →
    lg = (if r.args.getD 2 0 = 0 then 8 else (r.args.getD 2 0).toNat) →
    (c.freeBlock (roundUp r.arg64 256) (2 ^ lg) = none → ∀ short, exec (.alloc key short) s = .next (s.answerReq c r 0 1)) ∧
    (∀ a, c.freeBlock (roundUp r.arg64 256) (2 ^ lg) = some a → exec (.alloc key true) s = .next (s.answerReq c r 0 3) ∧
      exec (.alloc key false) s = .next (s.answerReq { c with heap := c.heap ++ [(a, roundUp r.arg64 256)] } r
        (BitVec.ofNat 32 a) (BitVec.ofNat 32 (a / 2 ^ 32))))) ∧
  (∀ (c : Ctx) n lg a, 8 ≤ lg → lg ≤ 21 → (∀ b ∈ c.heap, 2 ^ 40 ≤ b.1) → c.freeBlock n (2 ^ lg) = some a → 2 ^ 40 ≤ a ∧ a + n ≤ 2 ^ 40 + c.quota ∧ a % 2 ^ lg = 0 ∧
    (∀ b ∈ c.heap, a + n ≤ b.1 ∨ b.1 + b.2 ≤ a)) ∧
  (∀ (s : State) key c r, s.ctx key = some c → c.nextReq 2 = some r →
    ((∃ n, (r.arg64, n) ∈ c.heap) → exec (.free key) s = .next
      (s.answerReq { c with heap := c.heap.filter (fun b => b.1 ≠ r.arg64) } r 0 0)) ∧
    ((∀ b ∈ c.heap, b.1 ≠ r.arg64) → exec (.free key) s = .next (s.answerReq c r 1 0))) ∧
  (∀ (s : State) key c r r0 r1, s.ctx key = some c → c.nextReq 3 = some r →
    (s.board.link = .up → exec (.hostcall key r0 r1) s = .next
      (State.answerReq { s with outbox := s.outbox ++ [.hostCall key r.seq r.args] } c r r0 r1)) ∧
    (s.board.link ≠ .up → exec (.hostcall key r0 r1) s = .next (s.answerReq c r 0xFFFFFFFF 0xFFFFFFFF))) ∧
  (∀ (s : State) key c r target tables, s.ctx key = some c → c.nextReq 4 = some r → migrateHome r ≤ 1 →
    walk s.mem c.root (migrateVa r) = none ∨ target = none ∨ vspace (migrateVa r) ≠ .ordinary ∨ (migrateHome r = 1 ∧ c.pasid = none) ∨
      (∃ x, walk s.mem c.root (migrateVa r) = some x ∧ 1 < x.home) ∨
      (∃ x, walk s.mem c.root (migrateVa r) = some x ∧
        c.pinned (leafRange (some x) (migrateVa r)).1 (leafRange (some x) (migrateVa r)).2 = true) →
    exec (.migrate key target tables) s = .next (s.answerReq c r 1 0)) ∧
  (∀ (s : State) key c r target tables, s.ctx key = some c → c.nextReq 4 = some r → 1 < migrateHome r →
    ∃ w0 w1, exec (.migrate key target tables) s = .next (State.answerReq { s with fresh := s.fresh + 1 } c r w0 w1)) ∧
  (∀ (s : State) key c r target tables x y p q, Moves s key c r target tables x y → p = spanOf c x (migrateVa r) → q = spanOf c y (migrateVa r) →
    ∃ t : State, exec (.migrate key target tables) s = .next t ∧
      t.ctx key = some { c with
        reqs := c.reqs.map (fun z => if z.seq = r.seq then { z with reply := some (0, 0), ts := max z.ts s.maxTs } else z) } ∧
      (∀ l b, p.has l = true → isHbm l = true ∨ s.proxy.find (lineOf l) = none →
        isHbm q.start = true ∨ isHbm p.start = false ∨ s.lineKey.get 0 (lineOf l) = c.draw → (tabled s tables).get l = some b →
        t.cell (q.start + (l - p.start)) = some b) ∧
      (∀ l, p.has l = false → q.has l = false → inSpace .preron l = false → t.mem.get l = (tabled s tables).get l) ∧
      (p ≠ q → ∀ k, q.has (4 * k) = true → s.lastRts p ≤ (t.stampAt k).rts ∧ s.lastRts p ≤ (t.stampAt k).wts) ∧
      (∀ e ∈ t.tlb, e.1.2.1 = key → inRange (leafRange (some x) (migrateVa r)).1 (leafRange (some x) (migrateVa r)).2 e.1.2.2 = false)) ∧
  (∀ (s : State) (p : PageSpan) k x, s.stamps.find k = some x → p.has (4 * k) = true → x.rts ≤ s.lastRts p) ∧
  (∀ (s : State) c r w0 w1, (s.answerReq c r w0 w1).ctx c.key = some { c with
    reqs := c.reqs.map (fun x => if x.seq = r.seq then { x with reply := some (w0, w1), ts := max x.ts s.maxTs } else x) })

/-- R225, R266, R267, R274, R275, R284, R286, R297, R312, R321, R354, R366, R368 to R370: the management interface. A mailbox is written, and a write of 1 to
MBDB starts the command that it holds, or is answered with 1; while one is in service a second is ignored, but for ATTEST, which is served next; firmware answers
each with a status, over the command in the mailbox, and clears MBDB unless an ATTEST waits. CTXNEW makes a context with an empty log, CTXEND ends one, QCFG sets a queue, PAGEMAP grants a range or withdraws it with
every translation of it, HWIN and PEERBIND change the context's windows and bindings, CKPT names its teams that have a lane left and RESUME lets it go on,
the debugger's commands set and clear its halts, DBGLIST lists its pages into a host buffer, ATTEST reports, and FWLOAD takes an image in recovery, where every
other command is refused, as all are after the module has failed. These are the model's choice: a context's key as a free value (log entry 72), what QCFG
does to the indices (73), what a detaching debugger does (76), the status of ATTEST without a context (77), the arguments of commands (78), that recovery refuses
other commands (80), that an act of firmware is one event (90), that table writes which map another context's page are refused (102), the queue of commands (103), that
a halt names a whole team by group 255, with the other teams of a co-resident launch (104), and where a host buffer lies (105). -/
def Obligations.ManagementCommandsAct : Prop :=
  (∀ (s : State) st res, (s.board.later = [] →
      s.reply st res = { s with board := { (s.board.mailWrite 0 (leBytes 4 st ++ res)) with mbdb := false, now := none } }) ∧
    ∀ m rest, s.board.later = m :: rest → s.reply st res =
      { s with board := { (s.board.mailWrite 0 (leBytes 4 st ++ res)) with mbdb := true, now := some m, later := rest } }) ∧
  (∀ b : Board, (b.now = none → b.mailCode = mailCodeOf b.mailbox) ∧ ∀ m, b.now = some m → b.mailCode = mailCodeOf m) ∧
  (∀ (s : State) val, s.board.state ≠ .reset → s.board.link = .up → s.board.powered = true → 500 ≤ val.toNat → val.toNat ≤ 1800 →
    exec (.mgmtRegisterWrite 0x20 val) s = .next { s with board := { s.board with cap := val.toNat } }) ∧
  (∀ s : State, s.board.state ≠ .reset → s.board.link = .up → s.board.powered = true → s.board.mbdb = false →
    (1 ≤ s.board.mailCode → s.board.mailCode ≤ 15 → mailFits s.board.mailbox = true →
      exec (.mgmtRegisterWrite 0x100 1) s = .next { s with board := { s.board with mbdb := true, staged := [] } }) ∧
    (s.board.mailCode = 0 ∨ 15 < s.board.mailCode ∨ mailFits s.board.mailbox = false →
      exec (.mgmtRegisterWrite 0x100 1) s = .next (s.reply 1 []))) ∧
  (∀ s : State, s.board.state ≠ .reset → s.board.link = .up → s.board.powered = true → s.board.mbdb = true →
    (mailCodeOf s.board.staged = 14 → exec (.mgmtRegisterWrite 0x100 1) s =
      .next { s with board := { s.board with later := s.board.later ++ [s.board.staged], staged := [] } }) ∧
    (mailCodeOf s.board.staged ≠ 14 → exec (.mgmtRegisterWrite 0x100 1) s = .next s)) ∧
  (∀ (s : State) off val, s.board.state ≠ .reset → s.board.link = .up → s.board.powered = true → 0x2000 ≤ off → off < 0x3000 →
    (s.board.mbdb = false → exec (.mgmtRegisterWrite off val) s =
      .next { s with board := s.board.mailWrite (off - 0x2000) (leBytes 8 val.toNat) }) ∧
    (s.board.mbdb = true → exec (.mgmtRegisterWrite off val) s =
      .next { s with board := { s.board with staged := mailPut s.board.staged (off - 0x2000) (leBytes 8 val.toNat) } })) ∧
  (∀ (s : State) off val, s.board.powered = false → exec (.mgmtRegisterWrite off val) s = .next s) ∧
  (∀ (s : State) a, s.serving 1 = true → s.board.state = .ready → ctxArgsOk a = true → s.ctx a.key = none →
    s.othersMap a.key s.mem (mappedRuns s.mem a.root) = false → ∃ t : State, exec (.ctxnew a) s = .next (t.reply 0 (leBytes 4 a.key)) ∧ t.ctx a.key = some
      { key := a.key, draw := s.nextId + 1, hbmKey := Config.freeKey (s.nextId + 1), root := a.root, pasid := a.pasid, quota := a.quota,
        spill := a.spill, ring := a.ring, log := a.log, logCap := a.logCap, logged := 0, dropped := 0, wins := [], peers := [], heap := [],
        granted := [], reqs := [], nextSeq := 0, held := false, dbg := false } ∧ t.board = s.board ∧ (∀ k, k ≠ a.key → t.ctx k = s.ctx k)) ∧
  (∀ (s : State) a, s.serving 1 = true → s.board.state = .ready → ctxArgsOk a = false → exec (.ctxnew a) s = .next (s.reply 1 [])) ∧
  (∀ (s : State) a, s.serving 1 = true → s.board.state = .ready → ctxArgsOk a = true →
    (s.ctx a.key).isSome ∨ s.othersMap a.key s.mem (mappedRuns s.mem a.root) = true → exec (.ctxnew a) s = .next (s.reply 4 [])) ∧
  (∀ (s : State) key, s.serving 2 = true → s.board.state = .ready → s.ctx key = none → exec (.ctxend key) s = .next (s.reply 2 [])) ∧
  (∀ (s : State) key c, s.serving 2 = true → s.board.state = .ready → s.ctx key = some c →
    ∃ t : State, exec (.ctxend key) s = .next (t.reply 0 []) ∧ t = s.endContext key 3 ∧ t.ctx key = none ∧
      (∀ u, (s.team u).key = key → (t.teams.find u).isNone) ∧ (∀ a ∈ t.accs, a.key ≠ key) ∧
      (∀ q, (s.queues.get Queue.idle q).owner = key → t.queues.get Queue.idle q = Queue.idle)) ∧
  (∀ (s : State) q enable key base size c, s.serving 3 = true → s.board.state = .ready → s.ctx key = some c → q < 64 →
    base.toNat % 64 = 0 → vspace base = .ordinary → 4 ≤ size → size ≤ 16 →
    ∃ x : Queue, x = (if (s.queues.get Queue.idle q).owner = key then s.queues.get Queue.idle q else Queue.idle) ∧
      (x.backlog ≤ 2 ^ size → exec (.qcfg q enable key base size) s = .next (State.reply
        { s with queues := s.queues.set q { x with enable := enable, owner := key, base := base, size := size },
                 accs := s.accs.filter (fun a => !(a.op = .accept q && a.stage = .done)) } 0 [])) ∧
      (2 ^ size < x.backlog → exec (.qcfg q enable key base size) s = .next (s.reply 4 []))) ∧
  (∀ (s : State) key base len perm tables c, s.serving 4 = true → s.board.state = .ready → s.ctx key = some c → c.key = key →
    base.toNat % 4096 = 0 → len % 4096 = 0 → len ≠ 0 → base.toNat + len ≤ 2 ^ 56 →
    (s.othersMap key (tabled s tables) (c.runsIn (tabled s tables)) = false → s.winsMove c (tabled s tables) = false → ∃ t : State,
      exec (.pagemap key base len (some perm) tables) s = .next (t.reply 0 []) ∧
      t.ctx key = some { c with granted := c.granted ++ [(base, len, perm)] } ∧ t.mem = tabled s tables ∧ t.board = s.board) ∧
    (s.othersMap key (tabled s tables) (c.runsIn (tabled s tables)) = true ∨ s.winsMove c (tabled s tables) = true → ∀ g,
      exec (.pagemap key base len g tables) s = .next (s.reply 4 []))) ∧
  (∀ (s : State) key base len tables c, s.serving 4 = true → s.board.state = .ready → s.ctx key = some c → c.key = key →
    base.toNat % 4096 = 0 → len % 4096 = 0 → len ≠ 0 → base.toNat + len ≤ 2 ^ 56 →
    s.othersMap key (tabled s tables) (c.runsIn (tabled s tables)) = false → s.winsMove c (tabled s tables) = false →
    (c.pinned base len = false → s.usesRange key base len = false →
      ∃ t : State, exec (.pagemap key base len none tables) s = .next (t.reply 0 []) ∧
        t.ctx key = some { c with granted := c.granted.filter (fun g => !(inRange base len g.1)) } ∧
        (∀ e ∈ t.tlb, e.1.2.1 = key → inRange base len e.1.2.2 = false) ∧
        (∀ e ∈ t.ats, some e.1.1 = c.pasid → inRange base len e.1.2 = false) ∧ t.board = s.board ∧ t.accs = s.accs) ∧
    (c.pinned base len = false → s.usesRange key base len = true → exec (.pagemap key base len none tables) s = .next s) ∧
    (c.pinned base len = true → exec (.pagemap key base len none tables) s = .next (s.reply 4 []))) ∧
  (∀ (s : State) key base len c, s.serving 5 = true → s.board.state = .ready → s.ctx key = some c → base.toNat % 2097152 = 0 →
    len % 2097152 = 0 → len ≠ 0 → vspace base = .ordinary →
    (s.allMapped c base len = true → c.wins.length < 4 → s.board.link = .up →
      exec (.hwin key base len true) s = .next ((s.setCtx { c with wins := c.wins ++ [(base, len)] }).reply 0 [])) ∧
    (s.allMapped c base len = true → 4 ≤ c.wins.length → exec (.hwin key base len true) s = .next (s.reply 4 [])) ∧
    (s.allMapped c base len = false → exec (.hwin key base len true) s = .next (s.reply 1 [])) ∧
    ((base, len) ∈ c.wins →
      exec (.hwin key base len false) s = .next ((s.setCtx { c with wins := c.wins.filter (· ≠ (base, len)) }).reply 0 []))) ∧
  (∀ (s : State) key port device peerKey c, s.serving 6 = true → s.board.state = .ready → s.ctx key = some c → port < 12 → 1 ≤ peerKey →
    peerKey ≤ 255 →
    (c.peers.length < 16 → (s.port port).up = true → exec (.peerbind key port device peerKey) s =
      .next ((s.setCtx { c with peers := c.peers ++ [(port, device, peerKey)] }).reply 0 [])) ∧
    (16 ≤ c.peers.length → exec (.peerbind key port device peerKey) s = .next (s.reply 4 []))) ∧
  (∀ (s : State) key hold c, s.serving 7 = true → s.board.state = .ready → s.ctx key = some c → c.key = key →
    (c.held = false → ∃ t : State, exec (.ckpt key hold) s = .next (t.reply 0 []) ∧ t.ctx key = some { c with held := hold } ∧
      (∀ u x, s.teams.find u = some x → x.key = key → x.phase = .resident → s.teamLive u = true → (t.team u).phase = .named) ∧
      (∀ u x b, s.teams.find u = some x → x.key = key → x.phase = .restoring b → s.teamLive u = true → (t.team u).phase = .restoring true) ∧
      ((∀ e ∈ s.teams, s.team e.1 = e.2) → ∀ u, (s.team u).key ≠ key ∨ s.teamLive u = false → t.team u = s.team u) ∧
      t = { s with ctxs := t.ctxs, teams := t.teams }) ∧
    (c.held = true → exec (.ckpt key hold) s = .next (s.reply 0 []))) ∧
  (∀ (s : State) key c, s.serving 8 = true → s.board.state = .ready → s.ctx key = some c →
    exec (.resume key) s = .next ((s.setCtx { c with held := false }).reply 0 [])) ∧
  (∀ (s : State) key c, s.serving 9 = true → s.board.state = .ready → s.ctx key = some c →
    exec (.dbgatt key) s = .next ((s.setCtx { c with dbg := true }).reply 0 [])) ∧
  (∀ (s : State) key c, s.serving 10 = true → s.board.state = .ready → s.ctx key = some c → c.key = key →
    ∃ t : State, exec (.dbgdet key) s = .next (t.reply 0 []) ∧ t.ctx key = some { c with dbg := false } ∧
      (∀ u g x, (s.team u).key = key → s.groups.find (u, g) = some x → t.group u g = { x with dbg := false, brk := false }) ∧
      (∀ u g, (s.team u).key ≠ key → t.group u g = s.group u g) ∧ t = { s with ctxs := t.ctxs, groups := t.groups }) ∧
  (∀ (s : State) key team group c, s.ctx key = some c → c.dbg = true → (s.team team).key = c.key → (s.teams.find team).isSome →
    group < (s.hdr team).groups → group ≠ 255 → s.board.state = .ready →
    (s.serving 11 = true → ∃ t : State, exec (.dbghalt key team group) s = .next (t.reply 0 []) ∧
      t.group team group = { s.group team group with dbg := true } ∧ (∀ u g, (u, g) ≠ (team, group) → t.group u g = s.group u g) ∧
      (∀ r ∈ t.runs, r.kind = .attn → r.team = team → r.group = group → r.asked = [] ∧ r.lines = []) ∧
      t = { s with groups := t.groups, runs := t.runs }) ∧
    (s.serving 12 = true → exec (.dbgrun key team group) s = .next
      ((s.setGroup team group { s.group team group with dbg := false, brk := false }).reply 0 []))) ∧
  (∀ (s : State) key team c, s.ctx key = some c → c.dbg = true → (s.team team).key = c.key → (s.teams.find team).isSome →
    s.board.state = .ready → s.serving 11 = true → ∃ t : State, exec (.dbghalt key team 255) s = .next (t.reply 0 []) ∧
      Named s t (s.broughtBy team)) ∧
  (∀ (s : State) key team group c, s.ctx key = some c → c.dbg = false → s.board.state = .ready →
    (s.serving 11 = true → exec (.dbghalt key team group) s = .next (s.reply 4 [])) ∧
    (s.serving 12 = true → exec (.dbgrun key team group) s = .next (s.reply 4 []))) ∧
  (∀ (s : State) key cluster c, Sys2Proof.Inv s → s.serving 13 = true → s.board.state = .ready → s.ctx key = some c →
    ∃ t : State, exec (.dbglist key cluster) s = .next (t.reply 0 []) ∧
      (∀ i (h : i < (s.listing key cluster).length), t.mem.get (s.board.hostBuffer + i) = some (s.listing key cluster)[i]) ∧
      t.outbox = s.outbox ++ [.listing (s.listing key cluster)] ∧ t = { s with mem := t.mem, outbox := t.outbox }) ∧
  (∀ (s : State) key nonce, s.serving 14 = true → s.board.state = .ready → key = 0 ∨ (s.ctx key).isSome →
    exec (.attest key nonce) s = .next (State.reply
      { s with outbox := s.outbox ++ [.report (s.attestation key nonce (s.ctx key))] } 0 [])) ∧
  (∀ (s : State) key nonce, s.serving 14 = true → s.board.state = .ready → key ≠ 0 → s.ctx key = none →
    exec (.attest key nonce) s = .next (s.reply 4 [])) ∧
  (∀ (s : State) img, s.serving 15 = true → s.board.state = .recovery → exec (.fwload img) s = .next (State.reply
    { s with board := { s.board with flash := { s.board.flash with image := img } } } 0 [])) ∧
  (∀ (s : State) img, s.serving 15 = true → s.board.state = .ready → exec (.fwload img) s = .next (s.reply 4 [])) ∧
  (∀ (s : State) code f, s.serving code = true → s.board.state ≠ .ready → s.command code f = .next (s.reply 4 [])) ∧
  (∀ (s : State) code f, s.board.powered = false → s.command code f = .next s)
end

