-- ==== Sys2Proof/Laws/State.lean ====
section
/-! SUPPORT. What each update of the state does to each field: true by definition, so that no proof unfolds an update. -/

namespace Sys2Proof.Machine

/-! ### setLane -/

@[simp] theorem State.setLane_v (s : State) (L : LaneId) (x : Lane) : (s.setLane L x).v = s.v := rfl
@[simp] theorem State.setLane_s (s : State) (L : LaneId) (x : Lane) : (s.setLane L x).s = s.s := rfl
@[simp] theorem State.setLane_p (s : State) (L : LaneId) (x : Lane) : (s.setLane L x).p = s.p := rfl
@[simp] theorem State.setLane_d (s : State) (L : LaneId) (x : Lane) : (s.setLane L x).d = s.d := rfl
@[simp] theorem State.setLane_w (s : State) (L : LaneId) (x : Lane) : (s.setLane L x).w = s.w := rfl
@[simp] theorem State.setLane_marks (s : State) (L : LaneId) (x : Lane) : (s.setLane L x).marks = s.marks := rfl
@[simp] theorem State.setLane_rstamps (s : State) (L : LaneId) (x : Lane) : (s.setLane L x).rstamps = s.rstamps := rfl
@[simp] theorem State.setLane_sent (s : State) (L : LaneId) (x : Lane) : (s.setLane L x).sent = s.sent := rfl
@[simp] theorem State.setLane_lanes (s : State) (L : LaneId) (x : Lane) : (s.setLane L x).lanes = s.lanes.set L x := rfl
@[simp] theorem State.setLane_groups (s : State) (L : LaneId) (x : Lane) : (s.setLane L x).groups = s.groups := rfl
@[simp] theorem State.setLane_teams (s : State) (L : LaneId) (x : Lane) : (s.setLane L x).teams = s.teams := rfl
@[simp] theorem State.setLane_tiles (s : State) (L : LaneId) (x : Lane) : (s.setLane L x).tiles = s.tiles := rfl
@[simp] theorem State.setLane_tensors (s : State) (L : LaneId) (x : Lane) : (s.setLane L x).tensors = s.tensors := rfl
@[simp] theorem State.setLane_watch (s : State) (L : LaneId) (x : Lane) : (s.setLane L x).watch = s.watch := rfl
@[simp] theorem State.setLane_accs (s : State) (L : LaneId) (x : Lane) : (s.setLane L x).accs = s.accs := rfl
@[simp] theorem State.setLane_runs (s : State) (L : LaneId) (x : Lane) : (s.setLane L x).runs = s.runs := rfl
@[simp] theorem State.setLane_copies (s : State) (L : LaneId) (x : Lane) : (s.setLane L x).copies = s.copies := rfl
@[simp] theorem State.setLane_pend (s : State) (L : LaneId) (x : Lane) : (s.setLane L x).pend = s.pend := rfl
@[simp] theorem State.setLane_delayed (s : State) (L : LaneId) (x : Lane) : (s.setLane L x).delayed = s.delayed := rfl
@[simp] theorem State.setLane_mem (s : State) (L : LaneId) (x : Lane) : (s.setLane L x).mem = s.mem := rfl
@[simp] theorem State.setLane_lineKey (s : State) (L : LaneId) (x : Lane) : (s.setLane L x).lineKey = s.lineKey := rfl
@[simp] theorem State.setLane_poison (s : State) (L : LaneId) (x : Lane) : (s.setLane L x).poison = s.poison := rfl
@[simp] theorem State.setLane_stamps (s : State) (L : LaneId) (x : Lane) : (s.setLane L x).stamps = s.stamps := rfl
@[simp] theorem State.setLane_copies1 (s : State) (L : LaneId) (x : Lane) : (s.setLane L x).copies1 = s.copies1 := rfl
@[simp] theorem State.setLane_pages (s : State) (L : LaneId) (x : Lane) : (s.setLane L x).pages = s.pages := rfl
@[simp] theorem State.setLane_deleg (s : State) (L : LaneId) (x : Lane) : (s.setLane L x).deleg = s.deleg := rfl
@[simp] theorem State.setLane_dirty (s : State) (L : LaneId) (x : Lane) : (s.setLane L x).dirty = s.dirty := rfl
@[simp] theorem State.setLane_proxy (s : State) (L : LaneId) (x : Lane) : (s.setLane L x).proxy = s.proxy := rfl
@[simp] theorem State.setLane_absent (s : State) (L : LaneId) (x : Lane) : (s.setLane L x).absent = s.absent := rfl
@[simp] theorem State.setLane_l2 (s : State) (L : LaneId) (x : Lane) : (s.setLane L x).l2 = s.l2 := rfl
@[simp] theorem State.setLane_invals (s : State) (L : LaneId) (x : Lane) : (s.setLane L x).invals = s.invals := rfl
@[simp] theorem State.setLane_floors (s : State) (L : LaneId) (x : Lane) : (s.setLane L x).floors = s.floors := rfl
@[simp] theorem State.setLane_tlb (s : State) (L : LaneId) (x : Lane) : (s.setLane L x).tlb = s.tlb := rfl
@[simp] theorem State.setLane_ats (s : State) (L : LaneId) (x : Lane) : (s.setLane L x).ats = s.ats := rfl
@[simp] theorem State.setLane_pri (s : State) (L : LaneId) (x : Lane) : (s.setLane L x).pri = s.pri := rfl
@[simp] theorem State.setLane_icache (s : State) (L : LaneId) (x : Lane) : (s.setLane L x).icache = s.icache := rfl
@[simp] theorem State.setLane_queues (s : State) (L : LaneId) (x : Lane) : (s.setLane L x).queues = s.queues := rfl
@[simp] theorem State.setLane_levels (s : State) (L : LaneId) (x : Lane) : (s.setLane L x).levels = s.levels := rfl
@[simp] theorem State.setLane_launches (s : State) (L : LaneId) (x : Lane) : (s.setLane L x).launches = s.launches := rfl
@[simp] theorem State.setLane_clusters (s : State) (L : LaneId) (x : Lane) : (s.setLane L x).clusters = s.clusters := rfl
@[simp] theorem State.setLane_cores (s : State) (L : LaneId) (x : Lane) : (s.setLane L x).cores = s.cores := rfl
@[simp] theorem State.setLane_ctxs (s : State) (L : LaneId) (x : Lane) : (s.setLane L x).ctxs = s.ctxs := rfl
@[simp] theorem State.setLane_board (s : State) (L : LaneId) (x : Lane) : (s.setLane L x).board = s.board := rfl
@[simp] theorem State.setLane_ports (s : State) (L : LaneId) (x : Lane) : (s.setLane L x).ports = s.ports := rfl
@[simp] theorem State.setLane_clock (s : State) (L : LaneId) (x : Lane) : (s.setLane L x).clock = s.clock := rfl
@[simp] theorem State.setLane_ticks (s : State) (L : LaneId) (x : Lane) : (s.setLane L x).ticks = s.ticks := rfl
@[simp] theorem State.setLane_sel (s : State) (L : LaneId) (x : Lane) : (s.setLane L x).sel = s.sel := rfl
@[simp] theorem State.setLane_agenda (s : State) (L : LaneId) (x : Lane) : (s.setLane L x).agenda = s.agenda := rfl
@[simp] theorem State.setLane_turn (s : State) (L : LaneId) (x : Lane) : (s.setLane L x).turn = s.turn := rfl
@[simp] theorem State.setLane_fresh (s : State) (L : LaneId) (x : Lane) : (s.setLane L x).fresh = s.fresh := rfl
@[simp] theorem State.setLane_nextId (s : State) (L : LaneId) (x : Lane) : (s.setLane L x).nextId = s.nextId := rfl
@[simp] theorem State.setLane_maxTs (s : State) (L : LaneId) (x : Lane) : (s.setLane L x).maxTs = s.maxTs := rfl
@[simp] theorem State.setLane_outbox (s : State) (L : LaneId) (x : Lane) : (s.setLane L x).outbox = s.outbox := rfl

/-! ### setGroup -/

@[simp] theorem State.setGroup_v (s : State) (t g : Nat) (x : Group) : (s.setGroup t g x).v = s.v := rfl
@[simp] theorem State.setGroup_s (s : State) (t g : Nat) (x : Group) : (s.setGroup t g x).s = s.s := rfl
@[simp] theorem State.setGroup_p (s : State) (t g : Nat) (x : Group) : (s.setGroup t g x).p = s.p := rfl
@[simp] theorem State.setGroup_d (s : State) (t g : Nat) (x : Group) : (s.setGroup t g x).d = s.d := rfl
@[simp] theorem State.setGroup_w (s : State) (t g : Nat) (x : Group) : (s.setGroup t g x).w = s.w := rfl
@[simp] theorem State.setGroup_marks (s : State) (t g : Nat) (x : Group) : (s.setGroup t g x).marks = s.marks := rfl
@[simp] theorem State.setGroup_rstamps (s : State) (t g : Nat) (x : Group) : (s.setGroup t g x).rstamps = s.rstamps := rfl
@[simp] theorem State.setGroup_sent (s : State) (t g : Nat) (x : Group) : (s.setGroup t g x).sent = s.sent := rfl
@[simp] theorem State.setGroup_lanes (s : State) (t g : Nat) (x : Group) : (s.setGroup t g x).lanes = s.lanes := rfl
@[simp] theorem State.setGroup_groups (s : State) (t g : Nat) (x : Group) : (s.setGroup t g x).groups = s.groups.set (t, g) x := rfl
@[simp] theorem State.setGroup_teams (s : State) (t g : Nat) (x : Group) : (s.setGroup t g x).teams = s.teams := rfl
@[simp] theorem State.setGroup_tiles (s : State) (t g : Nat) (x : Group) : (s.setGroup t g x).tiles = s.tiles := rfl
@[simp] theorem State.setGroup_tensors (s : State) (t g : Nat) (x : Group) : (s.setGroup t g x).tensors = s.tensors := rfl
@[simp] theorem State.setGroup_watch (s : State) (t g : Nat) (x : Group) : (s.setGroup t g x).watch = s.watch := rfl
@[simp] theorem State.setGroup_accs (s : State) (t g : Nat) (x : Group) : (s.setGroup t g x).accs = s.accs := rfl
@[simp] theorem State.setGroup_runs (s : State) (t g : Nat) (x : Group) : (s.setGroup t g x).runs = s.runs := rfl
@[simp] theorem State.setGroup_copies (s : State) (t g : Nat) (x : Group) : (s.setGroup t g x).copies = s.copies := rfl
@[simp] theorem State.setGroup_pend (s : State) (t g : Nat) (x : Group) : (s.setGroup t g x).pend = s.pend := rfl
@[simp] theorem State.setGroup_delayed (s : State) (t g : Nat) (x : Group) : (s.setGroup t g x).delayed = s.delayed := rfl
@[simp] theorem State.setGroup_mem (s : State) (t g : Nat) (x : Group) : (s.setGroup t g x).mem = s.mem := rfl
@[simp] theorem State.setGroup_lineKey (s : State) (t g : Nat) (x : Group) : (s.setGroup t g x).lineKey = s.lineKey := rfl
@[simp] theorem State.setGroup_poison (s : State) (t g : Nat) (x : Group) : (s.setGroup t g x).poison = s.poison := rfl
@[simp] theorem State.setGroup_stamps (s : State) (t g : Nat) (x : Group) : (s.setGroup t g x).stamps = s.stamps := rfl
@[simp] theorem State.setGroup_copies1 (s : State) (t g : Nat) (x : Group) : (s.setGroup t g x).copies1 = s.copies1 := rfl
@[simp] theorem State.setGroup_pages (s : State) (t g : Nat) (x : Group) : (s.setGroup t g x).pages = s.pages := rfl
@[simp] theorem State.setGroup_deleg (s : State) (t g : Nat) (x : Group) : (s.setGroup t g x).deleg = s.deleg := rfl
@[simp] theorem State.setGroup_dirty (s : State) (t g : Nat) (x : Group) : (s.setGroup t g x).dirty = s.dirty := rfl
@[simp] theorem State.setGroup_proxy (s : State) (t g : Nat) (x : Group) : (s.setGroup t g x).proxy = s.proxy := rfl
@[simp] theorem State.setGroup_absent (s : State) (t g : Nat) (x : Group) : (s.setGroup t g x).absent = s.absent := rfl
@[simp] theorem State.setGroup_l2 (s : State) (t g : Nat) (x : Group) : (s.setGroup t g x).l2 = s.l2 := rfl
@[simp] theorem State.setGroup_invals (s : State) (t g : Nat) (x : Group) : (s.setGroup t g x).invals = s.invals := rfl
@[simp] theorem State.setGroup_floors (s : State) (t g : Nat) (x : Group) : (s.setGroup t g x).floors = s.floors := rfl
@[simp] theorem State.setGroup_tlb (s : State) (t g : Nat) (x : Group) : (s.setGroup t g x).tlb = s.tlb := rfl
@[simp] theorem State.setGroup_ats (s : State) (t g : Nat) (x : Group) : (s.setGroup t g x).ats = s.ats := rfl
@[simp] theorem State.setGroup_pri (s : State) (t g : Nat) (x : Group) : (s.setGroup t g x).pri = s.pri := rfl
@[simp] theorem State.setGroup_icache (s : State) (t g : Nat) (x : Group) : (s.setGroup t g x).icache = s.icache := rfl
@[simp] theorem State.setGroup_queues (s : State) (t g : Nat) (x : Group) : (s.setGroup t g x).queues = s.queues := rfl
@[simp] theorem State.setGroup_levels (s : State) (t g : Nat) (x : Group) : (s.setGroup t g x).levels = s.levels := rfl
@[simp] theorem State.setGroup_launches (s : State) (t g : Nat) (x : Group) : (s.setGroup t g x).launches = s.launches := rfl
@[simp] theorem State.setGroup_clusters (s : State) (t g : Nat) (x : Group) : (s.setGroup t g x).clusters = s.clusters := rfl
@[simp] theorem State.setGroup_cores (s : State) (t g : Nat) (x : Group) : (s.setGroup t g x).cores = s.cores := rfl
@[simp] theorem State.setGroup_ctxs (s : State) (t g : Nat) (x : Group) : (s.setGroup t g x).ctxs = s.ctxs := rfl
@[simp] theorem State.setGroup_board (s : State) (t g : Nat) (x : Group) : (s.setGroup t g x).board = s.board := rfl
@[simp] theorem State.setGroup_ports (s : State) (t g : Nat) (x : Group) : (s.setGroup t g x).ports = s.ports := rfl
@[simp] theorem State.setGroup_clock (s : State) (t g : Nat) (x : Group) : (s.setGroup t g x).clock = s.clock := rfl
@[simp] theorem State.setGroup_ticks (s : State) (t g : Nat) (x : Group) : (s.setGroup t g x).ticks = s.ticks := rfl
@[simp] theorem State.setGroup_sel (s : State) (t g : Nat) (x : Group) : (s.setGroup t g x).sel = s.sel := rfl
@[simp] theorem State.setGroup_agenda (s : State) (t g : Nat) (x : Group) : (s.setGroup t g x).agenda = s.agenda := rfl
@[simp] theorem State.setGroup_turn (s : State) (t g : Nat) (x : Group) : (s.setGroup t g x).turn = s.turn := rfl
@[simp] theorem State.setGroup_fresh (s : State) (t g : Nat) (x : Group) : (s.setGroup t g x).fresh = s.fresh := rfl
@[simp] theorem State.setGroup_nextId (s : State) (t g : Nat) (x : Group) : (s.setGroup t g x).nextId = s.nextId := rfl
@[simp] theorem State.setGroup_maxTs (s : State) (t g : Nat) (x : Group) : (s.setGroup t g x).maxTs = s.maxTs := rfl
@[simp] theorem State.setGroup_outbox (s : State) (t g : Nat) (x : Group) : (s.setGroup t g x).outbox = s.outbox := rfl

/-! ### setTeam -/

@[simp] theorem State.setTeam_v (s : State) (t : Nat) (x : Team) : (s.setTeam t x).v = s.v := rfl
@[simp] theorem State.setTeam_s (s : State) (t : Nat) (x : Team) : (s.setTeam t x).s = s.s := rfl
@[simp] theorem State.setTeam_p (s : State) (t : Nat) (x : Team) : (s.setTeam t x).p = s.p := rfl
@[simp] theorem State.setTeam_d (s : State) (t : Nat) (x : Team) : (s.setTeam t x).d = s.d := rfl
@[simp] theorem State.setTeam_w (s : State) (t : Nat) (x : Team) : (s.setTeam t x).w = s.w := rfl
@[simp] theorem State.setTeam_marks (s : State) (t : Nat) (x : Team) : (s.setTeam t x).marks = s.marks := rfl
@[simp] theorem State.setTeam_rstamps (s : State) (t : Nat) (x : Team) : (s.setTeam t x).rstamps = s.rstamps := rfl
@[simp] theorem State.setTeam_sent (s : State) (t : Nat) (x : Team) : (s.setTeam t x).sent = s.sent := rfl
@[simp] theorem State.setTeam_lanes (s : State) (t : Nat) (x : Team) : (s.setTeam t x).lanes = s.lanes := rfl
@[simp] theorem State.setTeam_groups (s : State) (t : Nat) (x : Team) : (s.setTeam t x).groups = s.groups := rfl
@[simp] theorem State.setTeam_teams (s : State) (t : Nat) (x : Team) : (s.setTeam t x).teams = s.teams.set t x := rfl
@[simp] theorem State.setTeam_tiles (s : State) (t : Nat) (x : Team) : (s.setTeam t x).tiles = s.tiles := rfl
@[simp] theorem State.setTeam_tensors (s : State) (t : Nat) (x : Team) : (s.setTeam t x).tensors = s.tensors := rfl
@[simp] theorem State.setTeam_watch (s : State) (t : Nat) (x : Team) : (s.setTeam t x).watch = s.watch := rfl
@[simp] theorem State.setTeam_accs (s : State) (t : Nat) (x : Team) : (s.setTeam t x).accs = s.accs := rfl
@[simp] theorem State.setTeam_runs (s : State) (t : Nat) (x : Team) : (s.setTeam t x).runs = s.runs := rfl
@[simp] theorem State.setTeam_copies (s : State) (t : Nat) (x : Team) : (s.setTeam t x).copies = s.copies := rfl
@[simp] theorem State.setTeam_pend (s : State) (t : Nat) (x : Team) : (s.setTeam t x).pend = s.pend := rfl
@[simp] theorem State.setTeam_delayed (s : State) (t : Nat) (x : Team) : (s.setTeam t x).delayed = s.delayed := rfl
@[simp] theorem State.setTeam_mem (s : State) (t : Nat) (x : Team) : (s.setTeam t x).mem = s.mem := rfl
@[simp] theorem State.setTeam_lineKey (s : State) (t : Nat) (x : Team) : (s.setTeam t x).lineKey = s.lineKey := rfl
@[simp] theorem State.setTeam_poison (s : State) (t : Nat) (x : Team) : (s.setTeam t x).poison = s.poison := rfl
@[simp] theorem State.setTeam_stamps (s : State) (t : Nat) (x : Team) : (s.setTeam t x).stamps = s.stamps := rfl
@[simp] theorem State.setTeam_copies1 (s : State) (t : Nat) (x : Team) : (s.setTeam t x).copies1 = s.copies1 := rfl
@[simp] theorem State.setTeam_pages (s : State) (t : Nat) (x : Team) : (s.setTeam t x).pages = s.pages := rfl
@[simp] theorem State.setTeam_deleg (s : State) (t : Nat) (x : Team) : (s.setTeam t x).deleg = s.deleg := rfl
@[simp] theorem State.setTeam_dirty (s : State) (t : Nat) (x : Team) : (s.setTeam t x).dirty = s.dirty := rfl
@[simp] theorem State.setTeam_proxy (s : State) (t : Nat) (x : Team) : (s.setTeam t x).proxy = s.proxy := rfl
@[simp] theorem State.setTeam_absent (s : State) (t : Nat) (x : Team) : (s.setTeam t x).absent = s.absent := rfl
@[simp] theorem State.setTeam_l2 (s : State) (t : Nat) (x : Team) : (s.setTeam t x).l2 = s.l2 := rfl
@[simp] theorem State.setTeam_invals (s : State) (t : Nat) (x : Team) : (s.setTeam t x).invals = s.invals := rfl
@[simp] theorem State.setTeam_floors (s : State) (t : Nat) (x : Team) : (s.setTeam t x).floors = s.floors := rfl
@[simp] theorem State.setTeam_tlb (s : State) (t : Nat) (x : Team) : (s.setTeam t x).tlb = s.tlb := rfl
@[simp] theorem State.setTeam_ats (s : State) (t : Nat) (x : Team) : (s.setTeam t x).ats = s.ats := rfl
@[simp] theorem State.setTeam_pri (s : State) (t : Nat) (x : Team) : (s.setTeam t x).pri = s.pri := rfl
@[simp] theorem State.setTeam_icache (s : State) (t : Nat) (x : Team) : (s.setTeam t x).icache = s.icache := rfl
@[simp] theorem State.setTeam_queues (s : State) (t : Nat) (x : Team) : (s.setTeam t x).queues = s.queues := rfl
@[simp] theorem State.setTeam_levels (s : State) (t : Nat) (x : Team) : (s.setTeam t x).levels = s.levels := rfl
@[simp] theorem State.setTeam_launches (s : State) (t : Nat) (x : Team) : (s.setTeam t x).launches = s.launches := rfl
@[simp] theorem State.setTeam_clusters (s : State) (t : Nat) (x : Team) : (s.setTeam t x).clusters = s.clusters := rfl
@[simp] theorem State.setTeam_cores (s : State) (t : Nat) (x : Team) : (s.setTeam t x).cores = s.cores := rfl
@[simp] theorem State.setTeam_ctxs (s : State) (t : Nat) (x : Team) : (s.setTeam t x).ctxs = s.ctxs := rfl
@[simp] theorem State.setTeam_board (s : State) (t : Nat) (x : Team) : (s.setTeam t x).board = s.board := rfl
@[simp] theorem State.setTeam_ports (s : State) (t : Nat) (x : Team) : (s.setTeam t x).ports = s.ports := rfl
@[simp] theorem State.setTeam_clock (s : State) (t : Nat) (x : Team) : (s.setTeam t x).clock = s.clock := rfl
@[simp] theorem State.setTeam_ticks (s : State) (t : Nat) (x : Team) : (s.setTeam t x).ticks = s.ticks := rfl
@[simp] theorem State.setTeam_sel (s : State) (t : Nat) (x : Team) : (s.setTeam t x).sel = s.sel := rfl
@[simp] theorem State.setTeam_agenda (s : State) (t : Nat) (x : Team) : (s.setTeam t x).agenda = s.agenda := rfl
@[simp] theorem State.setTeam_turn (s : State) (t : Nat) (x : Team) : (s.setTeam t x).turn = s.turn := rfl
@[simp] theorem State.setTeam_fresh (s : State) (t : Nat) (x : Team) : (s.setTeam t x).fresh = s.fresh := rfl
@[simp] theorem State.setTeam_nextId (s : State) (t : Nat) (x : Team) : (s.setTeam t x).nextId = s.nextId := rfl
@[simp] theorem State.setTeam_maxTs (s : State) (t : Nat) (x : Team) : (s.setTeam t x).maxTs = s.maxTs := rfl
@[simp] theorem State.setTeam_outbox (s : State) (t : Nat) (x : Team) : (s.setTeam t x).outbox = s.outbox := rfl

/-! ### setMark -/

@[simp] theorem State.setMark_v (s : State) (r : RId) (x : Mark) : (s.setMark r x).v = s.v := rfl
@[simp] theorem State.setMark_s (s : State) (r : RId) (x : Mark) : (s.setMark r x).s = s.s := rfl
@[simp] theorem State.setMark_p (s : State) (r : RId) (x : Mark) : (s.setMark r x).p = s.p := rfl
@[simp] theorem State.setMark_d (s : State) (r : RId) (x : Mark) : (s.setMark r x).d = s.d := rfl
@[simp] theorem State.setMark_w (s : State) (r : RId) (x : Mark) : (s.setMark r x).w = s.w := rfl
@[simp] theorem State.setMark_marks (s : State) (r : RId) (x : Mark) : (s.setMark r x).marks = s.marks.set r x := rfl
@[simp] theorem State.setMark_rstamps (s : State) (r : RId) (x : Mark) : (s.setMark r x).rstamps = s.rstamps := rfl
@[simp] theorem State.setMark_sent (s : State) (r : RId) (x : Mark) : (s.setMark r x).sent = s.sent := rfl
@[simp] theorem State.setMark_lanes (s : State) (r : RId) (x : Mark) : (s.setMark r x).lanes = s.lanes := rfl
@[simp] theorem State.setMark_groups (s : State) (r : RId) (x : Mark) : (s.setMark r x).groups = s.groups := rfl
@[simp] theorem State.setMark_teams (s : State) (r : RId) (x : Mark) : (s.setMark r x).teams = s.teams := rfl
@[simp] theorem State.setMark_tiles (s : State) (r : RId) (x : Mark) : (s.setMark r x).tiles = s.tiles := rfl
@[simp] theorem State.setMark_tensors (s : State) (r : RId) (x : Mark) : (s.setMark r x).tensors = s.tensors := rfl
@[simp] theorem State.setMark_watch (s : State) (r : RId) (x : Mark) : (s.setMark r x).watch = s.watch := rfl
@[simp] theorem State.setMark_accs (s : State) (r : RId) (x : Mark) : (s.setMark r x).accs = s.accs := rfl
@[simp] theorem State.setMark_runs (s : State) (r : RId) (x : Mark) : (s.setMark r x).runs = s.runs := rfl
@[simp] theorem State.setMark_copies (s : State) (r : RId) (x : Mark) : (s.setMark r x).copies = s.copies := rfl
@[simp] theorem State.setMark_pend (s : State) (r : RId) (x : Mark) : (s.setMark r x).pend = s.pend := rfl
@[simp] theorem State.setMark_delayed (s : State) (r : RId) (x : Mark) : (s.setMark r x).delayed = s.delayed := rfl
@[simp] theorem State.setMark_mem (s : State) (r : RId) (x : Mark) : (s.setMark r x).mem = s.mem := rfl
@[simp] theorem State.setMark_lineKey (s : State) (r : RId) (x : Mark) : (s.setMark r x).lineKey = s.lineKey := rfl
@[simp] theorem State.setMark_poison (s : State) (r : RId) (x : Mark) : (s.setMark r x).poison = s.poison := rfl
@[simp] theorem State.setMark_stamps (s : State) (r : RId) (x : Mark) : (s.setMark r x).stamps = s.stamps := rfl
@[simp] theorem State.setMark_copies1 (s : State) (r : RId) (x : Mark) : (s.setMark r x).copies1 = s.copies1 := rfl
@[simp] theorem State.setMark_pages (s : State) (r : RId) (x : Mark) : (s.setMark r x).pages = s.pages := rfl
@[simp] theorem State.setMark_deleg (s : State) (r : RId) (x : Mark) : (s.setMark r x).deleg = s.deleg := rfl
@[simp] theorem State.setMark_dirty (s : State) (r : RId) (x : Mark) : (s.setMark r x).dirty = s.dirty := rfl
@[simp] theorem State.setMark_proxy (s : State) (r : RId) (x : Mark) : (s.setMark r x).proxy = s.proxy := rfl
@[simp] theorem State.setMark_absent (s : State) (r : RId) (x : Mark) : (s.setMark r x).absent = s.absent := rfl
@[simp] theorem State.setMark_l2 (s : State) (r : RId) (x : Mark) : (s.setMark r x).l2 = s.l2 := rfl
@[simp] theorem State.setMark_invals (s : State) (r : RId) (x : Mark) : (s.setMark r x).invals = s.invals := rfl
@[simp] theorem State.setMark_floors (s : State) (r : RId) (x : Mark) : (s.setMark r x).floors = s.floors := rfl
@[simp] theorem State.setMark_tlb (s : State) (r : RId) (x : Mark) : (s.setMark r x).tlb = s.tlb := rfl
@[simp] theorem State.setMark_ats (s : State) (r : RId) (x : Mark) : (s.setMark r x).ats = s.ats := rfl
@[simp] theorem State.setMark_pri (s : State) (r : RId) (x : Mark) : (s.setMark r x).pri = s.pri := rfl
@[simp] theorem State.setMark_icache (s : State) (r : RId) (x : Mark) : (s.setMark r x).icache = s.icache := rfl
@[simp] theorem State.setMark_queues (s : State) (r : RId) (x : Mark) : (s.setMark r x).queues = s.queues := rfl
@[simp] theorem State.setMark_levels (s : State) (r : RId) (x : Mark) : (s.setMark r x).levels = s.levels := rfl
@[simp] theorem State.setMark_launches (s : State) (r : RId) (x : Mark) : (s.setMark r x).launches = s.launches := rfl
@[simp] theorem State.setMark_clusters (s : State) (r : RId) (x : Mark) : (s.setMark r x).clusters = s.clusters := rfl
@[simp] theorem State.setMark_cores (s : State) (r : RId) (x : Mark) : (s.setMark r x).cores = s.cores := rfl
@[simp] theorem State.setMark_ctxs (s : State) (r : RId) (x : Mark) : (s.setMark r x).ctxs = s.ctxs := rfl
@[simp] theorem State.setMark_board (s : State) (r : RId) (x : Mark) : (s.setMark r x).board = s.board := rfl
@[simp] theorem State.setMark_ports (s : State) (r : RId) (x : Mark) : (s.setMark r x).ports = s.ports := rfl
@[simp] theorem State.setMark_clock (s : State) (r : RId) (x : Mark) : (s.setMark r x).clock = s.clock := rfl
@[simp] theorem State.setMark_ticks (s : State) (r : RId) (x : Mark) : (s.setMark r x).ticks = s.ticks := rfl
@[simp] theorem State.setMark_sel (s : State) (r : RId) (x : Mark) : (s.setMark r x).sel = s.sel := rfl
@[simp] theorem State.setMark_agenda (s : State) (r : RId) (x : Mark) : (s.setMark r x).agenda = s.agenda := rfl
@[simp] theorem State.setMark_turn (s : State) (r : RId) (x : Mark) : (s.setMark r x).turn = s.turn := rfl
@[simp] theorem State.setMark_fresh (s : State) (r : RId) (x : Mark) : (s.setMark r x).fresh = s.fresh := rfl
@[simp] theorem State.setMark_nextId (s : State) (r : RId) (x : Mark) : (s.setMark r x).nextId = s.nextId := rfl
@[simp] theorem State.setMark_maxTs (s : State) (r : RId) (x : Mark) : (s.setMark r x).maxTs = s.maxTs := rfl
@[simp] theorem State.setMark_outbox (s : State) (r : RId) (x : Mark) : (s.setMark r x).outbox = s.outbox := rfl

/-! ### setCtx -/

@[simp] theorem State.setCtx_v (s : State) (c : Ctx) : (s.setCtx c).v = s.v := rfl
@[simp] theorem State.setCtx_s (s : State) (c : Ctx) : (s.setCtx c).s = s.s := rfl
@[simp] theorem State.setCtx_p (s : State) (c : Ctx) : (s.setCtx c).p = s.p := rfl
@[simp] theorem State.setCtx_d (s : State) (c : Ctx) : (s.setCtx c).d = s.d := rfl
@[simp] theorem State.setCtx_w (s : State) (c : Ctx) : (s.setCtx c).w = s.w := rfl
@[simp] theorem State.setCtx_marks (s : State) (c : Ctx) : (s.setCtx c).marks = s.marks := rfl
@[simp] theorem State.setCtx_rstamps (s : State) (c : Ctx) : (s.setCtx c).rstamps = s.rstamps := rfl
@[simp] theorem State.setCtx_sent (s : State) (c : Ctx) : (s.setCtx c).sent = s.sent := rfl
@[simp] theorem State.setCtx_lanes (s : State) (c : Ctx) : (s.setCtx c).lanes = s.lanes := rfl
@[simp] theorem State.setCtx_groups (s : State) (c : Ctx) : (s.setCtx c).groups = s.groups := rfl
@[simp] theorem State.setCtx_teams (s : State) (c : Ctx) : (s.setCtx c).teams = s.teams := rfl
@[simp] theorem State.setCtx_tiles (s : State) (c : Ctx) : (s.setCtx c).tiles = s.tiles := rfl
@[simp] theorem State.setCtx_tensors (s : State) (c : Ctx) : (s.setCtx c).tensors = s.tensors := rfl
@[simp] theorem State.setCtx_watch (s : State) (c : Ctx) : (s.setCtx c).watch = s.watch := rfl
@[simp] theorem State.setCtx_accs (s : State) (c : Ctx) : (s.setCtx c).accs = s.accs := rfl
@[simp] theorem State.setCtx_runs (s : State) (c : Ctx) : (s.setCtx c).runs = s.runs := rfl
@[simp] theorem State.setCtx_copies (s : State) (c : Ctx) : (s.setCtx c).copies = s.copies := rfl
@[simp] theorem State.setCtx_pend (s : State) (c : Ctx) : (s.setCtx c).pend = s.pend := rfl
@[simp] theorem State.setCtx_delayed (s : State) (c : Ctx) : (s.setCtx c).delayed = s.delayed := rfl
@[simp] theorem State.setCtx_mem (s : State) (c : Ctx) : (s.setCtx c).mem = s.mem := rfl
@[simp] theorem State.setCtx_lineKey (s : State) (c : Ctx) : (s.setCtx c).lineKey = s.lineKey := rfl
@[simp] theorem State.setCtx_poison (s : State) (c : Ctx) : (s.setCtx c).poison = s.poison := rfl
@[simp] theorem State.setCtx_stamps (s : State) (c : Ctx) : (s.setCtx c).stamps = s.stamps := rfl
@[simp] theorem State.setCtx_copies1 (s : State) (c : Ctx) : (s.setCtx c).copies1 = s.copies1 := rfl
@[simp] theorem State.setCtx_pages (s : State) (c : Ctx) : (s.setCtx c).pages = s.pages := rfl
@[simp] theorem State.setCtx_deleg (s : State) (c : Ctx) : (s.setCtx c).deleg = s.deleg := rfl
@[simp] theorem State.setCtx_dirty (s : State) (c : Ctx) : (s.setCtx c).dirty = s.dirty := rfl
@[simp] theorem State.setCtx_proxy (s : State) (c : Ctx) : (s.setCtx c).proxy = s.proxy := rfl
@[simp] theorem State.setCtx_absent (s : State) (c : Ctx) : (s.setCtx c).absent = s.absent := rfl
@[simp] theorem State.setCtx_l2 (s : State) (c : Ctx) : (s.setCtx c).l2 = s.l2 := rfl
@[simp] theorem State.setCtx_invals (s : State) (c : Ctx) : (s.setCtx c).invals = s.invals := rfl
@[simp] theorem State.setCtx_floors (s : State) (c : Ctx) : (s.setCtx c).floors = s.floors := rfl
@[simp] theorem State.setCtx_tlb (s : State) (c : Ctx) : (s.setCtx c).tlb = s.tlb := rfl
@[simp] theorem State.setCtx_ats (s : State) (c : Ctx) : (s.setCtx c).ats = s.ats := rfl
@[simp] theorem State.setCtx_pri (s : State) (c : Ctx) : (s.setCtx c).pri = s.pri := rfl
@[simp] theorem State.setCtx_icache (s : State) (c : Ctx) : (s.setCtx c).icache = s.icache := rfl
@[simp] theorem State.setCtx_queues (s : State) (c : Ctx) : (s.setCtx c).queues = s.queues := rfl
@[simp] theorem State.setCtx_levels (s : State) (c : Ctx) : (s.setCtx c).levels = s.levels := rfl
@[simp] theorem State.setCtx_launches (s : State) (c : Ctx) : (s.setCtx c).launches = s.launches := rfl
@[simp] theorem State.setCtx_clusters (s : State) (c : Ctx) : (s.setCtx c).clusters = s.clusters := rfl
@[simp] theorem State.setCtx_cores (s : State) (c : Ctx) : (s.setCtx c).cores = s.cores := rfl
@[simp] theorem State.setCtx_ctxs (s : State) (c : Ctx) : (s.setCtx c).ctxs = s.ctxs.set c.key c := rfl
@[simp] theorem State.setCtx_board (s : State) (c : Ctx) : (s.setCtx c).board = s.board := rfl
@[simp] theorem State.setCtx_ports (s : State) (c : Ctx) : (s.setCtx c).ports = s.ports := rfl
@[simp] theorem State.setCtx_clock (s : State) (c : Ctx) : (s.setCtx c).clock = s.clock := rfl
@[simp] theorem State.setCtx_ticks (s : State) (c : Ctx) : (s.setCtx c).ticks = s.ticks := rfl
@[simp] theorem State.setCtx_sel (s : State) (c : Ctx) : (s.setCtx c).sel = s.sel := rfl
@[simp] theorem State.setCtx_agenda (s : State) (c : Ctx) : (s.setCtx c).agenda = s.agenda := rfl
@[simp] theorem State.setCtx_turn (s : State) (c : Ctx) : (s.setCtx c).turn = s.turn := rfl
@[simp] theorem State.setCtx_fresh (s : State) (c : Ctx) : (s.setCtx c).fresh = s.fresh := rfl
@[simp] theorem State.setCtx_nextId (s : State) (c : Ctx) : (s.setCtx c).nextId = s.nextId := rfl
@[simp] theorem State.setCtx_maxTs (s : State) (c : Ctx) : (s.setCtx c).maxTs = s.maxTs := rfl
@[simp] theorem State.setCtx_outbox (s : State) (c : Ctx) : (s.setCtx c).outbox = s.outbox := rfl

/-! ### setCore -/

@[simp] theorem State.setCore_v (s : State) (c : Nat) (x : Core) : (s.setCore c x).v = s.v := rfl
@[simp] theorem State.setCore_s (s : State) (c : Nat) (x : Core) : (s.setCore c x).s = s.s := rfl
@[simp] theorem State.setCore_p (s : State) (c : Nat) (x : Core) : (s.setCore c x).p = s.p := rfl
@[simp] theorem State.setCore_d (s : State) (c : Nat) (x : Core) : (s.setCore c x).d = s.d := rfl
@[simp] theorem State.setCore_w (s : State) (c : Nat) (x : Core) : (s.setCore c x).w = s.w := rfl
@[simp] theorem State.setCore_marks (s : State) (c : Nat) (x : Core) : (s.setCore c x).marks = s.marks := rfl
@[simp] theorem State.setCore_rstamps (s : State) (c : Nat) (x : Core) : (s.setCore c x).rstamps = s.rstamps := rfl
@[simp] theorem State.setCore_sent (s : State) (c : Nat) (x : Core) : (s.setCore c x).sent = s.sent := rfl
@[simp] theorem State.setCore_lanes (s : State) (c : Nat) (x : Core) : (s.setCore c x).lanes = s.lanes := rfl
@[simp] theorem State.setCore_groups (s : State) (c : Nat) (x : Core) : (s.setCore c x).groups = s.groups := rfl
@[simp] theorem State.setCore_teams (s : State) (c : Nat) (x : Core) : (s.setCore c x).teams = s.teams := rfl
@[simp] theorem State.setCore_tiles (s : State) (c : Nat) (x : Core) : (s.setCore c x).tiles = s.tiles := rfl
@[simp] theorem State.setCore_tensors (s : State) (c : Nat) (x : Core) : (s.setCore c x).tensors = s.tensors := rfl
@[simp] theorem State.setCore_watch (s : State) (c : Nat) (x : Core) : (s.setCore c x).watch = s.watch := rfl
@[simp] theorem State.setCore_accs (s : State) (c : Nat) (x : Core) : (s.setCore c x).accs = s.accs := rfl
@[simp] theorem State.setCore_runs (s : State) (c : Nat) (x : Core) : (s.setCore c x).runs = s.runs := rfl
@[simp] theorem State.setCore_copies (s : State) (c : Nat) (x : Core) : (s.setCore c x).copies = s.copies := rfl
@[simp] theorem State.setCore_pend (s : State) (c : Nat) (x : Core) : (s.setCore c x).pend = s.pend := rfl
@[simp] theorem State.setCore_delayed (s : State) (c : Nat) (x : Core) : (s.setCore c x).delayed = s.delayed := rfl
@[simp] theorem State.setCore_mem (s : State) (c : Nat) (x : Core) : (s.setCore c x).mem = s.mem := rfl
@[simp] theorem State.setCore_lineKey (s : State) (c : Nat) (x : Core) : (s.setCore c x).lineKey = s.lineKey := rfl
@[simp] theorem State.setCore_poison (s : State) (c : Nat) (x : Core) : (s.setCore c x).poison = s.poison := rfl
@[simp] theorem State.setCore_stamps (s : State) (c : Nat) (x : Core) : (s.setCore c x).stamps = s.stamps := rfl
@[simp] theorem State.setCore_copies1 (s : State) (c : Nat) (x : Core) : (s.setCore c x).copies1 = s.copies1 := rfl
@[simp] theorem State.setCore_pages (s : State) (c : Nat) (x : Core) : (s.setCore c x).pages = s.pages := rfl
@[simp] theorem State.setCore_deleg (s : State) (c : Nat) (x : Core) : (s.setCore c x).deleg = s.deleg := rfl
@[simp] theorem State.setCore_dirty (s : State) (c : Nat) (x : Core) : (s.setCore c x).dirty = s.dirty := rfl
@[simp] theorem State.setCore_proxy (s : State) (c : Nat) (x : Core) : (s.setCore c x).proxy = s.proxy := rfl
@[simp] theorem State.setCore_absent (s : State) (c : Nat) (x : Core) : (s.setCore c x).absent = s.absent := rfl
@[simp] theorem State.setCore_l2 (s : State) (c : Nat) (x : Core) : (s.setCore c x).l2 = s.l2 := rfl
@[simp] theorem State.setCore_invals (s : State) (c : Nat) (x : Core) : (s.setCore c x).invals = s.invals := rfl
@[simp] theorem State.setCore_floors (s : State) (c : Nat) (x : Core) : (s.setCore c x).floors = s.floors := rfl
@[simp] theorem State.setCore_tlb (s : State) (c : Nat) (x : Core) : (s.setCore c x).tlb = s.tlb := rfl
@[simp] theorem State.setCore_ats (s : State) (c : Nat) (x : Core) : (s.setCore c x).ats = s.ats := rfl
@[simp] theorem State.setCore_pri (s : State) (c : Nat) (x : Core) : (s.setCore c x).pri = s.pri := rfl
@[simp] theorem State.setCore_icache (s : State) (c : Nat) (x : Core) : (s.setCore c x).icache = s.icache := rfl
@[simp] theorem State.setCore_queues (s : State) (c : Nat) (x : Core) : (s.setCore c x).queues = s.queues := rfl
@[simp] theorem State.setCore_levels (s : State) (c : Nat) (x : Core) : (s.setCore c x).levels = s.levels := rfl
@[simp] theorem State.setCore_launches (s : State) (c : Nat) (x : Core) : (s.setCore c x).launches = s.launches := rfl
@[simp] theorem State.setCore_clusters (s : State) (c : Nat) (x : Core) : (s.setCore c x).clusters = s.clusters := rfl
@[simp] theorem State.setCore_cores (s : State) (c : Nat) (x : Core) : (s.setCore c x).cores = s.cores.set c x := rfl
@[simp] theorem State.setCore_ctxs (s : State) (c : Nat) (x : Core) : (s.setCore c x).ctxs = s.ctxs := rfl
@[simp] theorem State.setCore_board (s : State) (c : Nat) (x : Core) : (s.setCore c x).board = s.board := rfl
@[simp] theorem State.setCore_ports (s : State) (c : Nat) (x : Core) : (s.setCore c x).ports = s.ports := rfl
@[simp] theorem State.setCore_clock (s : State) (c : Nat) (x : Core) : (s.setCore c x).clock = s.clock := rfl
@[simp] theorem State.setCore_ticks (s : State) (c : Nat) (x : Core) : (s.setCore c x).ticks = s.ticks := rfl
@[simp] theorem State.setCore_sel (s : State) (c : Nat) (x : Core) : (s.setCore c x).sel = s.sel := rfl
@[simp] theorem State.setCore_agenda (s : State) (c : Nat) (x : Core) : (s.setCore c x).agenda = s.agenda := rfl
@[simp] theorem State.setCore_turn (s : State) (c : Nat) (x : Core) : (s.setCore c x).turn = s.turn := rfl
@[simp] theorem State.setCore_fresh (s : State) (c : Nat) (x : Core) : (s.setCore c x).fresh = s.fresh := rfl
@[simp] theorem State.setCore_nextId (s : State) (c : Nat) (x : Core) : (s.setCore c x).nextId = s.nextId := rfl
@[simp] theorem State.setCore_maxTs (s : State) (c : Nat) (x : Core) : (s.setCore c x).maxTs = s.maxTs := rfl
@[simp] theorem State.setCore_outbox (s : State) (c : Nat) (x : Core) : (s.setCore c x).outbox = s.outbox := rfl

/-! ### setCluster -/

@[simp] theorem State.setCluster_v (s : State) (c : Nat) (x : Cluster) : (s.setCluster c x).v = s.v := rfl
@[simp] theorem State.setCluster_s (s : State) (c : Nat) (x : Cluster) : (s.setCluster c x).s = s.s := rfl
@[simp] theorem State.setCluster_p (s : State) (c : Nat) (x : Cluster) : (s.setCluster c x).p = s.p := rfl
@[simp] theorem State.setCluster_d (s : State) (c : Nat) (x : Cluster) : (s.setCluster c x).d = s.d := rfl
@[simp] theorem State.setCluster_w (s : State) (c : Nat) (x : Cluster) : (s.setCluster c x).w = s.w := rfl
@[simp] theorem State.setCluster_marks (s : State) (c : Nat) (x : Cluster) : (s.setCluster c x).marks = s.marks := rfl
@[simp] theorem State.setCluster_rstamps (s : State) (c : Nat) (x : Cluster) : (s.setCluster c x).rstamps = s.rstamps := rfl
@[simp] theorem State.setCluster_sent (s : State) (c : Nat) (x : Cluster) : (s.setCluster c x).sent = s.sent := rfl
@[simp] theorem State.setCluster_lanes (s : State) (c : Nat) (x : Cluster) : (s.setCluster c x).lanes = s.lanes := rfl
@[simp] theorem State.setCluster_groups (s : State) (c : Nat) (x : Cluster) : (s.setCluster c x).groups = s.groups := rfl
@[simp] theorem State.setCluster_teams (s : State) (c : Nat) (x : Cluster) : (s.setCluster c x).teams = s.teams := rfl
@[simp] theorem State.setCluster_tiles (s : State) (c : Nat) (x : Cluster) : (s.setCluster c x).tiles = s.tiles := rfl
@[simp] theorem State.setCluster_tensors (s : State) (c : Nat) (x : Cluster) : (s.setCluster c x).tensors = s.tensors := rfl
@[simp] theorem State.setCluster_watch (s : State) (c : Nat) (x : Cluster) : (s.setCluster c x).watch = s.watch := rfl
@[simp] theorem State.setCluster_accs (s : State) (c : Nat) (x : Cluster) : (s.setCluster c x).accs = s.accs := rfl
@[simp] theorem State.setCluster_runs (s : State) (c : Nat) (x : Cluster) : (s.setCluster c x).runs = s.runs := rfl
@[simp] theorem State.setCluster_copies (s : State) (c : Nat) (x : Cluster) : (s.setCluster c x).copies = s.copies := rfl
@[simp] theorem State.setCluster_pend (s : State) (c : Nat) (x : Cluster) : (s.setCluster c x).pend = s.pend := rfl
@[simp] theorem State.setCluster_delayed (s : State) (c : Nat) (x : Cluster) : (s.setCluster c x).delayed = s.delayed := rfl
@[simp] theorem State.setCluster_mem (s : State) (c : Nat) (x : Cluster) : (s.setCluster c x).mem = s.mem := rfl
@[simp] theorem State.setCluster_lineKey (s : State) (c : Nat) (x : Cluster) : (s.setCluster c x).lineKey = s.lineKey := rfl
@[simp] theorem State.setCluster_poison (s : State) (c : Nat) (x : Cluster) : (s.setCluster c x).poison = s.poison := rfl
@[simp] theorem State.setCluster_stamps (s : State) (c : Nat) (x : Cluster) : (s.setCluster c x).stamps = s.stamps := rfl
@[simp] theorem State.setCluster_copies1 (s : State) (c : Nat) (x : Cluster) : (s.setCluster c x).copies1 = s.copies1 := rfl
@[simp] theorem State.setCluster_pages (s : State) (c : Nat) (x : Cluster) : (s.setCluster c x).pages = s.pages := rfl
@[simp] theorem State.setCluster_deleg (s : State) (c : Nat) (x : Cluster) : (s.setCluster c x).deleg = s.deleg := rfl
@[simp] theorem State.setCluster_dirty (s : State) (c : Nat) (x : Cluster) : (s.setCluster c x).dirty = s.dirty := rfl
@[simp] theorem State.setCluster_proxy (s : State) (c : Nat) (x : Cluster) : (s.setCluster c x).proxy = s.proxy := rfl
@[simp] theorem State.setCluster_absent (s : State) (c : Nat) (x : Cluster) : (s.setCluster c x).absent = s.absent := rfl
@[simp] theorem State.setCluster_l2 (s : State) (c : Nat) (x : Cluster) : (s.setCluster c x).l2 = s.l2 := rfl
@[simp] theorem State.setCluster_invals (s : State) (c : Nat) (x : Cluster) : (s.setCluster c x).invals = s.invals := rfl
@[simp] theorem State.setCluster_floors (s : State) (c : Nat) (x : Cluster) : (s.setCluster c x).floors = s.floors := rfl
@[simp] theorem State.setCluster_tlb (s : State) (c : Nat) (x : Cluster) : (s.setCluster c x).tlb = s.tlb := rfl
@[simp] theorem State.setCluster_ats (s : State) (c : Nat) (x : Cluster) : (s.setCluster c x).ats = s.ats := rfl
@[simp] theorem State.setCluster_pri (s : State) (c : Nat) (x : Cluster) : (s.setCluster c x).pri = s.pri := rfl
@[simp] theorem State.setCluster_icache (s : State) (c : Nat) (x : Cluster) : (s.setCluster c x).icache = s.icache := rfl
@[simp] theorem State.setCluster_queues (s : State) (c : Nat) (x : Cluster) : (s.setCluster c x).queues = s.queues := rfl
@[simp] theorem State.setCluster_levels (s : State) (c : Nat) (x : Cluster) : (s.setCluster c x).levels = s.levels := rfl
@[simp] theorem State.setCluster_launches (s : State) (c : Nat) (x : Cluster) : (s.setCluster c x).launches = s.launches := rfl
@[simp] theorem State.setCluster_clusters (s : State) (c : Nat) (x : Cluster) : (s.setCluster c x).clusters = s.clusters.set c x := rfl
@[simp] theorem State.setCluster_cores (s : State) (c : Nat) (x : Cluster) : (s.setCluster c x).cores = s.cores := rfl
@[simp] theorem State.setCluster_ctxs (s : State) (c : Nat) (x : Cluster) : (s.setCluster c x).ctxs = s.ctxs := rfl
@[simp] theorem State.setCluster_board (s : State) (c : Nat) (x : Cluster) : (s.setCluster c x).board = s.board := rfl
@[simp] theorem State.setCluster_ports (s : State) (c : Nat) (x : Cluster) : (s.setCluster c x).ports = s.ports := rfl
@[simp] theorem State.setCluster_clock (s : State) (c : Nat) (x : Cluster) : (s.setCluster c x).clock = s.clock := rfl
@[simp] theorem State.setCluster_ticks (s : State) (c : Nat) (x : Cluster) : (s.setCluster c x).ticks = s.ticks := rfl
@[simp] theorem State.setCluster_sel (s : State) (c : Nat) (x : Cluster) : (s.setCluster c x).sel = s.sel := rfl
@[simp] theorem State.setCluster_agenda (s : State) (c : Nat) (x : Cluster) : (s.setCluster c x).agenda = s.agenda := rfl
@[simp] theorem State.setCluster_turn (s : State) (c : Nat) (x : Cluster) : (s.setCluster c x).turn = s.turn := rfl
@[simp] theorem State.setCluster_fresh (s : State) (c : Nat) (x : Cluster) : (s.setCluster c x).fresh = s.fresh := rfl
@[simp] theorem State.setCluster_nextId (s : State) (c : Nat) (x : Cluster) : (s.setCluster c x).nextId = s.nextId := rfl
@[simp] theorem State.setCluster_maxTs (s : State) (c : Nat) (x : Cluster) : (s.setCluster c x).maxTs = s.maxTs := rfl
@[simp] theorem State.setCluster_outbox (s : State) (c : Nat) (x : Cluster) : (s.setCluster c x).outbox = s.outbox := rfl

/-! ### setTile -/

@[simp] theorem State.setTile_v (s : State) (t n : Nat) (x : Tile) : (s.setTile t n x).v = s.v := rfl
@[simp] theorem State.setTile_s (s : State) (t n : Nat) (x : Tile) : (s.setTile t n x).s = s.s := rfl
@[simp] theorem State.setTile_p (s : State) (t n : Nat) (x : Tile) : (s.setTile t n x).p = s.p := rfl
@[simp] theorem State.setTile_d (s : State) (t n : Nat) (x : Tile) : (s.setTile t n x).d = s.d := rfl
@[simp] theorem State.setTile_w (s : State) (t n : Nat) (x : Tile) : (s.setTile t n x).w = s.w := rfl
@[simp] theorem State.setTile_marks (s : State) (t n : Nat) (x : Tile) : (s.setTile t n x).marks = s.marks := rfl
@[simp] theorem State.setTile_rstamps (s : State) (t n : Nat) (x : Tile) : (s.setTile t n x).rstamps = s.rstamps := rfl
@[simp] theorem State.setTile_sent (s : State) (t n : Nat) (x : Tile) : (s.setTile t n x).sent = s.sent := rfl
@[simp] theorem State.setTile_lanes (s : State) (t n : Nat) (x : Tile) : (s.setTile t n x).lanes = s.lanes := rfl
@[simp] theorem State.setTile_groups (s : State) (t n : Nat) (x : Tile) : (s.setTile t n x).groups = s.groups := rfl
@[simp] theorem State.setTile_teams (s : State) (t n : Nat) (x : Tile) : (s.setTile t n x).teams = s.teams := rfl
@[simp] theorem State.setTile_tiles (s : State) (t n : Nat) (x : Tile) : (s.setTile t n x).tiles = s.tiles.set (t, n) x := rfl
@[simp] theorem State.setTile_tensors (s : State) (t n : Nat) (x : Tile) : (s.setTile t n x).tensors = s.tensors := rfl
@[simp] theorem State.setTile_watch (s : State) (t n : Nat) (x : Tile) : (s.setTile t n x).watch = s.watch := rfl
@[simp] theorem State.setTile_accs (s : State) (t n : Nat) (x : Tile) : (s.setTile t n x).accs = s.accs := rfl
@[simp] theorem State.setTile_runs (s : State) (t n : Nat) (x : Tile) : (s.setTile t n x).runs = s.runs := rfl
@[simp] theorem State.setTile_copies (s : State) (t n : Nat) (x : Tile) : (s.setTile t n x).copies = s.copies := rfl
@[simp] theorem State.setTile_pend (s : State) (t n : Nat) (x : Tile) : (s.setTile t n x).pend = s.pend := rfl
@[simp] theorem State.setTile_delayed (s : State) (t n : Nat) (x : Tile) : (s.setTile t n x).delayed = s.delayed := rfl
@[simp] theorem State.setTile_mem (s : State) (t n : Nat) (x : Tile) : (s.setTile t n x).mem = s.mem := rfl
@[simp] theorem State.setTile_lineKey (s : State) (t n : Nat) (x : Tile) : (s.setTile t n x).lineKey = s.lineKey := rfl
@[simp] theorem State.setTile_poison (s : State) (t n : Nat) (x : Tile) : (s.setTile t n x).poison = s.poison := rfl
@[simp] theorem State.setTile_stamps (s : State) (t n : Nat) (x : Tile) : (s.setTile t n x).stamps = s.stamps := rfl
@[simp] theorem State.setTile_copies1 (s : State) (t n : Nat) (x : Tile) : (s.setTile t n x).copies1 = s.copies1 := rfl
@[simp] theorem State.setTile_pages (s : State) (t n : Nat) (x : Tile) : (s.setTile t n x).pages = s.pages := rfl
@[simp] theorem State.setTile_deleg (s : State) (t n : Nat) (x : Tile) : (s.setTile t n x).deleg = s.deleg := rfl
@[simp] theorem State.setTile_dirty (s : State) (t n : Nat) (x : Tile) : (s.setTile t n x).dirty = s.dirty := rfl
@[simp] theorem State.setTile_proxy (s : State) (t n : Nat) (x : Tile) : (s.setTile t n x).proxy = s.proxy := rfl
@[simp] theorem State.setTile_absent (s : State) (t n : Nat) (x : Tile) : (s.setTile t n x).absent = s.absent := rfl
@[simp] theorem State.setTile_l2 (s : State) (t n : Nat) (x : Tile) : (s.setTile t n x).l2 = s.l2 := rfl
@[simp] theorem State.setTile_invals (s : State) (t n : Nat) (x : Tile) : (s.setTile t n x).invals = s.invals := rfl
@[simp] theorem State.setTile_floors (s : State) (t n : Nat) (x : Tile) : (s.setTile t n x).floors = s.floors := rfl
@[simp] theorem State.setTile_tlb (s : State) (t n : Nat) (x : Tile) : (s.setTile t n x).tlb = s.tlb := rfl
@[simp] theorem State.setTile_ats (s : State) (t n : Nat) (x : Tile) : (s.setTile t n x).ats = s.ats := rfl
@[simp] theorem State.setTile_pri (s : State) (t n : Nat) (x : Tile) : (s.setTile t n x).pri = s.pri := rfl
@[simp] theorem State.setTile_icache (s : State) (t n : Nat) (x : Tile) : (s.setTile t n x).icache = s.icache := rfl
@[simp] theorem State.setTile_queues (s : State) (t n : Nat) (x : Tile) : (s.setTile t n x).queues = s.queues := rfl
@[simp] theorem State.setTile_levels (s : State) (t n : Nat) (x : Tile) : (s.setTile t n x).levels = s.levels := rfl
@[simp] theorem State.setTile_launches (s : State) (t n : Nat) (x : Tile) : (s.setTile t n x).launches = s.launches := rfl
@[simp] theorem State.setTile_clusters (s : State) (t n : Nat) (x : Tile) : (s.setTile t n x).clusters = s.clusters := rfl
@[simp] theorem State.setTile_cores (s : State) (t n : Nat) (x : Tile) : (s.setTile t n x).cores = s.cores := rfl
@[simp] theorem State.setTile_ctxs (s : State) (t n : Nat) (x : Tile) : (s.setTile t n x).ctxs = s.ctxs := rfl
@[simp] theorem State.setTile_board (s : State) (t n : Nat) (x : Tile) : (s.setTile t n x).board = s.board := rfl
@[simp] theorem State.setTile_ports (s : State) (t n : Nat) (x : Tile) : (s.setTile t n x).ports = s.ports := rfl
@[simp] theorem State.setTile_clock (s : State) (t n : Nat) (x : Tile) : (s.setTile t n x).clock = s.clock := rfl
@[simp] theorem State.setTile_ticks (s : State) (t n : Nat) (x : Tile) : (s.setTile t n x).ticks = s.ticks := rfl
@[simp] theorem State.setTile_sel (s : State) (t n : Nat) (x : Tile) : (s.setTile t n x).sel = s.sel := rfl
@[simp] theorem State.setTile_agenda (s : State) (t n : Nat) (x : Tile) : (s.setTile t n x).agenda = s.agenda := rfl
@[simp] theorem State.setTile_turn (s : State) (t n : Nat) (x : Tile) : (s.setTile t n x).turn = s.turn := rfl
@[simp] theorem State.setTile_fresh (s : State) (t n : Nat) (x : Tile) : (s.setTile t n x).fresh = s.fresh := rfl
@[simp] theorem State.setTile_nextId (s : State) (t n : Nat) (x : Tile) : (s.setTile t n x).nextId = s.nextId := rfl
@[simp] theorem State.setTile_maxTs (s : State) (t n : Nat) (x : Tile) : (s.setTile t n x).maxTs = s.maxTs := rfl
@[simp] theorem State.setTile_outbox (s : State) (t n : Nat) (x : Tile) : (s.setTile t n x).outbox = s.outbox := rfl

/-! ### setAcc -/

@[simp] theorem State.setAcc_v (s : State) (a : Access) : (s.setAcc a).v = s.v := rfl
@[simp] theorem State.setAcc_s (s : State) (a : Access) : (s.setAcc a).s = s.s := rfl
@[simp] theorem State.setAcc_p (s : State) (a : Access) : (s.setAcc a).p = s.p := rfl
@[simp] theorem State.setAcc_d (s : State) (a : Access) : (s.setAcc a).d = s.d := rfl
@[simp] theorem State.setAcc_w (s : State) (a : Access) : (s.setAcc a).w = s.w := rfl
@[simp] theorem State.setAcc_marks (s : State) (a : Access) : (s.setAcc a).marks = s.marks := rfl
@[simp] theorem State.setAcc_rstamps (s : State) (a : Access) : (s.setAcc a).rstamps = s.rstamps := rfl
@[simp] theorem State.setAcc_sent (s : State) (a : Access) : (s.setAcc a).sent = s.sent := rfl
@[simp] theorem State.setAcc_lanes (s : State) (a : Access) : (s.setAcc a).lanes = s.lanes := rfl
@[simp] theorem State.setAcc_groups (s : State) (a : Access) : (s.setAcc a).groups = s.groups := rfl
@[simp] theorem State.setAcc_teams (s : State) (a : Access) : (s.setAcc a).teams = s.teams := rfl
@[simp] theorem State.setAcc_tiles (s : State) (a : Access) : (s.setAcc a).tiles = s.tiles := rfl
@[simp] theorem State.setAcc_tensors (s : State) (a : Access) : (s.setAcc a).tensors = s.tensors := rfl
@[simp] theorem State.setAcc_watch (s : State) (a : Access) : (s.setAcc a).watch = s.watch := rfl
@[simp] theorem State.setAcc_accs (s : State) (a : Access) : (s.setAcc a).accs = s.accs.map (fun b => if b.id = a.id then a else b) := rfl
@[simp] theorem State.setAcc_runs (s : State) (a : Access) : (s.setAcc a).runs = s.runs := rfl
@[simp] theorem State.setAcc_copies (s : State) (a : Access) : (s.setAcc a).copies = s.copies := rfl
@[simp] theorem State.setAcc_pend (s : State) (a : Access) : (s.setAcc a).pend = s.pend := rfl
@[simp] theorem State.setAcc_delayed (s : State) (a : Access) : (s.setAcc a).delayed = s.delayed := rfl
@[simp] theorem State.setAcc_mem (s : State) (a : Access) : (s.setAcc a).mem = s.mem := rfl
@[simp] theorem State.setAcc_lineKey (s : State) (a : Access) : (s.setAcc a).lineKey = s.lineKey := rfl
@[simp] theorem State.setAcc_poison (s : State) (a : Access) : (s.setAcc a).poison = s.poison := rfl
@[simp] theorem State.setAcc_stamps (s : State) (a : Access) : (s.setAcc a).stamps = s.stamps := rfl
@[simp] theorem State.setAcc_copies1 (s : State) (a : Access) : (s.setAcc a).copies1 = s.copies1 := rfl
@[simp] theorem State.setAcc_pages (s : State) (a : Access) : (s.setAcc a).pages = s.pages := rfl
@[simp] theorem State.setAcc_deleg (s : State) (a : Access) : (s.setAcc a).deleg = s.deleg := rfl
@[simp] theorem State.setAcc_dirty (s : State) (a : Access) : (s.setAcc a).dirty = s.dirty := rfl
@[simp] theorem State.setAcc_proxy (s : State) (a : Access) : (s.setAcc a).proxy = s.proxy := rfl
@[simp] theorem State.setAcc_absent (s : State) (a : Access) : (s.setAcc a).absent = s.absent := rfl
@[simp] theorem State.setAcc_l2 (s : State) (a : Access) : (s.setAcc a).l2 = s.l2 := rfl
@[simp] theorem State.setAcc_invals (s : State) (a : Access) : (s.setAcc a).invals = s.invals := rfl
@[simp] theorem State.setAcc_floors (s : State) (a : Access) : (s.setAcc a).floors = s.floors := rfl
@[simp] theorem State.setAcc_tlb (s : State) (a : Access) : (s.setAcc a).tlb = s.tlb := rfl
@[simp] theorem State.setAcc_ats (s : State) (a : Access) : (s.setAcc a).ats = s.ats := rfl
@[simp] theorem State.setAcc_pri (s : State) (a : Access) : (s.setAcc a).pri = s.pri := rfl
@[simp] theorem State.setAcc_icache (s : State) (a : Access) : (s.setAcc a).icache = s.icache := rfl
@[simp] theorem State.setAcc_queues (s : State) (a : Access) : (s.setAcc a).queues = s.queues := rfl
@[simp] theorem State.setAcc_levels (s : State) (a : Access) : (s.setAcc a).levels = s.levels := rfl
@[simp] theorem State.setAcc_launches (s : State) (a : Access) : (s.setAcc a).launches = s.launches := rfl
@[simp] theorem State.setAcc_clusters (s : State) (a : Access) : (s.setAcc a).clusters = s.clusters := rfl
@[simp] theorem State.setAcc_cores (s : State) (a : Access) : (s.setAcc a).cores = s.cores := rfl
@[simp] theorem State.setAcc_ctxs (s : State) (a : Access) : (s.setAcc a).ctxs = s.ctxs := rfl
@[simp] theorem State.setAcc_board (s : State) (a : Access) : (s.setAcc a).board = s.board := rfl
@[simp] theorem State.setAcc_ports (s : State) (a : Access) : (s.setAcc a).ports = s.ports := rfl
@[simp] theorem State.setAcc_clock (s : State) (a : Access) : (s.setAcc a).clock = s.clock := rfl
@[simp] theorem State.setAcc_ticks (s : State) (a : Access) : (s.setAcc a).ticks = s.ticks := rfl
@[simp] theorem State.setAcc_sel (s : State) (a : Access) : (s.setAcc a).sel = s.sel := rfl
@[simp] theorem State.setAcc_agenda (s : State) (a : Access) : (s.setAcc a).agenda = s.agenda := rfl
@[simp] theorem State.setAcc_turn (s : State) (a : Access) : (s.setAcc a).turn = s.turn := rfl
@[simp] theorem State.setAcc_fresh (s : State) (a : Access) : (s.setAcc a).fresh = s.fresh := rfl
@[simp] theorem State.setAcc_nextId (s : State) (a : Access) : (s.setAcc a).nextId = s.nextId := rfl
@[simp] theorem State.setAcc_maxTs (s : State) (a : Access) : (s.setAcc a).maxTs = s.maxTs := rfl
@[simp] theorem State.setAcc_outbox (s : State) (a : Access) : (s.setAcc a).outbox = s.outbox := rfl

/-! ### dropAcc -/

@[simp] theorem State.dropAcc_v (s : State) (i : Nat) : (s.dropAcc i).v = s.v := rfl
@[simp] theorem State.dropAcc_s (s : State) (i : Nat) : (s.dropAcc i).s = s.s := rfl
@[simp] theorem State.dropAcc_p (s : State) (i : Nat) : (s.dropAcc i).p = s.p := rfl
@[simp] theorem State.dropAcc_d (s : State) (i : Nat) : (s.dropAcc i).d = s.d := rfl
@[simp] theorem State.dropAcc_w (s : State) (i : Nat) : (s.dropAcc i).w = s.w := rfl
@[simp] theorem State.dropAcc_marks (s : State) (i : Nat) : (s.dropAcc i).marks = s.marks := rfl
@[simp] theorem State.dropAcc_rstamps (s : State) (i : Nat) : (s.dropAcc i).rstamps = s.rstamps := rfl
@[simp] theorem State.dropAcc_sent (s : State) (i : Nat) : (s.dropAcc i).sent = s.sent := rfl
@[simp] theorem State.dropAcc_lanes (s : State) (i : Nat) : (s.dropAcc i).lanes = s.lanes := rfl
@[simp] theorem State.dropAcc_groups (s : State) (i : Nat) : (s.dropAcc i).groups = s.groups := rfl
@[simp] theorem State.dropAcc_teams (s : State) (i : Nat) : (s.dropAcc i).teams = s.teams := rfl
@[simp] theorem State.dropAcc_tiles (s : State) (i : Nat) : (s.dropAcc i).tiles = s.tiles := rfl
@[simp] theorem State.dropAcc_tensors (s : State) (i : Nat) : (s.dropAcc i).tensors = s.tensors := rfl
@[simp] theorem State.dropAcc_watch (s : State) (i : Nat) : (s.dropAcc i).watch = s.watch := rfl
@[simp] theorem State.dropAcc_accs (s : State) (i : Nat) : (s.dropAcc i).accs = s.accs.filter (fun b => b.id ≠ i) := rfl
@[simp] theorem State.dropAcc_runs (s : State) (i : Nat) : (s.dropAcc i).runs = s.runs := rfl
@[simp] theorem State.dropAcc_copies (s : State) (i : Nat) : (s.dropAcc i).copies = s.copies := rfl
@[simp] theorem State.dropAcc_pend (s : State) (i : Nat) : (s.dropAcc i).pend = s.pend := rfl
@[simp] theorem State.dropAcc_delayed (s : State) (i : Nat) : (s.dropAcc i).delayed = s.delayed := rfl
@[simp] theorem State.dropAcc_mem (s : State) (i : Nat) : (s.dropAcc i).mem = s.mem := rfl
@[simp] theorem State.dropAcc_lineKey (s : State) (i : Nat) : (s.dropAcc i).lineKey = s.lineKey := rfl
@[simp] theorem State.dropAcc_poison (s : State) (i : Nat) : (s.dropAcc i).poison = s.poison := rfl
@[simp] theorem State.dropAcc_stamps (s : State) (i : Nat) : (s.dropAcc i).stamps = s.stamps := rfl
@[simp] theorem State.dropAcc_copies1 (s : State) (i : Nat) : (s.dropAcc i).copies1 = s.copies1 := rfl
@[simp] theorem State.dropAcc_pages (s : State) (i : Nat) : (s.dropAcc i).pages = s.pages := rfl
@[simp] theorem State.dropAcc_deleg (s : State) (i : Nat) : (s.dropAcc i).deleg = s.deleg := rfl
@[simp] theorem State.dropAcc_dirty (s : State) (i : Nat) : (s.dropAcc i).dirty = s.dirty := rfl
@[simp] theorem State.dropAcc_proxy (s : State) (i : Nat) : (s.dropAcc i).proxy = s.proxy := rfl
@[simp] theorem State.dropAcc_absent (s : State) (i : Nat) : (s.dropAcc i).absent = s.absent := rfl
@[simp] theorem State.dropAcc_l2 (s : State) (i : Nat) : (s.dropAcc i).l2 = s.l2 := rfl
@[simp] theorem State.dropAcc_invals (s : State) (i : Nat) : (s.dropAcc i).invals = s.invals := rfl
@[simp] theorem State.dropAcc_floors (s : State) (i : Nat) : (s.dropAcc i).floors = s.floors := rfl
@[simp] theorem State.dropAcc_tlb (s : State) (i : Nat) : (s.dropAcc i).tlb = s.tlb := rfl
@[simp] theorem State.dropAcc_ats (s : State) (i : Nat) : (s.dropAcc i).ats = s.ats := rfl
@[simp] theorem State.dropAcc_pri (s : State) (i : Nat) : (s.dropAcc i).pri = s.pri := rfl
@[simp] theorem State.dropAcc_icache (s : State) (i : Nat) : (s.dropAcc i).icache = s.icache := rfl
@[simp] theorem State.dropAcc_queues (s : State) (i : Nat) : (s.dropAcc i).queues = s.queues := rfl
@[simp] theorem State.dropAcc_levels (s : State) (i : Nat) : (s.dropAcc i).levels = s.levels := rfl
@[simp] theorem State.dropAcc_launches (s : State) (i : Nat) : (s.dropAcc i).launches = s.launches := rfl
@[simp] theorem State.dropAcc_clusters (s : State) (i : Nat) : (s.dropAcc i).clusters = s.clusters := rfl
@[simp] theorem State.dropAcc_cores (s : State) (i : Nat) : (s.dropAcc i).cores = s.cores := rfl
@[simp] theorem State.dropAcc_ctxs (s : State) (i : Nat) : (s.dropAcc i).ctxs = s.ctxs := rfl
@[simp] theorem State.dropAcc_board (s : State) (i : Nat) : (s.dropAcc i).board = s.board := rfl
@[simp] theorem State.dropAcc_ports (s : State) (i : Nat) : (s.dropAcc i).ports = s.ports := rfl
@[simp] theorem State.dropAcc_clock (s : State) (i : Nat) : (s.dropAcc i).clock = s.clock := rfl
@[simp] theorem State.dropAcc_ticks (s : State) (i : Nat) : (s.dropAcc i).ticks = s.ticks := rfl
@[simp] theorem State.dropAcc_sel (s : State) (i : Nat) : (s.dropAcc i).sel = s.sel := rfl
@[simp] theorem State.dropAcc_agenda (s : State) (i : Nat) : (s.dropAcc i).agenda = s.agenda := rfl
@[simp] theorem State.dropAcc_turn (s : State) (i : Nat) : (s.dropAcc i).turn = s.turn := rfl
@[simp] theorem State.dropAcc_fresh (s : State) (i : Nat) : (s.dropAcc i).fresh = s.fresh := rfl
@[simp] theorem State.dropAcc_nextId (s : State) (i : Nat) : (s.dropAcc i).nextId = s.nextId := rfl
@[simp] theorem State.dropAcc_maxTs (s : State) (i : Nat) : (s.dropAcc i).maxTs = s.maxTs := rfl
@[simp] theorem State.dropAcc_outbox (s : State) (i : Nat) : (s.dropAcc i).outbox = s.outbox := rfl

/-! ### setRun -/

@[simp] theorem State.setRun_v (s : State) (r : Run) : (s.setRun r).v = s.v := rfl
@[simp] theorem State.setRun_s (s : State) (r : Run) : (s.setRun r).s = s.s := rfl
@[simp] theorem State.setRun_p (s : State) (r : Run) : (s.setRun r).p = s.p := rfl
@[simp] theorem State.setRun_d (s : State) (r : Run) : (s.setRun r).d = s.d := rfl
@[simp] theorem State.setRun_w (s : State) (r : Run) : (s.setRun r).w = s.w := rfl
@[simp] theorem State.setRun_marks (s : State) (r : Run) : (s.setRun r).marks = s.marks := rfl
@[simp] theorem State.setRun_rstamps (s : State) (r : Run) : (s.setRun r).rstamps = s.rstamps := rfl
@[simp] theorem State.setRun_sent (s : State) (r : Run) : (s.setRun r).sent = s.sent := rfl
@[simp] theorem State.setRun_lanes (s : State) (r : Run) : (s.setRun r).lanes = s.lanes := rfl
@[simp] theorem State.setRun_groups (s : State) (r : Run) : (s.setRun r).groups = s.groups := rfl
@[simp] theorem State.setRun_teams (s : State) (r : Run) : (s.setRun r).teams = s.teams := rfl
@[simp] theorem State.setRun_tiles (s : State) (r : Run) : (s.setRun r).tiles = s.tiles := rfl
@[simp] theorem State.setRun_tensors (s : State) (r : Run) : (s.setRun r).tensors = s.tensors := rfl
@[simp] theorem State.setRun_watch (s : State) (r : Run) : (s.setRun r).watch = s.watch := rfl
@[simp] theorem State.setRun_accs (s : State) (r : Run) : (s.setRun r).accs = s.accs := rfl
@[simp] theorem State.setRun_runs (s : State) (r : Run) : (s.setRun r).runs = s.runs.map (fun x => if x.id = r.id then r else x) := rfl
@[simp] theorem State.setRun_copies (s : State) (r : Run) : (s.setRun r).copies = s.copies := rfl
@[simp] theorem State.setRun_pend (s : State) (r : Run) : (s.setRun r).pend = s.pend := rfl
@[simp] theorem State.setRun_delayed (s : State) (r : Run) : (s.setRun r).delayed = s.delayed := rfl
@[simp] theorem State.setRun_mem (s : State) (r : Run) : (s.setRun r).mem = s.mem := rfl
@[simp] theorem State.setRun_lineKey (s : State) (r : Run) : (s.setRun r).lineKey = s.lineKey := rfl
@[simp] theorem State.setRun_poison (s : State) (r : Run) : (s.setRun r).poison = s.poison := rfl
@[simp] theorem State.setRun_stamps (s : State) (r : Run) : (s.setRun r).stamps = s.stamps := rfl
@[simp] theorem State.setRun_copies1 (s : State) (r : Run) : (s.setRun r).copies1 = s.copies1 := rfl
@[simp] theorem State.setRun_pages (s : State) (r : Run) : (s.setRun r).pages = s.pages := rfl
@[simp] theorem State.setRun_deleg (s : State) (r : Run) : (s.setRun r).deleg = s.deleg := rfl
@[simp] theorem State.setRun_dirty (s : State) (r : Run) : (s.setRun r).dirty = s.dirty := rfl
@[simp] theorem State.setRun_proxy (s : State) (r : Run) : (s.setRun r).proxy = s.proxy := rfl
@[simp] theorem State.setRun_absent (s : State) (r : Run) : (s.setRun r).absent = s.absent := rfl
@[simp] theorem State.setRun_l2 (s : State) (r : Run) : (s.setRun r).l2 = s.l2 := rfl
@[simp] theorem State.setRun_invals (s : State) (r : Run) : (s.setRun r).invals = s.invals := rfl
@[simp] theorem State.setRun_floors (s : State) (r : Run) : (s.setRun r).floors = s.floors := rfl
@[simp] theorem State.setRun_tlb (s : State) (r : Run) : (s.setRun r).tlb = s.tlb := rfl
@[simp] theorem State.setRun_ats (s : State) (r : Run) : (s.setRun r).ats = s.ats := rfl
@[simp] theorem State.setRun_pri (s : State) (r : Run) : (s.setRun r).pri = s.pri := rfl
@[simp] theorem State.setRun_icache (s : State) (r : Run) : (s.setRun r).icache = s.icache := rfl
@[simp] theorem State.setRun_queues (s : State) (r : Run) : (s.setRun r).queues = s.queues := rfl
@[simp] theorem State.setRun_levels (s : State) (r : Run) : (s.setRun r).levels = s.levels := rfl
@[simp] theorem State.setRun_launches (s : State) (r : Run) : (s.setRun r).launches = s.launches := rfl
@[simp] theorem State.setRun_clusters (s : State) (r : Run) : (s.setRun r).clusters = s.clusters := rfl
@[simp] theorem State.setRun_cores (s : State) (r : Run) : (s.setRun r).cores = s.cores := rfl
@[simp] theorem State.setRun_ctxs (s : State) (r : Run) : (s.setRun r).ctxs = s.ctxs := rfl
@[simp] theorem State.setRun_board (s : State) (r : Run) : (s.setRun r).board = s.board := rfl
@[simp] theorem State.setRun_ports (s : State) (r : Run) : (s.setRun r).ports = s.ports := rfl
@[simp] theorem State.setRun_clock (s : State) (r : Run) : (s.setRun r).clock = s.clock := rfl
@[simp] theorem State.setRun_ticks (s : State) (r : Run) : (s.setRun r).ticks = s.ticks := rfl
@[simp] theorem State.setRun_sel (s : State) (r : Run) : (s.setRun r).sel = s.sel := rfl
@[simp] theorem State.setRun_agenda (s : State) (r : Run) : (s.setRun r).agenda = s.agenda := rfl
@[simp] theorem State.setRun_turn (s : State) (r : Run) : (s.setRun r).turn = s.turn := rfl
@[simp] theorem State.setRun_fresh (s : State) (r : Run) : (s.setRun r).fresh = s.fresh := rfl
@[simp] theorem State.setRun_nextId (s : State) (r : Run) : (s.setRun r).nextId = s.nextId := rfl
@[simp] theorem State.setRun_maxTs (s : State) (r : Run) : (s.setRun r).maxTs = s.maxTs := rfl
@[simp] theorem State.setRun_outbox (s : State) (r : Run) : (s.setRun r).outbox = s.outbox := rfl

/-! ### setCopy -/

@[simp] theorem State.setCopy_v (s : State) (c : Copy) : (s.setCopy c).v = s.v := rfl
@[simp] theorem State.setCopy_s (s : State) (c : Copy) : (s.setCopy c).s = s.s := rfl
@[simp] theorem State.setCopy_p (s : State) (c : Copy) : (s.setCopy c).p = s.p := rfl
@[simp] theorem State.setCopy_d (s : State) (c : Copy) : (s.setCopy c).d = s.d := rfl
@[simp] theorem State.setCopy_w (s : State) (c : Copy) : (s.setCopy c).w = s.w := rfl
@[simp] theorem State.setCopy_marks (s : State) (c : Copy) : (s.setCopy c).marks = s.marks := rfl
@[simp] theorem State.setCopy_rstamps (s : State) (c : Copy) : (s.setCopy c).rstamps = s.rstamps := rfl
@[simp] theorem State.setCopy_sent (s : State) (c : Copy) : (s.setCopy c).sent = s.sent := rfl
@[simp] theorem State.setCopy_lanes (s : State) (c : Copy) : (s.setCopy c).lanes = s.lanes := rfl
@[simp] theorem State.setCopy_groups (s : State) (c : Copy) : (s.setCopy c).groups = s.groups := rfl
@[simp] theorem State.setCopy_teams (s : State) (c : Copy) : (s.setCopy c).teams = s.teams := rfl
@[simp] theorem State.setCopy_tiles (s : State) (c : Copy) : (s.setCopy c).tiles = s.tiles := rfl
@[simp] theorem State.setCopy_tensors (s : State) (c : Copy) : (s.setCopy c).tensors = s.tensors := rfl
@[simp] theorem State.setCopy_watch (s : State) (c : Copy) : (s.setCopy c).watch = s.watch := rfl
@[simp] theorem State.setCopy_accs (s : State) (c : Copy) : (s.setCopy c).accs = s.accs := rfl
@[simp] theorem State.setCopy_runs (s : State) (c : Copy) : (s.setCopy c).runs = s.runs := rfl
@[simp] theorem State.setCopy_copies (s : State) (c : Copy) : (s.setCopy c).copies = s.copies.map (fun x => if x.id = c.id then c else x) := rfl
@[simp] theorem State.setCopy_pend (s : State) (c : Copy) : (s.setCopy c).pend = s.pend := rfl
@[simp] theorem State.setCopy_delayed (s : State) (c : Copy) : (s.setCopy c).delayed = s.delayed := rfl
@[simp] theorem State.setCopy_mem (s : State) (c : Copy) : (s.setCopy c).mem = s.mem := rfl
@[simp] theorem State.setCopy_lineKey (s : State) (c : Copy) : (s.setCopy c).lineKey = s.lineKey := rfl
@[simp] theorem State.setCopy_poison (s : State) (c : Copy) : (s.setCopy c).poison = s.poison := rfl
@[simp] theorem State.setCopy_stamps (s : State) (c : Copy) : (s.setCopy c).stamps = s.stamps := rfl
@[simp] theorem State.setCopy_copies1 (s : State) (c : Copy) : (s.setCopy c).copies1 = s.copies1 := rfl
@[simp] theorem State.setCopy_pages (s : State) (c : Copy) : (s.setCopy c).pages = s.pages := rfl
@[simp] theorem State.setCopy_deleg (s : State) (c : Copy) : (s.setCopy c).deleg = s.deleg := rfl
@[simp] theorem State.setCopy_dirty (s : State) (c : Copy) : (s.setCopy c).dirty = s.dirty := rfl
@[simp] theorem State.setCopy_proxy (s : State) (c : Copy) : (s.setCopy c).proxy = s.proxy := rfl
@[simp] theorem State.setCopy_absent (s : State) (c : Copy) : (s.setCopy c).absent = s.absent := rfl
@[simp] theorem State.setCopy_l2 (s : State) (c : Copy) : (s.setCopy c).l2 = s.l2 := rfl
@[simp] theorem State.setCopy_invals (s : State) (c : Copy) : (s.setCopy c).invals = s.invals := rfl
@[simp] theorem State.setCopy_floors (s : State) (c : Copy) : (s.setCopy c).floors = s.floors := rfl
@[simp] theorem State.setCopy_tlb (s : State) (c : Copy) : (s.setCopy c).tlb = s.tlb := rfl
@[simp] theorem State.setCopy_ats (s : State) (c : Copy) : (s.setCopy c).ats = s.ats := rfl
@[simp] theorem State.setCopy_pri (s : State) (c : Copy) : (s.setCopy c).pri = s.pri := rfl
@[simp] theorem State.setCopy_icache (s : State) (c : Copy) : (s.setCopy c).icache = s.icache := rfl
@[simp] theorem State.setCopy_queues (s : State) (c : Copy) : (s.setCopy c).queues = s.queues := rfl
@[simp] theorem State.setCopy_levels (s : State) (c : Copy) : (s.setCopy c).levels = s.levels := rfl
@[simp] theorem State.setCopy_launches (s : State) (c : Copy) : (s.setCopy c).launches = s.launches := rfl
@[simp] theorem State.setCopy_clusters (s : State) (c : Copy) : (s.setCopy c).clusters = s.clusters := rfl
@[simp] theorem State.setCopy_cores (s : State) (c : Copy) : (s.setCopy c).cores = s.cores := rfl
@[simp] theorem State.setCopy_ctxs (s : State) (c : Copy) : (s.setCopy c).ctxs = s.ctxs := rfl
@[simp] theorem State.setCopy_board (s : State) (c : Copy) : (s.setCopy c).board = s.board := rfl
@[simp] theorem State.setCopy_ports (s : State) (c : Copy) : (s.setCopy c).ports = s.ports := rfl
@[simp] theorem State.setCopy_clock (s : State) (c : Copy) : (s.setCopy c).clock = s.clock := rfl
@[simp] theorem State.setCopy_ticks (s : State) (c : Copy) : (s.setCopy c).ticks = s.ticks := rfl
@[simp] theorem State.setCopy_sel (s : State) (c : Copy) : (s.setCopy c).sel = s.sel := rfl
@[simp] theorem State.setCopy_agenda (s : State) (c : Copy) : (s.setCopy c).agenda = s.agenda := rfl
@[simp] theorem State.setCopy_turn (s : State) (c : Copy) : (s.setCopy c).turn = s.turn := rfl
@[simp] theorem State.setCopy_fresh (s : State) (c : Copy) : (s.setCopy c).fresh = s.fresh := rfl
@[simp] theorem State.setCopy_nextId (s : State) (c : Copy) : (s.setCopy c).nextId = s.nextId := rfl
@[simp] theorem State.setCopy_maxTs (s : State) (c : Copy) : (s.setCopy c).maxTs = s.maxTs := rfl
@[simp] theorem State.setCopy_outbox (s : State) (c : Copy) : (s.setCopy c).outbox = s.outbox := rfl

/-! ### tick -/

@[simp] theorem State.tick_v (s : State) (n : Nat) : (s.tick n).v = s.v := rfl
@[simp] theorem State.tick_s (s : State) (n : Nat) : (s.tick n).s = s.s := rfl
@[simp] theorem State.tick_p (s : State) (n : Nat) : (s.tick n).p = s.p := rfl
@[simp] theorem State.tick_d (s : State) (n : Nat) : (s.tick n).d = s.d := rfl
@[simp] theorem State.tick_w (s : State) (n : Nat) : (s.tick n).w = s.w := rfl
@[simp] theorem State.tick_marks (s : State) (n : Nat) : (s.tick n).marks = s.marks := rfl
@[simp] theorem State.tick_rstamps (s : State) (n : Nat) : (s.tick n).rstamps = s.rstamps := rfl
@[simp] theorem State.tick_sent (s : State) (n : Nat) : (s.tick n).sent = s.sent := rfl
@[simp] theorem State.tick_lanes (s : State) (n : Nat) : (s.tick n).lanes = s.lanes := rfl
@[simp] theorem State.tick_groups (s : State) (n : Nat) : (s.tick n).groups = s.groups := rfl
@[simp] theorem State.tick_teams (s : State) (n : Nat) : (s.tick n).teams = s.teams := rfl
@[simp] theorem State.tick_tiles (s : State) (n : Nat) : (s.tick n).tiles = s.tiles := rfl
@[simp] theorem State.tick_tensors (s : State) (n : Nat) : (s.tick n).tensors = s.tensors := rfl
@[simp] theorem State.tick_watch (s : State) (n : Nat) : (s.tick n).watch = s.watch := rfl
@[simp] theorem State.tick_accs (s : State) (n : Nat) : (s.tick n).accs = s.accs := rfl
@[simp] theorem State.tick_runs (s : State) (n : Nat) : (s.tick n).runs = s.runs := rfl
@[simp] theorem State.tick_copies (s : State) (n : Nat) : (s.tick n).copies = s.copies := rfl
@[simp] theorem State.tick_pend (s : State) (n : Nat) : (s.tick n).pend = s.pend := rfl
@[simp] theorem State.tick_delayed (s : State) (n : Nat) : (s.tick n).delayed = s.delayed := rfl
@[simp] theorem State.tick_mem (s : State) (n : Nat) : (s.tick n).mem = s.mem := rfl
@[simp] theorem State.tick_lineKey (s : State) (n : Nat) : (s.tick n).lineKey = s.lineKey := rfl
@[simp] theorem State.tick_poison (s : State) (n : Nat) : (s.tick n).poison = s.poison := rfl
@[simp] theorem State.tick_stamps (s : State) (n : Nat) : (s.tick n).stamps = s.stamps := rfl
@[simp] theorem State.tick_copies1 (s : State) (n : Nat) : (s.tick n).copies1 = s.copies1 := rfl
@[simp] theorem State.tick_pages (s : State) (n : Nat) : (s.tick n).pages = s.pages := rfl
@[simp] theorem State.tick_deleg (s : State) (n : Nat) : (s.tick n).deleg = s.deleg := rfl
@[simp] theorem State.tick_dirty (s : State) (n : Nat) : (s.tick n).dirty = s.dirty := rfl
@[simp] theorem State.tick_proxy (s : State) (n : Nat) : (s.tick n).proxy = s.proxy := rfl
@[simp] theorem State.tick_absent (s : State) (n : Nat) : (s.tick n).absent = s.absent := rfl
@[simp] theorem State.tick_l2 (s : State) (n : Nat) : (s.tick n).l2 = s.l2 := rfl
@[simp] theorem State.tick_invals (s : State) (n : Nat) : (s.tick n).invals = s.invals := rfl
@[simp] theorem State.tick_floors (s : State) (n : Nat) : (s.tick n).floors = s.floors := rfl
@[simp] theorem State.tick_tlb (s : State) (n : Nat) : (s.tick n).tlb = s.tlb := rfl
@[simp] theorem State.tick_ats (s : State) (n : Nat) : (s.tick n).ats = s.ats := rfl
@[simp] theorem State.tick_pri (s : State) (n : Nat) : (s.tick n).pri = s.pri := rfl
@[simp] theorem State.tick_icache (s : State) (n : Nat) : (s.tick n).icache = s.icache := rfl
@[simp] theorem State.tick_queues (s : State) (n : Nat) : (s.tick n).queues = s.queues := rfl
@[simp] theorem State.tick_levels (s : State) (n : Nat) : (s.tick n).levels = s.levels := rfl
@[simp] theorem State.tick_launches (s : State) (n : Nat) : (s.tick n).launches = s.launches := rfl
@[simp] theorem State.tick_clusters (s : State) (n : Nat) : (s.tick n).clusters = s.clusters := rfl
@[simp] theorem State.tick_cores (s : State) (n : Nat) : (s.tick n).cores = s.cores := rfl
@[simp] theorem State.tick_ctxs (s : State) (n : Nat) : (s.tick n).ctxs = s.ctxs := rfl
@[simp] theorem State.tick_board (s : State) (n : Nat) : (s.tick n).board = s.board := rfl
@[simp] theorem State.tick_ports (s : State) (n : Nat) : (s.tick n).ports = s.ports := rfl
@[simp] theorem State.tick_clock (s : State) (n : Nat) : (s.tick n).clock = s.clock := rfl
@[simp] theorem State.tick_ticks (s : State) (n : Nat) : (s.tick n).ticks = s.ticks := rfl
@[simp] theorem State.tick_sel (s : State) (n : Nat) : (s.tick n).sel = s.sel := rfl
@[simp] theorem State.tick_agenda (s : State) (n : Nat) : (s.tick n).agenda = s.agenda := rfl
@[simp] theorem State.tick_turn (s : State) (n : Nat) : (s.tick n).turn = s.turn := rfl
@[simp] theorem State.tick_fresh (s : State) (n : Nat) : (s.tick n).fresh = s.fresh + n := rfl
@[simp] theorem State.tick_nextId (s : State) (n : Nat) : (s.tick n).nextId = s.nextId := rfl
@[simp] theorem State.tick_maxTs (s : State) (n : Nat) : (s.tick n).maxTs = s.maxTs := rfl
@[simp] theorem State.tick_outbox (s : State) (n : Nat) : (s.tick n).outbox = s.outbox := rfl

end Sys2Proof.Machine
end

