-- ==== Sys2Proof/Laws/Tables.lean ====
section
/-! SUPPORT. Reading a sparse table after a change of it. -/

namespace Sys2Proof.Machine

variable {κ α : Type} [DecidableEq κ]

@[simp] theorem Tbl.get_nil (d : α) (q : κ) : Tbl.get d ([] : Tbl κ α) q = d := rfl

@[simp] theorem Tbl.find_nil (q : κ) : Tbl.find ([] : Tbl κ α) q = none := rfl

theorem Tbl.get_eq_find (d : α) (t : Tbl κ α) (q : κ) : t.get d q = (t.find q).getD d := by
  induction t with
  | nil => rfl
  | cons e t ih =>
    obtain ⟨k, a⟩ := e
    by_cases h : k = q <;> simp [Tbl.get, Tbl.find, h, ih]

/-- The entry just written. -/
@[simp] theorem Tbl.find_set_self (t : Tbl κ α) (q : κ) (x : α) : (t.set q x).find q = some x := by
  induction t with
  | nil => simp [Tbl.set, Tbl.find]
  | cons e t ih =>
    obtain ⟨k, a⟩ := e
    by_cases h : k = q <;> simp [Tbl.set, Tbl.find, h, ih]

/-- Every other entry stands. -/
theorem Tbl.find_set_ne (t : Tbl κ α) {q r : κ} (x : α) (h : r ≠ q) : (t.set q x).find r = t.find r := by
  induction t with
  | nil => simp [Tbl.set, Tbl.find, Ne.symm h]
  | cons e t ih =>
    obtain ⟨k, a⟩ := e
    by_cases hk : k = q
    · subst hk; simp [Tbl.set, Tbl.find, Ne.symm h]
    · by_cases hr : k = r
      · subst hr; simp [Tbl.set, Tbl.find, hk]
      · simp [Tbl.set, Tbl.find, hk, hr, ih]

@[simp] theorem Tbl.get_set_self (d : α) (t : Tbl κ α) (q : κ) (x : α) : (t.set q x).get d q = x := by
  simp [Tbl.get_eq_find]

theorem Tbl.get_set_ne (d : α) (t : Tbl κ α) {q r : κ} (x : α) (h : r ≠ q) : (t.set q x).get d r = t.get d r := by
  simp [Tbl.get_eq_find, Tbl.find_set_ne t x h]

theorem Tbl.get_set (d : α) (t : Tbl κ α) (q r : κ) (x : α) : (t.set q x).get d r = if r = q then x else t.get d r := by
  by_cases h : r = q
  · subst h; simp
  · simp [h, Tbl.get_set_ne]

/-- A removed entry is absent, and every other stands. -/
theorem Tbl.find_del (t : Tbl κ α) (q r : κ) : (t.del q).find r = if r = q then none else t.find r := by
  induction t with
  | nil => simp [Tbl.del, Tbl.find]
  | cons e t ih =>
    obtain ⟨k, a⟩ := e
    have ih' : Tbl.find (List.filter (fun e => decide (e.1 ≠ q)) t) r = if r = q then none else Tbl.find t r := ih
    by_cases hk : k = q
    · subst hk
      by_cases hr : r = k
      · subst hr; simpa [Tbl.del, Tbl.find] using ih'
      · have hkr : ¬k = r := fun h => hr h.symm
        simpa [Tbl.del, Tbl.find, hkr] using ih'
    · by_cases hkr : k = r
      · subst hkr; simp [Tbl.del, Tbl.find, hk]
      · simpa [Tbl.del, Tbl.find, hk, hkr] using ih'

end Sys2Proof.Machine
end

