-- ==== Sys2Proof/Laws/Issue.lean ====
section
/-! SUPPORT. What a word that passes its checks does, once for each way of acting (R61, R88, R91, R107): the laws that a
claim about one word cites. -/

namespace Sys2Proof

open Machine

/-! ### Passing the checks -/

/-- A lane that passes gets what the word's own part gives it. -/
theorem Passes.laneOut {s : State} {i : Instr} (h : Passes s i) {l : Nat} (hl : l ∈ s.sel.lanes) (body : LaneId → LaneOut) :
    s.laneOut (s.guard i) (s.sel.lane l) body = s.settle (body (s.sel.lane l)) := by
  have h1 : s.regCheck (s.sel.lane l) (s.guard i).uses = .pass := h.regs l hl
  have h2 : (s.guard i).more (s.sel.lane l) = false := h.more l hl
  have h3 : (s.guard i).tensor = false := h.tensor
  have h4 : (s.guard i).far (s.sel.lane l) = none := h.far l hl
  have h5 : (s.guard i).misuse (s.sel.lane l) = none := h.misuse l hl
  have h6 : (s.guard i).tile (s.sel.lane l) = false := h.tile l hl
  have h7 : s.codeWait (s.sel.lane l) ((s.guard i).code (s.sel.lane l)) = false := h.code l hl
  simp [State.laneOut, h1, h2, h3, h4, h5, h6, h7]

/-- A word that acts for each lane. -/
theorem Passes.perLane {s : State} {i : Instr} (h : Passes s i) (body : LaneId → LaneOut) :
    s.perLane (s.guard i) body =
      s.applyOuts (s.sel.lanes.map (fun l => (s.sel.lane l, s.settle (body (s.sel.lane l))))) := by
  have h1 : s.entryCheck (s.guard i) = none := h.entry
  simp only [State.perLane, h1]
  congr 1
  exact List.map_congr_left (fun l hl => by rw [h.laneOut hl])

/-- Every lane passes. -/
theorem Passes.passing {s : State} {i : Instr} {a : D64} {k p : Nat} (h : Passes s i) (hf : s.fall = some (.go a k p)) :
    s.passing (s.guard i) = s.sel.lanes := by
  unfold State.passing
  rw [List.filter_eq_self]
  intro l hl
  rw [h.laneOut hl]
  simp [State.settle, State.onward, hf, LaneOut.isDone]

/-- A word that acts once for its entry. -/
theorem Passes.once {s : State} {i : Instr} {a : D64} {k p : Nat} (h : Passes s i) (hf : s.fall = some (.go a k p)) (body : List Nat → LaneOut)
    {f : Eff} (hb : s.settle (body s.sel.lanes) = .done f) :
    s.once (s.guard i) body =
      s.sel.lanes.foldl (fun u l => u.move (s.sel.lane l) (.done f))
        (s.applyEff (s.sel.lane (s.sel.lanes.headD 0)) s.sel.lanes f) := by
  have h1 : s.entryCheck (s.guard i) = none := h.entry
  simp only [State.once, h1, h.passing hf, hb]
  have h2 : (s.sel.lanes.map fun l => (s.sel.lane l, if l ∈ s.sel.lanes then LaneOut.done f
      else s.laneOut (s.guard i) (s.sel.lane l) fun _ => .done {})) =
      s.sel.lanes.map (fun l => (s.sel.lane l, LaneOut.done f)) :=
    List.map_congr_left (fun l hl => by simp [hl])
  rw [h2, List.foldl_map]
  cases hs : s.sel.lanes with
  | nil => exact absurd hs h.nonempty
  | cons a t => rfl

/-- A word that acts once for its entry on more than registers. -/
theorem Passes.onceDo {s : State} {i : Instr} {a : D64} {k p : Nat} (h : Passes s i) (hf : s.fall = some (.go a k p)) (f : State → State) :
    s.onceDo (s.guard i) f =
      s.sel.lanes.foldl (fun u l => u.move (s.sel.lane l) (.done { go := .at (.go a k p) })) (f s) := by
  have h1 : s.entryCheck (s.guard i) = none := h.entry
  have h2 : (s.sel.lanes.map fun l => (s.sel.lane l, s.laneOut (s.guard i) (s.sel.lane l) fun _ => .done {})) =
      s.sel.lanes.map (fun l => (s.sel.lane l, LaneOut.done { go := .at (.go a k p) })) :=
    List.map_congr_left (fun l hl => by rw [h.laneOut hl]; simp [State.settle, State.onward, hf])
  have h3 : s.sel.lanes.isEmpty = false := by simpa using h.nonempty
  simp only [State.onceDo, h1, h.passing hf, h2, h3, List.foldl_map]
  rfl

/-- A cross-lane word. -/
theorem Passes.cross {s : State} {i : Instr} {a : D64} {k p : Nat} (h : Passes s i) (hf : s.fall = some (.go a k p))
    (body : List Nat → Nat → LaneOut) :
    s.cross (s.guard i) body =
      s.applyOuts (s.sel.lanes.map (fun l => (s.sel.lane l, s.settle (body s.sel.lanes l)))) := by
  have h1 : s.entryCheck (s.guard i) = none := h.entry
  have h0 : ∀ l ∈ s.sel.lanes, s.laneOut (s.guard i) (s.sel.lane l) (fun _ => .done {}) = .done { go := .at (.go a k p) } :=
    fun l hl => by rw [h.laneOut hl]; simp [State.settle, State.onward, hf]
  have h2 : (s.sel.lanes.map fun l => (s.sel.lane l, s.laneOut (s.guard i) (s.sel.lane l) fun _ => .done {})) =
      s.sel.lanes.map (fun l => (s.sel.lane l, LaneOut.done { go := .at (.go a k p) })) :=
    List.map_congr_left (fun l hl => by rw [h0 l hl])
  have h3 : (s.sel.lanes.filter fun l => !(s.laneOut (s.guard i) (s.sel.lane l) fun _ => .done {}).leaves) = s.sel.lanes := by
    rw [List.filter_eq_self]
    intro l hl
    rw [h0 l hl]; rfl
  simp only [State.cross, h1, h2, h3]
  rw [if_neg]
  · congr 1
    exact List.map_congr_left (fun l hl => by rw [h0 l hl]; simp [LaneOut.isDone])
  · simp

/-! ### Register writes -/

/-- The register that a write names, and whether a table of registers holds it. -/
def widOf (s : State) (L : LaneId) (w : RegW) : RId := s.rid L w.cls w.num

/-- The names of registers depend on the teams and launches alone. -/
theorem rid_congr {s t : State} (h1 : t.launches = s.launches) (h2 : t.teams = s.teams) (L : LaneId) (c : RegClass) (n : Nat) :
    t.rid L c n = s.rid L c n := by
  cases c <;> simp [State.rid, State.hdr, State.team, h1, h2]

/-- A register's name carries its class and, but for s registers, its lane. -/
theorem rid_cls (s : State) (L : LaneId) (c : RegClass) (n : Nat) : (s.rid L c n).cls = c := by
  cases c <;> simp only [State.rid]
  split <;> rfl

theorem rid_num (s : State) (L : LaneId) (c : RegClass) (n : Nat) : (s.rid L c n).num = n := by
  cases c <;> simp only [State.rid]
  split <;> rfl

theorem rid_lane (s : State) (L : LaneId) (c : RegClass) (n : Nat) (h : c ≠ .s) : (s.rid L c n).lane = L.lane := by
  cases c <;> simp only [State.rid] <;> first | contradiction | (split <;> rfl)

theorem rid_s_lane (s : State) (L M : LaneId) (h1 : L.team = M.team) (h2 : L.group = M.group) (n : Nat) :
    s.rid L .s n = s.rid M .s n := by simp [State.rid, h1, h2]

/-- What one register write leaves alone: everything but registers and marks. -/
theorem write_only (s : State) (L : LaneId) (w : RegW) :
    s.write L w = { s with v := (s.write L w).v, s := (s.write L w).s, p := (s.write L w).p, d := (s.write L w).d,
                           w := (s.write L w).w, marks := (s.write L w).marks } := by
  cases w <;> simp only [State.write, State.put, State.setMark]
  split <;> rfl

theorem write_launches (s : State) (L : LaneId) (w : RegW) : (s.write L w).launches = s.launches := by
  rw [write_only]
theorem write_teams (s : State) (L : LaneId) (w : RegW) : (s.write L w).teams = s.teams := by
  rw [write_only]

theorem write_rid (s : State) (L M : LaneId) (w : RegW) (c : RegClass) (n : Nat) : (s.write L w).rid M c n = s.rid M c n :=
  rid_congr (write_launches s L w) (write_teams s L w) M c n

/-- Every other register reads as before. -/
theorem write_kept (s : State) (L : LaneId) (w : RegW) : RegsKept s (s.write L w) [s.rid L w.cls w.num] := by
  intro r hr
  have hne : r ≠ s.rid L w.cls w.num := by simpa using hr
  have hm : (s.write L w).marks.get ⟨true, false⟩ r = s.marks.get ⟨true, false⟩ r := by
    have : (s.write L w).marks = s.marks.set (s.rid L w.cls w.num) ⟨true, false⟩ := by
      have e : (s.put L w).rid L w.cls w.num = s.rid L w.cls w.num := by
        cases w <;> simp only [State.put, RegW.cls, RegW.num]
        all_goals rfl
      have e2 : (s.put L w).marks = s.marks := by
        cases w <;> simp only [State.put]
        split <;> rfl
      simp only [State.write, State.setMark_marks, e2]
    rw [this, Tbl.get_set_ne _ _ _ hne]
  refine ⟨?_, ?_, ?_, ?_, ?_, ?_⟩
  · cases w <;> simp only [State.write, State.put, State.setMark_v, RegW.cls, RegW.num] at hne ⊢
    · exact Tbl.get_set_ne _ _ _ hne
    · split <;> rfl
  · cases w <;> simp only [State.write, State.put, State.setMark_s, RegW.cls, RegW.num] at hne ⊢
    · exact Tbl.get_set_ne _ _ _ hne
    · split <;> rfl
  · cases w <;> simp only [State.write, State.put, State.setMark_p, RegW.cls, RegW.num] at hne ⊢
    split
    · rfl
    · exact Tbl.get_set_ne _ _ _ hne
  · cases w <;> simp only [State.write, State.put, State.setMark_d, RegW.cls, RegW.num] at hne ⊢
    · split <;> rfl
    · exact Tbl.get_set_ne _ _ _ hne
  · cases w <;> simp only [State.write, State.put, State.setMark_w, RegW.cls, RegW.num] at hne ⊢
    · split <;> rfl
    · exact Tbl.get_set_ne _ _ _ hne
  · simp only [State.mark]
    split
    · rfl
    · exact hm

/-- The register written holds its value. -/
theorem write_holds (s : State) (L : LaneId) (w : RegW) : Holds (s.write L w) L w := by
  have hm : (s.write L w).mark ((s.write L w).rid L w.cls w.num) = ⟨true, false⟩ := by
    rw [write_rid]
    have e2 : (s.write L w).marks = s.marks.set (s.rid L w.cls w.num) ⟨true, false⟩ := by
      cases w <;> simp only [State.write, State.put, State.setMark_marks]
      split <;> rfl
    simp only [State.mark, e2]
    split <;> simp
  cases w with
  | v n x => exact ⟨by simp only [State.getV, write_rid]; simp [State.write, State.put], hm⟩
  | s n x => exact ⟨by simp only [State.getS, write_rid]; simp [State.write, State.put], hm⟩
  | p n x =>
    refine ⟨?_, hm⟩
    simp only [State.getP, write_rid]
    split
    · rfl
    · next h => simp [State.write, State.put, h]
  | d n x => exact ⟨by simp only [State.getD, write_rid]; simp [State.write, State.put], hm⟩
  | w n x => exact ⟨by simp only [State.getW, write_rid]; simp [State.write, State.put], hm⟩

/-- A register keeps what it holds where it is not written. -/
theorem Holds.kept {s t : State} {ids : List RId} {L : LaneId} {w : RegW} (h : Holds s L w) (hk : RegsKept s t ids)
    (h1 : t.launches = s.launches) (h2 : t.teams = s.teams) (hn : s.rid L w.cls w.num ∉ ids) : Holds t L w := by
  have k := hk _ hn
  cases w with
  | v n x =>
    simp only [RegW.cls, RegW.num] at k
    exact ⟨by rw [State.getV, rid_congr h1 h2, k.1]; exact h.1, by rw [rid_congr h1 h2, k.2.2.2.2.2]; exact h.2⟩
  | s n x =>
    simp only [RegW.cls, RegW.num] at k
    exact ⟨by rw [State.getS, rid_congr h1 h2, k.2.1]; exact h.1, by rw [rid_congr h1 h2, k.2.2.2.2.2]; exact h.2⟩
  | p n x =>
    simp only [RegW.cls, RegW.num] at k
    refine ⟨?_, by rw [rid_congr h1 h2, k.2.2.2.2.2]; exact h.2⟩
    have := h.1
    simp only [State.getP, rid_congr h1 h2] at this ⊢
    rw [k.2.2.1]; exact this
  | d n x =>
    simp only [RegW.cls, RegW.num] at k
    exact ⟨by rw [State.getD, rid_congr h1 h2, k.2.2.2.1]; exact h.1, by rw [rid_congr h1 h2, k.2.2.2.2.2]; exact h.2⟩
  | w n x =>
    simp only [RegW.cls, RegW.num] at k
    exact ⟨by rw [State.getW, rid_congr h1 h2, k.2.2.2.2.1]; exact h.1, by rw [rid_congr h1 h2, k.2.2.2.2.2]; exact h.2⟩

theorem RegsKept.refl (s : State) (ids : List RId) : RegsKept s s ids := fun _ _ => ⟨rfl, rfl, rfl, rfl, rfl, rfl⟩

theorem RegsKept.trans {s t u : State} {a b : List RId} (h : RegsKept s t a) (k : RegsKept t u b) : RegsKept s u (a ++ b) := by
  intro r hr
  have hr' : r ∉ a ∧ r ∉ b := by simpa using hr
  have x := h r hr'.1
  have y := k r hr'.2
  exact ⟨y.1.trans x.1, y.2.1.trans x.2.1, y.2.2.1.trans x.2.2.1, y.2.2.2.1.trans x.2.2.2.1,
    y.2.2.2.2.1.trans x.2.2.2.2.1, y.2.2.2.2.2.trans x.2.2.2.2.2⟩

/-- Only registers and marks may differ. -/
def RegsOnly (s t : State) : Prop :=
  t = { s with v := t.v, s := t.s, p := t.p, d := t.d, w := t.w, marks := t.marks }

theorem RegsOnly.refl (s : State) : RegsOnly s s := rfl

theorem RegsOnly.trans {s t u : State} (h : RegsOnly s t) (k : RegsOnly t u) : RegsOnly s u := by
  unfold RegsOnly at *
  rw [k, h]

theorem RegsOnly.launches {s t : State} (h : RegsOnly s t) : t.launches = s.launches := by
  have := congrArg State.launches h; simpa using this
theorem RegsOnly.teams {s t : State} (h : RegsOnly s t) : t.teams = s.teams := by
  have := congrArg State.teams h; simpa using this
theorem RegsOnly.lanes {s t : State} (h : RegsOnly s t) : t.lanes = s.lanes := by
  have := congrArg State.lanes h; simpa using this

/-- A list of writes by one lane, to registers that are all different. -/
theorem writes_law (L : LaneId) : ∀ (ws : List RegW) (s : State), (ws.map (fun w => s.rid L w.cls w.num)).Nodup →
    (∀ w ∈ ws, Holds (s.writes L ws) L w) ∧ RegsKept s (s.writes L ws) (ws.map (fun w => s.rid L w.cls w.num)) ∧
      RegsOnly s (s.writes L ws)
  | [], s, _ => ⟨by simp, RegsKept.refl s [], rfl⟩
  | w :: t, s, hn => by
    have hn' : s.rid L w.cls w.num ∉ t.map (fun w => s.rid L w.cls w.num) ∧ (t.map (fun w => s.rid L w.cls w.num)).Nodup := by
      simpa using hn
    have e : (fun w : RegW => (s.write L w).rid L w.cls w.num) = (fun w => s.rid L w.cls w.num) := by
      funext w; rw [write_rid]
    have e' : (fun x : RegW => (s.write L w).rid L x.cls x.num) = (fun x => s.rid L x.cls x.num) := by
      funext x; rw [write_rid]
    have ih := writes_law L t (s.write L w) (by rw [e']; exact hn'.2)
    have hs : s.writes L (w :: t) = (s.write L w).writes L t := rfl
    rw [hs]
    rw [e'] at ih
    refine ⟨?_, ?_, ?_⟩
    · intro x hx
      rcases List.mem_cons.mp hx with rfl | hx
      · refine (write_holds s L x).kept ih.2.1 ih.2.2.launches ih.2.2.teams ?_
        rw [write_rid]; exact hn'.1
      · exact ih.1 x hx
    · exact (write_kept s L w).trans ih.2.1
    · exact RegsOnly.trans (write_only s L w) ih.2.2

/-- Registers named apart have different names. -/
theorem rid_inj (s : State) (L : LaneId) {c c' : RegClass} {n n' : Nat} (h : s.rid L c n = s.rid L c' n') : c = c' ∧ n = n' :=
  ⟨by rw [← rid_cls s L c n, h, rid_cls], by rw [← rid_num s L c n, h, rid_num]⟩

theorem rids_nodup (s : State) (L : LaneId) (l : List (RegClass × Nat)) (h : l.Nodup) :
    (l.map (fun e => s.rid L e.1 e.2)).Nodup :=
  h.map (fun _ _ hab => Prod.ext (rid_inj s L hab).1 (rid_inj s L hab).2)

/-- Writes by several lanes, none to an s register. -/
theorem writes_fold (f : Nat → LaneId) (hf : ∀ l, (f l).lane = l) (ws : Nat → List RegW) :
    ∀ (ls : List Nat) (s : State), ls.Nodup → (∀ l ∈ ls, ∀ w ∈ ws l, w.cls ≠ .s) →
      (∀ l ∈ ls, ((ws l).map (fun w => (w.cls, w.num))).Nodup) →
      (∀ l ∈ ls, ∀ w ∈ ws l, Holds (ls.foldl (fun u l => u.writes (f l) (ws l)) s) (f l) w) ∧
      RegsKept s (ls.foldl (fun u l => u.writes (f l) (ws l)) s)
        (ls.flatMap (fun l => (ws l).map (fun w => s.rid (f l) w.cls w.num))) ∧
      RegsOnly s (ls.foldl (fun u l => u.writes (f l) (ws l)) s)
  | [], s, _, _, _ => ⟨by simp, RegsKept.refl s [], rfl⟩
  | a :: t, s, hn, hc, hd => by
    have hn' := List.nodup_cons.mp hn
    have h1 := writes_law (f a) (ws a) s (by
      have := rids_nodup s (f a) _ (hd a (by simp))
      simpa [List.map_map, Function.comp_def] using this)
    have e : (fun (M : LaneId) (c : RegClass) (n : Nat) => (s.writes (f a) (ws a)).rid M c n) = fun M c n => s.rid M c n := by
      funext M c n; exact rid_congr h1.2.2.launches h1.2.2.teams M c n
    have ih := writes_fold f hf ws t (s.writes (f a) (ws a)) hn'.2 (fun l hl => hc l (by simp [hl]))
      (fun l hl => hd l (by simp [hl]))
    have e' : ∀ l, ((ws l).map fun w => (s.writes (f a) (ws a)).rid (f l) w.cls w.num) =
        (ws l).map fun w => s.rid (f l) w.cls w.num := fun l => by
      apply List.map_congr_left
      intro w _
      exact rid_congr h1.2.2.launches h1.2.2.teams _ _ _
    simp only [e'] at ih
    refine ⟨?_, ?_, ?_⟩
    · intro l hl w hw
      rcases List.mem_cons.mp hl with rfl | hl
      · refine (h1.1 w hw).kept ih.2.1 ih.2.2.launches ih.2.2.teams ?_
        rw [rid_congr h1.2.2.launches h1.2.2.teams]
        intro hm
        obtain ⟨m, hm1, hm2⟩ := List.mem_flatMap.mp hm
        obtain ⟨x, hx, hxe⟩ := List.mem_map.mp hm2
        have k1 := rid_lane s (f m) x.cls x.num (hc m (by simp [hm1]) x hx)
        have k2 := rid_lane s (f l) w.cls w.num (hc l (by simp) w hw)
        rw [hxe, k2, hf, hf] at k1
        exact hn'.1 (k1 ▸ hm1)
      · exact ih.1 l hl w hw
    · simpa using h1.2.1.trans ih.2.1
    · exact h1.2.2.trans ih.2.2

/-! ### Going on -/

/-- Only lanes differ. -/
def LanesOnly (s t : State) : Prop := t = { s with lanes := t.lanes }

theorem LanesOnly.trans {s t u : State} (h : LanesOnly s t) (k : LanesOnly t u) : LanesOnly s u := by
  unfold LanesOnly at *
  rw [k, h]

@[simp] theorem setLane_self (s : State) (L : LaneId) (x : Lane) : (s.setLane L x).lane L = x := by
  simp [State.lane]

theorem setLane_ne (s : State) {L M : LaneId} (x : Lane) (h : M ≠ L) : (s.setLane L x).lane M = s.lane M := by
  simp [State.lane, Tbl.get_set_ne _ _ _ h]

/-- Lanes that go to one clause word. -/
theorem moves_fold (f : Nat → LaneId) (hf : ∀ l, (f l).lane = l) (o : Nat → LaneOut) (hdr : D64) (k prio : Nat)
    (ho : ∀ (u : State) l, u.move (f l) (o l) = u.goTo (f l) (.go hdr k prio)) :
    ∀ (ls : List Nat) (s : State), ls.Nodup →
      (∀ l ∈ ls, Moved (ls.foldl (fun u l => u.move (f l) (o l)) s) (f l) (s.lane (f l)) hdr k prio) ∧
      (∀ L, (∀ l ∈ ls, L ≠ f l) → (ls.foldl (fun u l => u.move (f l) (o l)) s).lane L = s.lane L) ∧
      LanesOnly s (ls.foldl (fun u l => u.move (f l) (o l)) s)
  | [], s, _ => ⟨by simp, fun _ _ => rfl, rfl⟩
  | a :: t, s, hn => by
    have hn' := List.nodup_cons.mp hn
    have ih := moves_fold f hf o hdr k prio ho t (s.move (f a) (o a)) hn'.2
    have hne : ∀ l ∈ t, f a ≠ f l := fun l hl h => hn'.1 (by
      have := congrArg LaneId.lane h
      rw [hf, hf] at this
      exact this ▸ hl)
    have hmv : s.move (f a) (o a) = s.setLane (f a) 
        { s.lane (f a) with
          hdr := hdr, k := k, prio := prio, since := s.clock, arrive := if k = 1 then s.nextId else (s.lane (f a)).arrive } := by
      rw [ho]; rfl
    refine ⟨?_, ?_, ?_⟩
    · intro l hl
      rcases List.mem_cons.mp hl with rfl | hl
      · have := ih.2.1 (f l) hne
        unfold Moved
        simp only [List.foldl_cons]
        have hc : (t.foldl (fun u l => u.move (f l) (o l)) (s.move (f l) (o l))).clock = s.clock := by
          have := congrArg State.clock ih.2.2
          rw [this, hmv]; rfl
        rw [this, hc, hmv]
        simp
      · have := ih.1 l hl
        unfold Moved at this ⊢
        simp only [List.foldl_cons]
        rw [this, hmv, setLane_ne _ _ (Ne.symm (hne l hl))]
    · intro L hL
      simp only [List.foldl_cons]
      rw [ih.2.1 L (fun l hl => hL l (by simp [hl])), hmv, setLane_ne _ _ (hL a (by simp))]
    · refine LanesOnly.trans ?_ ih.2.2
      rw [hmv]; rfl

/-! ### Words that write registers -/

theorem settle_at (s : State) (e : Eff) {a : D64} {k p : Nat} (h : s.fall = some (.go a k p)) (hg : e.go = .fall) :
    s.settle (.done e) = .done { e with go := .at (.go a k p) } := by
  simp [State.settle, State.onward, hg, h]

theorem goTo_only (s : State) (L : LaneId) (h : D64) (k p : Nat) : LanesOnly s (s.goTo L (.go h k p)) := rfl

theorem RegsKept.of_lanes {s t u : State} {a : List RId} (h : RegsKept s t a) (k : LanesOnly t u) : RegsKept s u a := by
  unfold LanesOnly at k
  intro r hr
  have x := h r hr
  rw [k]
  exact x

theorem Holds.of_lanes {t u : State} {L : LaneId} {w : RegW} (h : Holds t L w) (k : LanesOnly t u) : Holds u L w := by
  unfold LanesOnly at k
  rw [k]
  cases w <;> exact h

/-- Lanes are not what a word that only writes registers changes. -/
theorem RegsOnly.lane {s t : State} (h : RegsOnly s t) (L : LaneId) : t.lane L = s.lane L := by
  simp [State.lane, h.lanes]

/-- A word that acts for each lane and writes v, p, d or w registers. -/
theorem writes_each {c : State → LaneId → Prop} {i : Instr} {ws : State → LaneId → List RegW} (body : State → LaneId → LaneOut)
    (he : ∀ s, exec i s = .next (s.perLane (s.guard i) (body s)))
    (hb : ∀ s L, c s L → body s L = .done { writes := ws s L })
    (hc : ∀ s L, ∀ w ∈ ws s L, w.cls ≠ .s)
    (hd : ∀ s L, ((ws s L).map (fun w => (w.cls, w.num))).Nodup) : WritesIf c i ws := by
  intro s hdr k prio hp hf hcs
  refine ⟨_, he s, ?_⟩
  rw [hp.perLane]
  have e1 : (s.sel.lanes.map fun l => (s.sel.lane l, s.settle (body s (s.sel.lane l)))) =
      s.sel.lanes.map (fun l => (s.sel.lane l, LaneOut.done { writes := ws s (s.sel.lane l), go := .at (.go hdr k prio) })) :=
    List.map_congr_left (fun l hl => by rw [hb s _ (hcs l hl), settle_at s _ hf rfl])
  rw [e1]
  have w := writes_fold (fun l => s.sel.lane l) (fun _ => rfl) (fun l => ws s (s.sel.lane l)) s.sel.lanes s hp.nodup
    (fun l _ => hc s _) (fun l _ => hd s _)
  have m := moves_fold (fun l => s.sel.lane l) (fun _ => rfl)
    (fun l => LaneOut.done { writes := ws s (s.sel.lane l), go := .at (.go hdr k prio) }) hdr k prio (fun _ _ => rfl)
    s.sel.lanes (s.sel.lanes.foldl (fun u l => u.writes (s.sel.lane l) (ws s (s.sel.lane l))) s) hp.nodup
  have e2 : s.applyOuts (s.sel.lanes.map (fun l => (s.sel.lane l,
      LaneOut.done { writes := ws s (s.sel.lane l), go := .at (.go hdr k prio) }))) =
      s.sel.lanes.foldl (fun u l => u.move (s.sel.lane l) (.done { writes := ws s (s.sel.lane l), go := .at (.go hdr k prio) }))
        (s.sel.lanes.foldl (fun u l => u.writes (s.sel.lane l) (ws s (s.sel.lane l))) s) := by
    simp only [State.applyOuts, List.foldl_map]
    rfl
  rw [e2]
  refine ⟨?_, w.2.1.of_lanes m.2.2, ?_, ?_⟩
  · intro l hl
    refine ⟨fun x hx => (w.1 l hl x hx).of_lanes m.2.2, ?_⟩
    have := m.1 l hl
    rwa [w.2.2.lane] at this
  · intro L hL
    rw [m.2.1 L hL, w.2.2.lane]
  · have h1 := w.2.2
    have h2 := m.2.2
    unfold OnlyRegs
    unfold LanesOnly at h2
    unfold RegsOnly at h1
    rw [h2, h1]

end Sys2Proof
end

