-- ==== Sys2Proof/Laws/Memory.lean ====
section
/-! SUPPORT. Memory: a read after a write, and that every operation on memory keeps its canonical form. -/

namespace Sys2Proof.Machine

/-- The canonical form, as a pairwise order. -/
theorem Memory.wf_iff : ∀ m : Memory, m.wf = true ↔ m.Pairwise (fun a b => a.1 < b.1)
  | [] => by simp [Memory.wf]
  | [a] => by simp [Memory.wf]
  | a :: b :: t => by
    have ih := Memory.wf_iff (b :: t)
    simp only [Memory.wf, Bool.and_eq_true, decide_eq_true_eq, ih, List.pairwise_cons]
    constructor
    · rintro ⟨h, hb, ht⟩
      refine ⟨?_, hb, ht⟩
      intro c hc
      rcases List.mem_cons.mp hc with rfl | hc
      · exact h
      · exact lt_trans h (hb c hc)
    · rintro ⟨h, hb, ht⟩
      exact ⟨h b (by simp), hb, ht⟩

/-- Every location of the memory after a write was there before, or is the one written. -/
theorem Memory.mem_put {m : Memory} {q : Nat} {x : Byte} {c : Host.Cell} :
    c ∈ m.put q x → c.1 = q ∨ c ∈ m := by
  induction m with
  | nil => intro h; simp [Memory.put] at h; left; rw [h]
  | cons e t ih =>
    obtain ⟨a, b⟩ := e
    unfold Memory.put
    split
    · intro h
      rcases List.mem_cons.mp h with rfl | h
      · exact Or.inl rfl
      · exact Or.inr (List.mem_cons_of_mem _ h)
    · split
      · intro h
        rcases List.mem_cons.mp h with rfl | h
        · exact Or.inl rfl
        · exact Or.inr h
      · intro h
        rcases List.mem_cons.mp h with rfl | h
        · exact Or.inr (List.mem_cons_self ..)
        · exact (ih h).imp id (List.mem_cons_of_mem _)

/-- A write keeps the canonical form. -/
theorem Memory.wf_put {m : Memory} (h : m.wf = true) (q : Nat) (x : Byte) : (m.put q x).wf = true := by
  rw [Memory.wf_iff] at h ⊢
  induction m with
  | nil => simp [Memory.put]
  | cons e t ih =>
    obtain ⟨a, b⟩ := e
    have ht := List.pairwise_cons.mp h
    unfold Memory.put
    split
    · next hq => subst hq; exact List.pairwise_cons.mpr ht
    · next hq =>
      split
      · next hlt =>
        refine List.pairwise_cons.mpr ⟨?_, h⟩
        intro c hc
        rcases List.mem_cons.mp hc with rfl | hc
        · exact hlt
        · exact lt_trans hlt (ht.1 c hc)
      · next hge =>
        refine List.pairwise_cons.mpr ⟨?_, ih ht.2⟩
        intro c hc
        rcases Memory.mem_put hc with h1 | h1
        · simp only [h1]; omega
        · exact ht.1 c h1

/-- Consecutive writes keep the canonical form. -/
theorem Memory.wf_putN {m : Memory} (h : m.wf = true) (q : Nat) (l : List Byte) : (m.putN q l).wf = true := by
  induction l generalizing m q with
  | nil => exact h
  | cons x t ih => exact ih (Memory.wf_put h q x) (q + 1)

/-- Forgetting bytes keeps the canonical form. -/
theorem Memory.wf_forget {m : Memory} (h : m.wf = true) (f : Nat → Bool) : (m.forget f).wf = true := by
  rw [Memory.wf_iff] at h ⊢
  exact h.filter _

/-- A run of bytes from a location on, in canonical form. -/
theorem pairwise_run (q : Nat) (bs : List Byte) :
    (bs.mapIdx (fun i b => (q + i, b))).Pairwise (fun a b : Host.Cell => a.1 < b.1) := by
  rw [List.pairwise_iff_getElem]
  intro i j hi hj hij
  simp only [List.getElem_mapIdx]
  omega

/-- A run in place of a stretch keeps the canonical form. -/
theorem Memory.wf_splice {m : Memory} (h : m.wf = true) (q : Nat) (bs : List Byte) : (m.splice q bs).wf = true := by
  rw [Memory.wf_iff] at h ⊢
  unfold Memory.splice
  have hrun : ∀ c : Host.Cell, c ∈ bs.mapIdx (fun i b => (q + i, b)) → q ≤ c.1 ∧ c.1 < q + bs.length := by
    intro c hc
    obtain ⟨i, hi, rfl⟩ := List.mem_mapIdx.mp hc
    exact ⟨by simp, by simpa using hi⟩
  rw [List.pairwise_append, List.pairwise_append]
  refine ⟨⟨h.filter _, pairwise_run q bs, ?_⟩, h.filter _, ?_⟩
  · intro a ha b hb
    have h1 := (List.mem_filter.mp ha).2
    have h2 := (hrun b hb).1
    simp only [decide_eq_true_eq] at h1
    omega
  · intro a ha b hb
    have h1 := (List.mem_filter.mp hb).2
    simp only [decide_eq_true_eq] at h1
    rcases List.mem_append.mp ha with ha | ha
    · have h2 := (List.mem_filter.mp ha).2
      simp only [decide_eq_true_eq] at h2
      omega
    · have := (hrun a ha).2
      omega

/-- Firmware's writes of tables keep the canonical form. -/
theorem Memory.wf_writeTables {m : Memory} (h : m.wf = true) (ws : List (Nat × D64)) : (writeTables m ws).wf = true := by
  unfold writeTables
  induction ws generalizing m with
  | nil => exact h
  | cons w t ih => exact ih (Memory.wf_putN h _ _)

/-- A read of the byte just written. -/
@[simp] theorem Memory.get_put_self (m : Memory) (q : Nat) (x : Byte) : (m.put q x).get q = some x := by
  induction m with
  | nil => simp [Memory.put, Memory.get]
  | cons e t ih =>
    obtain ⟨a, b⟩ := e
    unfold Memory.put
    split
    · simp [Memory.get]
    · split
      · simp [Memory.get]
      · next h1 h2 => simp [Memory.get, h1, h2, ih]

/-- A write leaves every other byte alone. -/
theorem Memory.get_put_ne (m : Memory) {q r : Nat} (x : Byte) (h : r ≠ q) : (m.put q x).get r = m.get r := by
  induction m with
  | nil =>
    simp only [Memory.put, Memory.get]
    rw [if_neg (Ne.symm h)]; split <;> rfl
  | cons e t ih =>
    obtain ⟨a, b⟩ := e
    unfold Memory.put
    split
    · next hq =>
      subst hq
      simp only [Memory.get]
      rw [if_neg (Ne.symm h), if_neg (Ne.symm h)]
    · next hq =>
      split
      · next hlt =>
        simp only [Memory.get]
        rw [if_neg (Ne.symm h)]
        by_cases h1 : r < q
        · rw [if_pos h1]
          have : a ≠ r := by omega
          have : r < a := by omega
          simp [*]
        · rw [if_neg h1]
      · simp only [Memory.get]
        split
        · rfl
        · split
          · rfl
          · exact ih

/-- Consecutive writes leave every byte outside them alone. -/
theorem Memory.get_putN_ne (m : Memory) {q r : Nat} (l : List Byte) (h : r < q ∨ q + l.length ≤ r) :
    (m.putN q l).get r = m.get r := by
  induction l generalizing m q with
  | nil => rfl
  | cons x t ih =>
    simp only [List.length_cons] at h
    rw [Memory.putN, ih _ (by omega), Memory.get_put_ne _ _ (by omega)]

/-- Consecutive writes are read back. -/
theorem Memory.get_putN (m : Memory) (q : Nat) (l : List Byte) (i : Nat) (h : i < l.length) :
    (m.putN q l).get (q + i) = some l[i] := by
  induction l generalizing m q i with
  | nil => simp at h
  | cons x t ih =>
    cases i with
    | zero =>
      rw [Memory.putN, Nat.add_zero, Memory.get_putN_ne _ _ (by omega)]
      simp
    | succ i =>
      have := ih (m.put q x) (q + 1) i (by simpa using h)
      rw [Memory.putN, show q + (i + 1) = q + 1 + i by omega, this]
      rfl

end Sys2Proof.Machine
end

