-- ==== Sys2Proof/Laws/PerInstr.lean ====
section
/-! SUPPORT. One lemma per instruction: the word of an instruction has a major of R57's table, and so it is never taken for a
clause header (R41), whatever its operands. An event has no word. -/

namespace Sys2Proof.Laws

open Machine

/-- The major of a word, as arithmetic. -/
theorem majorOf_eq (w : W32) : majorOf w = w.toNat / 2 ^ 27 % 32 := by
  unfold majorOf fld; simp [BitVec.extractLsb'_toNat, Nat.shiftRight_eq_div_pow]

/-- The first five bits of a bit vector, as a number. -/
def Top (n : Nat) (x : BitVec n) (m : Nat) : Prop := 5 ≤ n ∧ x.toNat / 2 ^ (n - 5) = m

theorem top_self (m : BitVec 5) : Top 5 m m.toNat := ⟨Nat.le_refl _, by simp⟩

theorem top_append {n k m : Nat} {x : BitVec n} {y : BitVec k} (h : Top n x m) : Top (n + k) (x ++ y) m := by
  refine ⟨by have := h.1; omega, ?_⟩
  have e : n + k - 5 = k + (n - 5) := by have := h.1; omega
  rw [e, BitVec.toNat_append, Nat.pow_add, ← Nat.div_div_eq_div_mul, Nat.shiftLeft_eq, Nat.mul_comm,
    ← Nat.two_pow_add_eq_or_of_lt y.isLt, Nat.mul_add_div (Nat.two_pow_pos k), Nat.div_eq_of_lt y.isLt, Nat.add_zero]
  exact h.2

theorem top_major {w : W32} {m : Nat} (h : Top 32 w m) : majorOf w = m := by
  have l := w.isLt; have e := h.2; norm_num at l e; rw [majorOf_eq]; omega

/-! ### The formats -/

theorem v3_pack_major (m : BitVec 5) (f : BitVec 5) (o : V3) : majorOf (o.pack m f) = m.toNat := by
  unfold V3.pack
  exact top_major (top_append (k := 2) (top_append (k := 1) (top_append (k := 1) (top_append (k := 6) (top_append (k := 6) (top_append (k := 6) (top_append (k := 5) (top_self _))))))))

theorem v3U_pack_major (m : BitVec 5) (f : BitVec 5) (o : V3U) : majorOf (o.pack m f) = m.toNat := by
  unfold V3U.pack
  exact top_major (top_append (k := 1) (top_append (k := 2) (top_append (k := 1) (top_append (k := 6) (top_append (k := 6) (top_append (k := 6) (top_append (k := 5) (top_self _))))))))

theorem vI_pack_major (m : BitVec 5) (f : BitVec 5) (o : VI) : majorOf (o.pack m f) = m.toNat := by
  unfold VI.pack
  exact top_major (top_append (k := 10) (top_append (k := 6) (top_append (k := 6) (top_append (k := 5) (top_self _)))))

theorem shI_pack_major (m : BitVec 5) (f : BitVec 5) (o : ShI) : majorOf (o.pack m f) = m.toNat := by
  unfold ShI.pack
  exact top_major (top_append (k := 5) (top_append (k := 5) (top_append (k := 6) (top_append (k := 6) (top_append (k := 5) (top_self _))))))

theorem v4_pack_major (m : BitVec 5) (f : BitVec 3) (o : V4) : majorOf (o.pack m f) = m.toNat := by
  unfold V4.pack
  exact top_major (top_append (k := 6) (top_append (k := 6) (top_append (k := 6) (top_append (k := 6) (top_append (k := 3) (top_self _))))))

theorem cvt_pack_major (m : BitVec 5) (f : BitVec 5) (o : Cvt) : majorOf (o.pack m f) = m.toNat := by
  unfold Cvt.pack
  exact top_major (top_append (k := 1) (top_append (k := 2) (top_append (k := 1) (top_append (k := 6) (top_append (k := 6) (top_append (k := 6) (top_append (k := 5) (top_self _))))))))

theorem cmp_pack_major (m : BitVec 5) (f : BitVec 5) (o : Cmp) : majorOf (o.pack m f) = m.toNat := by
  unfold Cmp.pack
  exact top_major (top_append (k := 2) (top_append (k := 1) (top_append (k := 1) (top_append (k := 6) (top_append (k := 6) (top_append (k := 3) (top_append (k := 3) (top_append (k := 5) (top_self _)))))))))

theorem plop_pack_major (m : BitVec 5) (f : BitVec 5) (o : Plop) : majorOf (o.pack m f) = m.toNat := by
  unfold Plop.pack
  exact top_major (top_append (k := 2) (top_append (k := 1) (top_append (k := 1) (top_append (k := 3) (top_append (k := 3) (top_append (k := 3) (top_append (k := 3) (top_append (k := 3) (top_append (k := 3) (top_append (k := 5) (top_self _)))))))))))

theorem sel_pack_major (m : BitVec 5) (f : BitVec 5) (o : Sel) : majorOf (o.pack m f) = m.toNat := by
  unfold Sel.pack
  exact top_major (top_append (k := 1) (top_append (k := 3) (top_append (k := 6) (top_append (k := 6) (top_append (k := 6) (top_append (k := 5) (top_self _)))))))

theorem mI_pack_major (m : BitVec 5) (f : BitVec 5) (o : MI) : majorOf (o.pack m f) = m.toNat := by
  unfold MI.pack
  exact top_major (top_append (k := 16) (top_append (k := 6) (top_append (k := 5) (top_self _))))

theorem sMI_pack_major (m : BitVec 5) (f : BitVec 5) (o : SMI) : majorOf (o.pack m f) = m.toNat := by
  unfold SMI.pack
  exact top_major (top_append (k := 16) (top_append (k := 5) (top_append (k := 1) (top_append (k := 5) (top_self _)))))

theorem bcast_pack_major (m : BitVec 5) (f : BitVec 5) (o : Bcast) : majorOf (o.pack m f) = m.toNat := by
  unfold Bcast.pack
  exact top_major (top_append (k := 5) (top_append (k := 1) (top_append (k := 10) (top_append (k := 6) (top_append (k := 5) (top_self _))))))

theorem laneGet_pack_major (m : BitVec 5) (f : BitVec 5) (o : LaneGet) : majorOf (o.pack m f) = m.toNat := by
  unfold LaneGet.pack
  exact top_major (top_append (k := 6) (top_append (k := 6) (top_append (k := 4) (top_append (k := 5) (top_append (k := 1) (top_append (k := 5) (top_self _)))))))

theorem vote_pack_major (m : BitVec 5) (f : BitVec 5) (o : Vote) : majorOf (o.pack m f) = m.toNat := by
  unfold Vote.pack
  exact top_major (top_append (k := 3) (top_append (k := 1) (top_append (k := 6) (top_append (k := 3) (top_append (k := 3) (top_append (k := 3) (top_append (k := 3) (top_append (k := 5) (top_self _)))))))))

theorem ballot_pack_major (m : BitVec 5) (f : BitVec 5) (o : Ballot) : majorOf (o.pack m f) = m.toNat := by
  unfold Ballot.pack
  exact top_major (top_append (k := 3) (top_append (k := 1) (top_append (k := 6) (top_append (k := 3) (top_append (k := 3) (top_append (k := 6) (top_append (k := 5) (top_self _))))))))

theorem s3_pack_major (m : BitVec 5) (f : BitVec 5) (o : S3) : majorOf (o.pack m f) = m.toNat := by
  unfold S3.pack
  exact top_major (top_append (k := 2) (top_append (k := 1) (top_append (k := 1) (top_append (k := 5) (top_append (k := 1) (top_append (k := 5) (top_append (k := 1) (top_append (k := 5) (top_append (k := 1) (top_append (k := 5) (top_self _)))))))))))

theorem sI_pack_major (m : BitVec 5) (f : BitVec 5) (o : SI) : majorOf (o.pack m f) = m.toNat := by
  unfold SI.pack
  exact top_major (top_append (k := 10) (top_append (k := 5) (top_append (k := 1) (top_append (k := 5) (top_append (k := 1) (top_append (k := 5) (top_self _)))))))

theorem ld_pack_major (m : BitVec 5) (f : BitVec 4) (o : Ld) : majorOf (o.pack m f) = m.toNat := by
  unfold Ld.pack
  exact top_major (top_append (k := 5) (top_append (k := 1) (top_append (k := 6) (top_append (k := 5) (top_append (k := 6) (top_append (k := 4) (top_self _)))))))

theorem sld_pack_major (m : BitVec 5) (f : BitVec 4) (o : Sld) : majorOf (o.pack m f) = m.toNat := by
  unfold Sld.pack
  exact top_major (top_append (k := 5) (top_append (k := 7) (top_append (k := 5) (top_append (k := 5) (top_append (k := 1) (top_append (k := 4) (top_self _)))))))

theorem ldD_pack_major (m : BitVec 5) (f : BitVec 4) (o : LdD) : majorOf (o.pack m f) = m.toNat := by
  unfold LdD.pack
  exact top_major (top_append (k := 5) (top_append (k := 1) (top_append (k := 6) (top_append (k := 5) (top_append (k := 4) (top_append (k := 2) (top_append (k := 4) (top_self _))))))))

theorem ldW_pack_major (m : BitVec 5) (f : BitVec 4) (o : LdW) : majorOf (o.pack m f) = m.toNat := by
  unfold LdW.pack
  exact top_major (top_append (k := 5) (top_append (k := 1) (top_append (k := 6) (top_append (k := 5) (top_append (k := 5) (top_append (k := 1) (top_append (k := 4) (top_self _))))))))

theorem pf_pack_major (m : BitVec 5) (f : BitVec 4) (o : Pf) : majorOf (o.pack m f) = m.toNat := by
  unfold Pf.pack
  exact top_major (top_append (k := 5) (top_append (k := 1) (top_append (k := 6) (top_append (k := 5) (top_append (k := 6) (top_append (k := 4) (top_self _)))))))

theorem st_pack_major (m : BitVec 5) (f : BitVec 4) (o : St) : majorOf (o.pack m f) = m.toNat := by
  unfold St.pack
  exact top_major (top_append (k := 5) (top_append (k := 1) (top_append (k := 6) (top_append (k := 5) (top_append (k := 6) (top_append (k := 4) (top_self _)))))))

theorem sst_pack_major (m : BitVec 5) (f : BitVec 4) (o : Sst) : majorOf (o.pack m f) = m.toNat := by
  unfold Sst.pack
  exact top_major (top_append (k := 5) (top_append (k := 1) (top_append (k := 6) (top_append (k := 5) (top_append (k := 5) (top_append (k := 1) (top_append (k := 4) (top_self _))))))))

theorem stD_pack_major (m : BitVec 5) (f : BitVec 4) (o : StD) : majorOf (o.pack m f) = m.toNat := by
  unfold StD.pack
  exact top_major (top_append (k := 5) (top_append (k := 1) (top_append (k := 6) (top_append (k := 5) (top_append (k := 4) (top_append (k := 2) (top_append (k := 4) (top_self _))))))))

theorem stW_pack_major (m : BitVec 5) (f : BitVec 4) (o : StW) : majorOf (o.pack m f) = m.toNat := by
  unfold StW.pack
  exact top_major (top_append (k := 5) (top_append (k := 1) (top_append (k := 6) (top_append (k := 5) (top_append (k := 5) (top_append (k := 1) (top_append (k := 4) (top_self _))))))))

namespace WordIsNoHeader

/-- The word of the instruction, if it has one, has a major from 0 to 26. -/
def Statement (i : Instr) : Prop := ∀ w, encode i = some w → majorOf w ≤ 26 ∧ isHeader w = false

/-- A major from 0 to 26 is not the header's. -/
theorem of_major {i : Instr} {w : W32} {m : Nat} (h : encode i = some w) (e : majorOf w = m) (l : m ≤ 26) : Statement i := by
  intro x hx
  obtain rfl : w = x := Option.some.inj (h.symm.trans hx)
  exact ⟨by omega, by unfold isHeader; simp; omega⟩

/-- An event has no word. -/
theorem of_none {i : Instr} (h : encode i = none) : Statement i := fun w e => by rw [h] at e; cases e

theorem iadd (o : V3) : Statement (.iadd o) := of_major rfl (v3_pack_major _ _ _) (by decide)
theorem isub (o : V3) : Statement (.isub o) := of_major rfl (v3_pack_major _ _ _) (by decide)
theorem imul (o : V3) : Statement (.imul o) := of_major rfl (v3_pack_major _ _ _) (by decide)
theorem imulhS (o : V3) : Statement (.imulhS o) := of_major rfl (v3_pack_major _ _ _) (by decide)
theorem imulhZ (o : V3) : Statement (.imulhZ o) := of_major rfl (v3_pack_major _ _ _) (by decide)
theorem iminS (o : V3) : Statement (.iminS o) := of_major rfl (v3_pack_major _ _ _) (by decide)
theorem iminZ (o : V3) : Statement (.iminZ o) := of_major rfl (v3_pack_major _ _ _) (by decide)
theorem imaxS (o : V3) : Statement (.imaxS o) := of_major rfl (v3_pack_major _ _ _) (by decide)
theorem imaxZ (o : V3) : Statement (.imaxZ o) := of_major rfl (v3_pack_major _ _ _) (by decide)
theorem iabsdS (o : V3) : Statement (.iabsdS o) := of_major rfl (v3_pack_major _ _ _) (by decide)
theorem and (o : V3) : Statement (.and o) := of_major rfl (v3_pack_major _ _ _) (by decide)
theorem or (o : V3) : Statement (.or o) := of_major rfl (v3_pack_major _ _ _) (by decide)
theorem xor (o : V3) : Statement (.xor o) := of_major rfl (v3_pack_major _ _ _) (by decide)
theorem andn (o : V3) : Statement (.andn o) := of_major rfl (v3_pack_major _ _ _) (by decide)
theorem shl (o : V3) : Statement (.shl o) := of_major rfl (v3_pack_major _ _ _) (by decide)
theorem shrZ (o : V3) : Statement (.shrZ o) := of_major rfl (v3_pack_major _ _ _) (by decide)
theorem shrS (o : V3) : Statement (.shrS o) := of_major rfl (v3_pack_major _ _ _) (by decide)
theorem rotl (o : V3) : Statement (.rotl o) := of_major rfl (v3_pack_major _ _ _) (by decide)
theorem popc (o : V3U) : Statement (.popc o) := of_major rfl (v3U_pack_major _ _ _) (by decide)
theorem clz (o : V3U) : Statement (.clz o) := of_major rfl (v3U_pack_major _ _ _) (by decide)
theorem brev (o : V3U) : Statement (.brev o) := of_major rfl (v3U_pack_major _ _ _) (by decide)
theorem bfxS (o : V3) : Statement (.bfxS o) := of_major rfl (v3_pack_major _ _ _) (by decide)
theorem bfxZ (o : V3) : Statement (.bfxZ o) := of_major rfl (v3_pack_major _ _ _) (by decide)
theorem prmt (o : V3) : Statement (.prmt o) := of_major rfl (v3_pack_major _ _ _) (by decide)
theorem iadd64 (o : V3) : Statement (.iadd64 o) := of_major rfl (v3_pack_major _ _ _) (by decide)
theorem isub64 (o : V3) : Statement (.isub64 o) := of_major rfl (v3_pack_major _ _ _) (by decide)
theorem shl64 (o : V3) : Statement (.shl64 o) := of_major rfl (v3_pack_major _ _ _) (by decide)
theorem shr64Z (o : V3) : Statement (.shr64Z o) := of_major rfl (v3_pack_major _ _ _) (by decide)
theorem shr64S (o : V3) : Statement (.shr64S o) := of_major rfl (v3_pack_major _ _ _) (by decide)
theorem iaddsatS (o : V3) : Statement (.iaddsatS o) := of_major rfl (v3_pack_major _ _ _) (by decide)
theorem iaddi (o : VI) : Statement (.iaddi o) := of_major rfl (vI_pack_major _ _ _) (by decide)
theorem imuli (o : VI) : Statement (.imuli o) := of_major rfl (vI_pack_major _ _ _) (by decide)
theorem andi (o : VI) : Statement (.andi o) := of_major rfl (vI_pack_major _ _ _) (by decide)
theorem ori (o : VI) : Statement (.ori o) := of_major rfl (vI_pack_major _ _ _) (by decide)
theorem xori (o : VI) : Statement (.xori o) := of_major rfl (vI_pack_major _ _ _) (by decide)
theorem shli (o : ShI) : Statement (.shli o) := of_major rfl (shI_pack_major _ _ _) (by decide)
theorem shriZ (o : ShI) : Statement (.shriZ o) := of_major rfl (shI_pack_major _ _ _) (by decide)
theorem shriS (o : ShI) : Statement (.shriS o) := of_major rfl (shI_pack_major _ _ _) (by decide)
theorem iminiS (o : VI) : Statement (.iminiS o) := of_major rfl (vI_pack_major _ _ _) (by decide)
theorem imaxiS (o : VI) : Statement (.imaxiS o) := of_major rfl (vI_pack_major _ _ _) (by decide)
theorem fadd (o : V3) : Statement (.fadd o) := of_major rfl (v3_pack_major _ _ _) (by decide)
theorem fsub (o : V3) : Statement (.fsub o) := of_major rfl (v3_pack_major _ _ _) (by decide)
theorem fmul (o : V3) : Statement (.fmul o) := of_major rfl (v3_pack_major _ _ _) (by decide)
theorem fmin (o : V3) : Statement (.fmin o) := of_major rfl (v3_pack_major _ _ _) (by decide)
theorem fmax (o : V3) : Statement (.fmax o) := of_major rfl (v3_pack_major _ _ _) (by decide)
theorem fminn (o : V3) : Statement (.fminn o) := of_major rfl (v3_pack_major _ _ _) (by decide)
theorem fmaxn (o : V3) : Statement (.fmaxn o) := of_major rfl (v3_pack_major _ _ _) (by decide)
theorem fabs (o : V3U) : Statement (.fabs o) := of_major rfl (v3U_pack_major _ _ _) (by decide)
theorem fneg (o : V3U) : Statement (.fneg o) := of_major rfl (v3U_pack_major _ _ _) (by decide)
theorem fcpys (o : V3) : Statement (.fcpys o) := of_major rfl (v3_pack_major _ _ _) (by decide)
theorem frint (o : V3U) : Statement (.frint o) := of_major rfl (v3U_pack_major _ _ _) (by decide)
theorem ffloor (o : V3U) : Statement (.ffloor o) := of_major rfl (v3U_pack_major _ _ _) (by decide)
theorem fceil (o : V3U) : Statement (.fceil o) := of_major rfl (v3U_pack_major _ _ _) (by decide)
theorem ftrunc (o : V3U) : Statement (.ftrunc o) := of_major rfl (v3U_pack_major _ _ _) (by decide)
theorem fldexp (o : V3) : Statement (.fldexp o) := of_major rfl (v3_pack_major _ _ _) (by decide)
theorem fexpo (o : V3U) : Statement (.fexpo o) := of_major rfl (v3U_pack_major _ _ _) (by decide)
theorem fclass (o : V3U) : Statement (.fclass o) := of_major rfl (v3U_pack_major _ _ _) (by decide)
theorem hadd2 (o : V3) : Statement (.hadd2 o) := of_major rfl (v3_pack_major _ _ _) (by decide)
theorem hsub2 (o : V3) : Statement (.hsub2 o) := of_major rfl (v3_pack_major _ _ _) (by decide)
theorem hmul2 (o : V3) : Statement (.hmul2 o) := of_major rfl (v3_pack_major _ _ _) (by decide)
theorem hmin2 (o : V3) : Statement (.hmin2 o) := of_major rfl (v3_pack_major _ _ _) (by decide)
theorem hmax2 (o : V3) : Statement (.hmax2 o) := of_major rfl (v3_pack_major _ _ _) (by decide)
theorem badd2 (o : V3) : Statement (.badd2 o) := of_major rfl (v3_pack_major _ _ _) (by decide)
theorem bsub2 (o : V3) : Statement (.bsub2 o) := of_major rfl (v3_pack_major _ _ _) (by decide)
theorem bmul2 (o : V3) : Statement (.bmul2 o) := of_major rfl (v3_pack_major _ _ _) (by decide)
theorem bmin2 (o : V3) : Statement (.bmin2 o) := of_major rfl (v3_pack_major _ _ _) (by decide)
theorem bmax2 (o : V3) : Statement (.bmax2 o) := of_major rfl (v3_pack_major _ _ _) (by decide)
theorem faddF64 (o : V3) : Statement (.faddF64 o) := of_major rfl (v3_pack_major _ _ _) (by decide)
theorem fsubF64 (o : V3) : Statement (.fsubF64 o) := of_major rfl (v3_pack_major _ _ _) (by decide)
theorem fmulF64 (o : V3) : Statement (.fmulF64 o) := of_major rfl (v3_pack_major _ _ _) (by decide)
theorem fminF64 (o : V3) : Statement (.fminF64 o) := of_major rfl (v3_pack_major _ _ _) (by decide)
theorem fmaxF64 (o : V3) : Statement (.fmaxF64 o) := of_major rfl (v3_pack_major _ _ _) (by decide)
theorem fabsF64 (o : V3U) : Statement (.fabsF64 o) := of_major rfl (v3U_pack_major _ _ _) (by decide)
theorem fnegF64 (o : V3U) : Statement (.fnegF64 o) := of_major rfl (v3U_pack_major _ _ _) (by decide)
theorem fdivF64 (o : V3) : Statement (.fdivF64 o) := of_major rfl (v3_pack_major _ _ _) (by decide)
theorem fsqrtF64 (o : V3U) : Statement (.fsqrtF64 o) := of_major rfl (v3U_pack_major _ _ _) (by decide)
theorem fma (o : V4) : Statement (.fma o) := of_major rfl (v4_pack_major _ _ _) (by decide)
theorem fms (o : V4) : Statement (.fms o) := of_major rfl (v4_pack_major _ _ _) (by decide)
theorem fnma (o : V4) : Statement (.fnma o) := of_major rfl (v4_pack_major _ _ _) (by decide)
theorem fmaF64 (o : V4) : Statement (.fmaF64 o) := of_major rfl (v4_pack_major _ _ _) (by decide)
theorem hfma2 (o : V4) : Statement (.hfma2 o) := of_major rfl (v4_pack_major _ _ _) (by decide)
theorem bfma2 (o : V4) : Statement (.bfma2 o) := of_major rfl (v4_pack_major _ _ _) (by decide)
theorem imad (o : V4) : Statement (.imad o) := of_major rfl (v4_pack_major _ _ _) (by decide)
theorem bfi (o : V4) : Statement (.bfi o) := of_major rfl (v4_pack_major _ _ _) (by decide)
theorem cvtF32S32 (o : Cvt) : Statement (.cvtF32S32 o) := of_major rfl (cvt_pack_major _ _ _) (by decide)
theorem cvtF32Z32 (o : Cvt) : Statement (.cvtF32Z32 o) := of_major rfl (cvt_pack_major _ _ _) (by decide)
theorem cvtS32F32 (o : Cvt) : Statement (.cvtS32F32 o) := of_major rfl (cvt_pack_major _ _ _) (by decide)
theorem cvtZ32F32 (o : Cvt) : Statement (.cvtZ32F32 o) := of_major rfl (cvt_pack_major _ _ _) (by decide)
theorem cvtF32F16 (o : Cvt) : Statement (.cvtF32F16 o) := of_major rfl (cvt_pack_major _ _ _) (by decide)
theorem cvtF16F32 (o : Cvt) : Statement (.cvtF16F32 o) := of_major rfl (cvt_pack_major _ _ _) (by decide)
theorem cvtF32B16 (o : Cvt) : Statement (.cvtF32B16 o) := of_major rfl (cvt_pack_major _ _ _) (by decide)
theorem cvtB16F32 (o : Cvt) : Statement (.cvtB16F32 o) := of_major rfl (cvt_pack_major _ _ _) (by decide)
theorem cvtF64F32 (o : Cvt) : Statement (.cvtF64F32 o) := of_major rfl (cvt_pack_major _ _ _) (by decide)
theorem cvtF32F64 (o : Cvt) : Statement (.cvtF32F64 o) := of_major rfl (cvt_pack_major _ _ _) (by decide)
theorem cvtF64S64 (o : Cvt) : Statement (.cvtF64S64 o) := of_major rfl (cvt_pack_major _ _ _) (by decide)
theorem cvtS64F64 (o : Cvt) : Statement (.cvtS64F64 o) := of_major rfl (cvt_pack_major _ _ _) (by decide)
theorem packF16 (o : Cvt) : Statement (.packF16 o) := of_major rfl (cvt_pack_major _ _ _) (by decide)
theorem packB16 (o : Cvt) : Statement (.packB16 o) := of_major rfl (cvt_pack_major _ _ _) (by decide)
theorem frcp (o : V3U) : Statement (.frcp o) := of_major rfl (v3U_pack_major _ _ _) (by decide)
theorem frsq (o : V3U) : Statement (.frsq o) := of_major rfl (v3U_pack_major _ _ _) (by decide)
theorem fsqrt (o : V3U) : Statement (.fsqrt o) := of_major rfl (v3U_pack_major _ _ _) (by decide)
theorem fdiv (o : V3) : Statement (.fdiv o) := of_major rfl (v3_pack_major _ _ _) (by decide)
theorem fexp2 (o : V3U) : Statement (.fexp2 o) := of_major rfl (v3U_pack_major _ _ _) (by decide)
theorem flog2 (o : V3U) : Statement (.flog2 o) := of_major rfl (v3U_pack_major _ _ _) (by decide)
theorem fsinpi (o : V3U) : Statement (.fsinpi o) := of_major rfl (v3U_pack_major _ _ _) (by decide)
theorem fcospi (o : V3U) : Statement (.fcospi o) := of_major rfl (v3U_pack_major _ _ _) (by decide)
theorem ftanh (o : V3U) : Statement (.ftanh o) := of_major rfl (v3U_pack_major _ _ _) (by decide)
theorem fset (o : Cmp) : Statement (.fset o) := of_major rfl (cmp_pack_major _ _ _) (by decide)
theorem fsetF64 (o : Cmp) : Statement (.fsetF64 o) := of_major rfl (cmp_pack_major _ _ _) (by decide)
theorem iset (o : Cmp) : Statement (.iset o) := of_major rfl (cmp_pack_major _ _ _) (by decide)
theorem iset64 (o : Cmp) : Statement (.iset64 o) := of_major rfl (cmp_pack_major _ _ _) (by decide)
theorem plop (o : Plop) : Statement (.plop o) := of_major rfl (plop_pack_major _ _ _) (by decide)
theorem sel (o : Sel) : Statement (.sel o) := of_major rfl (sel_pack_major _ _ _) (by decide)
theorem movlo (o : MI) : Statement (.movlo o) := of_major rfl (mI_pack_major _ _ _) (by decide)
theorem movhi (o : MI) : Statement (.movhi o) := of_major rfl (mI_pack_major _ _ _) (by decide)
theorem smovlo (o : SMI) : Statement (.smovlo o) := of_major rfl (sMI_pack_major _ _ _) (by decide)
theorem smovhi (o : SMI) : Statement (.smovhi o) := of_major rfl (sMI_pack_major _ _ _) (by decide)
theorem smovh2 (o : SMI) : Statement (.smovh2 o) := of_major rfl (sMI_pack_major _ _ _) (by decide)
theorem smovh3 (o : SMI) : Statement (.smovh3 o) := of_major rfl (sMI_pack_major _ _ _) (by decide)
theorem bcast (o : Bcast) : Statement (.bcast o) := of_major rfl (bcast_pack_major _ _ _) (by decide)
theorem laneget (o : LaneGet) : Statement (.laneget o) := of_major rfl (laneGet_pack_major _ _ _) (by decide)
theorem shflIdx (o : V3) : Statement (.shflIdx o) := of_major rfl (v3_pack_major _ _ _) (by decide)
theorem shflUp (o : V3) : Statement (.shflUp o) := of_major rfl (v3_pack_major _ _ _) (by decide)
theorem shflDown (o : V3) : Statement (.shflDown o) := of_major rfl (v3_pack_major _ _ _) (by decide)
theorem shflXor (o : V3) : Statement (.shflXor o) := of_major rfl (v3_pack_major _ _ _) (by decide)
theorem voteAny (o : Vote) : Statement (.voteAny o) := of_major rfl (vote_pack_major _ _ _) (by decide)
theorem voteAll (o : Vote) : Statement (.voteAll o) := of_major rfl (vote_pack_major _ _ _) (by decide)
theorem ballot (o : Ballot) : Statement (.ballot o) := of_major rfl (ballot_pack_major _ _ _) (by decide)
theorem gredAdd (o : V3U) : Statement (.gredAdd o) := of_major rfl (v3U_pack_major _ _ _) (by decide)
theorem gredMaxS (o : V3U) : Statement (.gredMaxS o) := of_major rfl (v3U_pack_major _ _ _) (by decide)
theorem gredFadd (o : V3U) : Statement (.gredFadd o) := of_major rfl (v3U_pack_major _ _ _) (by decide)
theorem gscanAdd (o : V3U) : Statement (.gscanAdd o) := of_major rfl (v3U_pack_major _ _ _) (by decide)
theorem sadd (o : S3) : Statement (.sadd o) := of_major rfl (s3_pack_major _ _ _) (by decide)
theorem ssub (o : S3) : Statement (.ssub o) := of_major rfl (s3_pack_major _ _ _) (by decide)
theorem smul (o : S3) : Statement (.smul o) := of_major rfl (s3_pack_major _ _ _) (by decide)
theorem sand (o : S3) : Statement (.sand o) := of_major rfl (s3_pack_major _ _ _) (by decide)
theorem sor (o : S3) : Statement (.sor o) := of_major rfl (s3_pack_major _ _ _) (by decide)
theorem sxor (o : S3) : Statement (.sxor o) := of_major rfl (s3_pack_major _ _ _) (by decide)
theorem sshl (o : S3) : Statement (.sshl o) := of_major rfl (s3_pack_major _ _ _) (by decide)
theorem sshrZ (o : S3) : Statement (.sshrZ o) := of_major rfl (s3_pack_major _ _ _) (by decide)
theorem sshrS (o : S3) : Statement (.sshrS o) := of_major rfl (s3_pack_major _ _ _) (by decide)
theorem sminS (o : S3) : Statement (.sminS o) := of_major rfl (s3_pack_major _ _ _) (by decide)
theorem smaxS (o : S3) : Statement (.smaxS o) := of_major rfl (s3_pack_major _ _ _) (by decide)
theorem sseteq (o : S3) : Statement (.sseteq o) := of_major rfl (s3_pack_major _ _ _) (by decide)
theorem ssetltS (o : S3) : Statement (.ssetltS o) := of_major rfl (s3_pack_major _ _ _) (by decide)
theorem ssetltZ (o : S3) : Statement (.ssetltZ o) := of_major rfl (s3_pack_major _ _ _) (by decide)
theorem saddi (o : SI) : Statement (.saddi o) := of_major rfl (sI_pack_major _ _ _) (by decide)
theorem ldS8 (o : Ld) : Statement (.ldS8 o) := of_major rfl (ld_pack_major _ _ _) (by decide)
theorem ldZ8 (o : Ld) : Statement (.ldZ8 o) := of_major rfl (ld_pack_major _ _ _) (by decide)
theorem ldS16 (o : Ld) : Statement (.ldS16 o) := of_major rfl (ld_pack_major _ _ _) (by decide)
theorem ldZ16 (o : Ld) : Statement (.ldZ16 o) := of_major rfl (ld_pack_major _ _ _) (by decide)
theorem ldB32 (o : Ld) : Statement (.ldB32 o) := of_major rfl (ld_pack_major _ _ _) (by decide)
theorem ldB64 (o : Ld) : Statement (.ldB64 o) := of_major rfl (ld_pack_major _ _ _) (by decide)
theorem ldB128 (o : Ld) : Statement (.ldB128 o) := of_major rfl (ld_pack_major _ _ _) (by decide)
theorem sldB64 (o : Sld) : Statement (.sldB64 o) := of_major rfl (sld_pack_major _ _ _) (by decide)
theorem dld (o : LdD) : Statement (.dld o) := of_major rfl (ldD_pack_major _ _ _) (by decide)
theorem wld (o : LdW) : Statement (.wld o) := of_major rfl (ldW_pack_major _ _ _) (by decide)
theorem wlds (o : LdW) : Statement (.wlds o) := of_major rfl (ldW_pack_major _ _ _) (by decide)
theorem prf (o : Pf) : Statement (.prf o) := of_major rfl (pf_pack_major _ _ _) (by decide)
theorem stB8 (o : St) : Statement (.stB8 o) := of_major rfl (st_pack_major _ _ _) (by decide)
theorem stB16 (o : St) : Statement (.stB16 o) := of_major rfl (st_pack_major _ _ _) (by decide)
theorem stB32 (o : St) : Statement (.stB32 o) := of_major rfl (st_pack_major _ _ _) (by decide)
theorem stB64 (o : St) : Statement (.stB64 o) := of_major rfl (st_pack_major _ _ _) (by decide)
theorem stB128 (o : St) : Statement (.stB128 o) := of_major rfl (st_pack_major _ _ _) (by decide)
theorem sstB64 (o : Sst) : Statement (.sstB64 o) := of_major rfl (sst_pack_major _ _ _) (by decide)
theorem dst (o : StD) : Statement (.dst o) := of_major rfl (stD_pack_major _ _ _) (by decide)
theorem wst (o : StW) : Statement (.wst o) := of_major rfl (stW_pack_major _ _ _) (by decide)
theorem wsts (o : StW) : Statement (.wsts o) := of_major rfl (stW_pack_major _ _ _) (by decide)
theorem atomAddB32 (o : St) : Statement (.atomAddB32 o) := of_major rfl (st_pack_major _ _ _) (by decide)
theorem atomAddB64 (o : St) : Statement (.atomAddB64 o) := of_major rfl (st_pack_major _ _ _) (by decide)
theorem atomFaddF32 (o : St) : Statement (.atomFaddF32 o) := of_major rfl (st_pack_major _ _ _) (by decide)
theorem atomMinS32 (o : St) : Statement (.atomMinS32 o) := of_major rfl (st_pack_major _ _ _) (by decide)
theorem atomMaxS32 (o : St) : Statement (.atomMaxS32 o) := of_major rfl (st_pack_major _ _ _) (by decide)
theorem atomMinZ32 (o : St) : Statement (.atomMinZ32 o) := of_major rfl (st_pack_major _ _ _) (by decide)
theorem atomMaxZ32 (o : St) : Statement (.atomMaxZ32 o) := of_major rfl (st_pack_major _ _ _) (by decide)
theorem atomAndB32 (o : St) : Statement (.atomAndB32 o) := of_major rfl (st_pack_major _ _ _) (by decide)
theorem atomOrB32 (o : St) : Statement (.atomOrB32 o) := of_major rfl (st_pack_major _ _ _) (by decide)
theorem atomXorB32 (o : St) : Statement (.atomXorB32 o) := of_major rfl (st_pack_major _ _ _) (by decide)
theorem atomExchB32 (o : St) : Statement (.atomExchB32 o) := of_major rfl (st_pack_major _ _ _) (by decide)
theorem atomExchB64 (o : St) : Statement (.atomExchB64 o) := of_major rfl (st_pack_major _ _ _) (by decide)
theorem atomCasB32 (o : St) : Statement (.atomCasB32 o) := of_major rfl (st_pack_major _ _ _) (by decide)
theorem atomCasB64 (o : St) : Statement (.atomCasB64 o) := of_major rfl (st_pack_major _ _ _) (by decide)
theorem atomIncZ32 (o : St) : Statement (.atomIncZ32 o) := of_major rfl (st_pack_major _ _ _) (by decide)
theorem fenceHost : Statement .fenceHost := of_major (m := 15) rfl (top_major (top_append (k := 23) (top_append (k := 4) (top_self _)))) (by decide)
theorem fenceSys : Statement .fenceSys := of_major (m := 15) rfl (top_major (top_append (k := 23) (top_append (k := 4) (top_self _)))) (by decide)
theorem cwb (o : Pf) : Statement (.cwb o) := of_major rfl (pf_pack_major _ _ _) (by decide)
theorem cinv (o : Pf) : Statement (.cinv o) := of_major rfl (pf_pack_major _ _ _) (by decide)
theorem xlq (o : Ld) : Statement (.xlq o) := of_major rfl (ld_pack_major _ _ _) (by decide)
theorem mma (c : BitVec 5) (a : BitVec 5) (b : BitVec 5) (sp : BitVec 5) : Statement (.mma c a b sp) := of_major (m := 16) rfl (top_major (top_append (k := 2) (top_append (k := 5) (top_append (k := 5) (top_append (k := 5) (top_append (k := 5) (top_append (k := 5) (top_self _)))))))) (by decide)
theorem mloop (c : BitVec 5) (a : BitVec 5) (b : BitVec 5) (sp : BitVec 5) : Statement (.mloop c a b sp) := of_major (m := 16) rfl (top_major (top_append (k := 2) (top_append (k := 5) (top_append (k := 5) (top_append (k := 5) (top_append (k := 5) (top_append (k := 5) (top_self _)))))))) (by decide)
theorem mloops (c : BitVec 5) (a : BitVec 5) (b : BitVec 5) (sp : BitVec 5) : Statement (.mloops c a b sp) := of_major (m := 16) rfl (top_major (top_append (k := 2) (top_append (k := 5) (top_append (k := 5) (top_append (k := 5) (top_append (k := 5) (top_append (k := 5) (top_self _)))))))) (by decide)
theorem attn (c : BitVec 5) (a : BitVec 5) (b : BitVec 5) (sp : BitVec 5) (f : BitVec 2) : Statement (.attn c a b sp f) := of_major (m := 16) rfl (top_major (top_append (k := 2) (top_append (k := 5) (top_append (k := 5) (top_append (k := 5) (top_append (k := 5) (top_append (k := 5) (top_self _)))))))) (by decide)
theorem hadq (c : BitVec 5) (a : BitVec 5) (f : BitVec 2) : Statement (.hadq c a f) := of_major (m := 16) rfl (top_major (top_append (k := 2) (top_append (k := 10) (top_append (k := 5) (top_append (k := 5) (top_append (k := 5) (top_self _))))))) (by decide)
theorem qnt (c : BitVec 5) (a : BitVec 5) : Statement (.qnt c a) := of_major (m := 16) rfl (top_major (top_append (k := 12) (top_append (k := 5) (top_append (k := 5) (top_append (k := 5) (top_self _)))))) (by decide)
theorem accz (c : BitVec 5) : Statement (.accz c) := of_major (m := 16) rfl (top_major (top_append (k := 17) (top_append (k := 5) (top_append (k := 5) (top_self _))))) (by decide)
theorem accrd (c : BitVec 5) (a : BitVec 5) (b16 : Bool) : Statement (.accrd c a b16) := of_major (m := 16) rfl (top_major (top_append (k := 1) (top_append (k := 11) (top_append (k := 5) (top_append (k := 5) (top_append (k := 5) (top_self _))))))) (by decide)
theorem accwr (c : BitVec 5) (a : BitVec 5) : Statement (.accwr c a) := of_major (m := 16) rfl (top_major (top_append (k := 12) (top_append (k := 5) (top_append (k := 5) (top_append (k := 5) (top_self _)))))) (by decide)
theorem mrel : Statement .mrel := of_major (m := 16) rfl (top_major (top_append (k := 22) (top_append (k := 5) (top_self _)))) (by decide)
theorem copyIn (c : BitVec 5) (x : BitVec 4) (sp : BitVec 5) (bar : Bool) : Statement (.copyIn c x sp bar) := of_major (m := 17) rfl (top_major (top_append (k := 1) (top_append (k := 1) (top_append (k := 5) (top_append (k := 5) (top_append (k := 4) (top_append (k := 1) (top_append (k := 5) (top_append (k := 5) (top_self _)))))))))) (by decide)
theorem copyOut (c : BitVec 5) (x : BitVec 4) (sp : BitVec 5) (rel : Bool) (bar : Bool) : Statement (.copyOut c x sp rel bar) := of_major (m := 17) rfl (top_major (top_append (k := 1) (top_append (k := 1) (top_append (k := 5) (top_append (k := 5) (top_append (k := 4) (top_append (k := 1) (top_append (k := 5) (top_append (k := 5) (top_self _)))))))))) (by decide)
theorem copyTt (c : BitVec 5) (sp : BitVec 5) (rel : Bool) (bar : Bool) : Statement (.copyTt c sp rel bar) := of_major (m := 17) rfl (top_major (top_append (k := 1) (top_append (k := 1) (top_append (k := 5) (top_append (k := 10) (top_append (k := 5) (top_append (k := 5) (top_self _)))))))) (by decide)
theorem copyGather (c : BitVec 5) (x : BitVec 4) (b : BitVec 5) (sp : BitVec 5) (bar : Bool) : Statement (.copyGather c x b sp bar) := of_major (m := 17) rfl (top_major (top_append (k := 1) (top_append (k := 1) (top_append (k := 5) (top_append (k := 5) (top_append (k := 4) (top_append (k := 1) (top_append (k := 5) (top_append (k := 5) (top_self _)))))))))) (by decide)
theorem tdef (c : BitVec 5) (sp : BitVec 5) : Statement (.tdef c sp) := of_major (m := 17) rfl (top_major (top_append (k := 2) (top_append (k := 5) (top_append (k := 10) (top_append (k := 5) (top_append (k := 5) (top_self _))))))) (by decide)
theorem tdrop (c : BitVec 5) : Statement (.tdrop c) := of_major (m := 17) rfl (top_major (top_append (k := 17) (top_append (k := 5) (top_append (k := 5) (top_self _))))) (by decide)
theorem tset (x : BitVec 4) (sp : BitVec 5) : Statement (.tset x sp) := of_major (m := 17) rfl (top_major (top_append (k := 2) (top_append (k := 5) (top_append (k := 5) (top_append (k := 4) (top_append (k := 6) (top_append (k := 5) (top_self _)))))))) (by decide)
theorem tstat (c : BitVec 5) (sp : BitVec 5) : Statement (.tstat c sp) := of_major (m := 17) rfl (top_major (top_append (k := 2) (top_append (k := 5) (top_append (k := 10) (top_append (k := 5) (top_append (k := 5) (top_self _))))))) (by decide)
theorem trel (c : BitVec 5) : Statement (.trel c) := of_major (m := 17) rfl (top_major (top_append (k := 17) (top_append (k := 5) (top_append (k := 5) (top_self _))))) (by decide)
theorem binit (sb : BitVec 5) (n : BitVec 10) : Statement (.binit sb n) := of_major (m := 18) rfl (top_major (top_append (k := 10) (top_append (k := 7) (top_append (k := 5) (top_append (k := 5) (top_self _)))))) (by decide)
theorem binitReg (sb : BitVec 5) (v : BitVec 6) : Statement (.binitReg sb v) := of_major (m := 18) rfl (top_major (top_append (k := 11) (top_append (k := 6) (top_append (k := 5) (top_append (k := 5) (top_self _)))))) (by decide)
theorem barv (sb : BitVec 5) (ord : Bool) : Statement (.barv sb ord) := of_major (m := 18) rfl (top_major (top_append (k := 1) (top_append (k := 16) (top_append (k := 5) (top_append (k := 5) (top_self _)))))) (by decide)
theorem barvb (sb : BitVec 5) (v : BitVec 6) (out : Bool) (ord : Bool) : Statement (.barvb sb v out ord) := of_major (m := 18) rfl (top_major (top_append (k := 1) (top_append (k := 1) (top_append (k := 9) (top_append (k := 6) (top_append (k := 5) (top_append (k := 5) (top_self _)))))))) (by decide)
theorem bwait (sb : BitVec 5) (v : BitVec 6) : Statement (.bwait sb v) := of_major (m := 18) rfl (top_major (top_append (k := 11) (top_append (k := 6) (top_append (k := 5) (top_append (k := 5) (top_self _)))))) (by decide)
theorem bwaitt (sb : BitVec 5) (v : BitVec 6) (p : BitVec 3) : Statement (.bwaitt sb v p) := of_major (m := 18) rfl (top_major (top_append (k := 3) (top_append (k := 8) (top_append (k := 6) (top_append (k := 5) (top_append (k := 5) (top_self _))))))) (by decide)
theorem btst (sb : BitVec 5) (v : BitVec 6) : Statement (.btst sb v) := of_major (m := 18) rfl (top_major (top_append (k := 11) (top_append (k := 6) (top_append (k := 5) (top_append (k := 5) (top_self _)))))) (by decide)
theorem bjoin (sb : BitVec 5) : Statement (.bjoin sb) := of_major (m := 18) rfl (top_major (top_append (k := 17) (top_append (k := 5) (top_append (k := 5) (top_self _))))) (by decide)
theorem bleave (sb : BitVec 5) : Statement (.bleave sb) := of_major (m := 18) rfl (top_major (top_append (k := 17) (top_append (k := 5) (top_append (k := 5) (top_self _))))) (by decide)
theorem bdrop (sb : BitVec 5) (ord : Bool) : Statement (.bdrop sb ord) := of_major (m := 18) rfl (top_major (top_append (k := 1) (top_append (k := 16) (top_append (k := 5) (top_append (k := 5) (top_self _)))))) (by decide)
theorem dadd (d : BitVec 4) (a : BitVec 4) (b : BitVec 4) : Statement (.dadd d a b) := of_major (m := 19) rfl (top_major (top_append (k := 10) (top_append (k := 4) (top_append (k := 4) (top_append (k := 4) (top_append (k := 5) (top_self _))))))) (by decide)
theorem dsub (d : BitVec 4) (a : BitVec 4) (b : BitVec 4) : Statement (.dsub d a b) := of_major (m := 19) rfl (top_major (top_append (k := 10) (top_append (k := 4) (top_append (k := 4) (top_append (k := 4) (top_append (k := 5) (top_self _))))))) (by decide)
theorem dmul (d : BitVec 4) (a : BitVec 4) (b : BitVec 4) : Statement (.dmul d a b) := of_major (m := 19) rfl (top_major (top_append (k := 10) (top_append (k := 4) (top_append (k := 4) (top_append (k := 4) (top_append (k := 5) (top_self _))))))) (by decide)
theorem dmax (d : BitVec 4) (a : BitVec 4) (b : BitVec 4) : Statement (.dmax d a b) := of_major (m := 19) rfl (top_major (top_append (k := 10) (top_append (k := 4) (top_append (k := 4) (top_append (k := 4) (top_append (k := 5) (top_self _))))))) (by decide)
theorem dmin (d : BitVec 4) (a : BitVec 4) (b : BitVec 4) : Statement (.dmin d a b) := of_major (m := 19) rfl (top_major (top_append (k := 10) (top_append (k := 4) (top_append (k := 4) (top_append (k := 4) (top_append (k := 5) (top_self _))))))) (by decide)
theorem dmix (d : BitVec 4) (a : BitVec 4) (b : BitVec 4) (v : BitVec 6) : Statement (.dmix d a b v) := of_major (m := 19) rfl (top_major (top_append (k := 4) (top_append (k := 6) (top_append (k := 4) (top_append (k := 4) (top_append (k := 4) (top_append (k := 5) (top_self _)))))))) (by decide)
theorem dneg (d : BitVec 4) (a : BitVec 4) : Statement (.dneg d a) := of_major (m := 19) rfl (top_major (top_append (k := 14) (top_append (k := 4) (top_append (k := 4) (top_append (k := 5) (top_self _)))))) (by decide)
theorem daff (d : BitVec 4) (a : BitVec 4) (v : BitVec 6) : Statement (.daff d a v) := of_major (m := 19) rfl (top_major (top_append (k := 4) (top_append (k := 6) (top_append (k := 4) (top_append (k := 4) (top_append (k := 4) (top_append (k := 5) (top_self _)))))))) (by decide)
theorem drelu (d : BitVec 4) (a : BitVec 4) : Statement (.drelu d a) := of_major (m := 19) rfl (top_major (top_append (k := 14) (top_append (k := 4) (top_append (k := 4) (top_append (k := 5) (top_self _)))))) (by decide)
theorem dexp2 (d : BitVec 4) (a : BitVec 4) : Statement (.dexp2 d a) := of_major (m := 19) rfl (top_major (top_append (k := 14) (top_append (k := 4) (top_append (k := 4) (top_append (k := 5) (top_self _)))))) (by decide)
theorem dmov (d : BitVec 4) (a : BitVec 4) : Statement (.dmov d a) := of_major (m := 19) rfl (top_major (top_append (k := 14) (top_append (k := 4) (top_append (k := 4) (top_append (k := 5) (top_self _)))))) (by decide)
theorem dpnt (d : BitVec 4) (v : BitVec 6) : Statement (.dpnt d v) := of_major (m := 20) rfl (top_major (top_append (k := 4) (top_append (k := 6) (top_append (k := 8) (top_append (k := 4) (top_append (k := 5) (top_self _))))))) (by decide)
theorem dfroms (d : BitVec 4) (v : BitVec 6) (n : BitVec 4) : Statement (.dfroms d v n) := of_major (m := 20) rfl (top_major (top_append (k := 4) (top_append (k := 6) (top_append (k := 8) (top_append (k := 4) (top_append (k := 5) (top_self _))))))) (by decide)
theorem dnorm (d : BitVec 4) (v : BitVec 6) (n : BitVec 4) : Statement (.dnorm d v n) := of_major (m := 20) rfl (top_major (top_append (k := 4) (top_append (k := 6) (top_append (k := 8) (top_append (k := 4) (top_append (k := 5) (top_self _))))))) (by decide)
theorem dmom (a : BitVec 4) (v : BitVec 6) (k : BitVec 4) : Statement (.dmom a v k) := of_major (m := 20) rfl (top_major (top_append (k := 4) (top_append (k := 6) (top_append (k := 4) (top_append (k := 4) (top_append (k := 4) (top_append (k := 5) (top_self _)))))))) (by decide)
theorem dqnt (a : BitVec 4) (v : BitVec 6) : Statement (.dqnt a v) := of_major (m := 20) rfl (top_major (top_append (k := 4) (top_append (k := 6) (top_append (k := 4) (top_append (k := 4) (top_append (k := 4) (top_append (k := 5) (top_self _)))))))) (by decide)
theorem dprb (a : BitVec 4) (v : BitVec 6) : Statement (.dprb a v) := of_major (m := 20) rfl (top_major (top_append (k := 4) (top_append (k := 6) (top_append (k := 4) (top_append (k := 4) (top_append (k := 4) (top_append (k := 5) (top_self _)))))))) (by decide)
theorem dtag (d : BitVec 4) (a : BitVec 4) (v : BitVec 6) : Statement (.dtag d a v) := of_major (m := 20) rfl (top_major (top_append (k := 4) (top_append (k := 6) (top_append (k := 4) (top_append (k := 4) (top_append (k := 4) (top_append (k := 5) (top_self _)))))))) (by decide)
theorem dtgr (a : BitVec 4) (v : BitVec 6) : Statement (.dtgr a v) := of_major (m := 20) rfl (top_major (top_append (k := 4) (top_append (k := 6) (top_append (k := 4) (top_append (k := 4) (top_append (k := 4) (top_append (k := 5) (top_self _)))))))) (by decide)
theorem datom (a : BitVec 4) (v : BitVec 6) (n : BitVec 3) : Statement (.datom a v n) := of_major (m := 20) rfl (top_major (top_append (k := 3) (top_append (k := 1) (top_append (k := 6) (top_append (k := 4) (top_append (k := 4) (top_append (k := 4) (top_append (k := 5) (top_self _))))))))) (by decide)
theorem wadd (d : BitVec 5) (a : BitVec 5) (b : BitVec 5) (t : Bool) : Statement (.wadd d a b t) := of_major (m := 21) rfl (top_major (top_append (k := 1) (top_append (k := 6) (top_append (k := 5) (top_append (k := 5) (top_append (k := 5) (top_append (k := 5) (top_self _)))))))) (by decide)
theorem wsub (d : BitVec 5) (a : BitVec 5) (b : BitVec 5) (t : Bool) : Statement (.wsub d a b t) := of_major (m := 21) rfl (top_major (top_append (k := 1) (top_append (k := 6) (top_append (k := 5) (top_append (k := 5) (top_append (k := 5) (top_append (k := 5) (top_self _)))))))) (by decide)
theorem wmul (d : BitVec 5) (a : BitVec 5) (b : BitVec 5) (t : Bool) : Statement (.wmul d a b t) := of_major (m := 21) rfl (top_major (top_append (k := 1) (top_append (k := 6) (top_append (k := 5) (top_append (k := 5) (top_append (k := 5) (top_append (k := 5) (top_self _)))))))) (by decide)
theorem wdiv (d : BitVec 5) (a : BitVec 5) (b : BitVec 5) (t : Bool) : Statement (.wdiv d a b t) := of_major (m := 21) rfl (top_major (top_append (k := 1) (top_append (k := 6) (top_append (k := 5) (top_append (k := 5) (top_append (k := 5) (top_append (k := 5) (top_self _)))))))) (by decide)
theorem wsqrt (d : BitVec 5) (a : BitVec 5) (t : Bool) : Statement (.wsqrt d a t) := of_major (m := 21) rfl (top_major (top_append (k := 1) (top_append (k := 11) (top_append (k := 5) (top_append (k := 5) (top_append (k := 5) (top_self _))))))) (by decide)
theorem wfma (d : BitVec 5) (a : BitVec 5) (b : BitVec 5) (t : Bool) : Statement (.wfma d a b t) := of_major (m := 21) rfl (top_major (top_append (k := 1) (top_append (k := 6) (top_append (k := 5) (top_append (k := 5) (top_append (k := 5) (top_append (k := 5) (top_self _)))))))) (by decide)
theorem wneg (d : BitVec 5) (a : BitVec 5) (t : Bool) : Statement (.wneg d a t) := of_major (m := 21) rfl (top_major (top_append (k := 1) (top_append (k := 11) (top_append (k := 5) (top_append (k := 5) (top_append (k := 5) (top_self _))))))) (by decide)
theorem wabs (d : BitVec 5) (a : BitVec 5) (t : Bool) : Statement (.wabs d a t) := of_major (m := 21) rfl (top_major (top_append (k := 1) (top_append (k := 11) (top_append (k := 5) (top_append (k := 5) (top_append (k := 5) (top_self _))))))) (by decide)
theorem wcmp (a : BitVec 5) (b : BitVec 5) (v : BitVec 6) (t : Bool) : Statement (.wcmp a b v t) := of_major (m := 21) rfl (top_major (top_append (k := 1) (top_append (k := 6) (top_append (k := 5) (top_append (k := 5) (top_append (k := 5) (top_append (k := 5) (top_self _)))))))) (by decide)
theorem wrnd (d : BitVec 5) (a : BitVec 5) (t : Bool) : Statement (.wrnd d a t) := of_major (m := 21) rfl (top_major (top_append (k := 1) (top_append (k := 11) (top_append (k := 5) (top_append (k := 5) (top_append (k := 5) (top_self _))))))) (by decide)
theorem wldexp (d : BitVec 5) (a : BitVec 5) (v : BitVec 6) (t : Bool) : Statement (.wldexp d a v t) := of_major (m := 21) rfl (top_major (top_append (k := 1) (top_append (k := 6) (top_append (k := 5) (top_append (k := 5) (top_append (k := 5) (top_append (k := 5) (top_self _)))))))) (by decide)
theorem wfrom (d : BitVec 5) (f : BitVec 5) (v : BitVec 6) (t : Bool) : Statement (.wfrom d f v t) := of_major (m := 21) rfl (top_major (top_append (k := 1) (top_append (k := 6) (top_append (k := 5) (top_append (k := 5) (top_append (k := 5) (top_append (k := 5) (top_self _)))))))) (by decide)
theorem wto (a : BitVec 5) (f : BitVec 5) (v : BitVec 6) (t : Bool) : Statement (.wto a f v t) := of_major (m := 21) rfl (top_major (top_append (k := 1) (top_append (k := 6) (top_append (k := 5) (top_append (k := 5) (top_append (k := 5) (top_append (k := 5) (top_self _)))))))) (by decide)
theorem wmov (d : BitVec 5) (a : BitVec 5) (t : Bool) : Statement (.wmov d a t) := of_major (m := 21) rfl (top_major (top_append (k := 1) (top_append (k := 11) (top_append (k := 5) (top_append (k := 5) (top_append (k := 5) (top_self _))))))) (by decide)
theorem wcfg (sb : BitVec 5) (t : Bool) : Statement (.wcfg sb t) := of_major (m := 22) rfl (top_major (top_append (k := 1) (top_append (k := 11) (top_append (k := 5) (top_append (k := 5) (top_append (k := 5) (top_self _))))))) (by decide)
theorem wgetl (a : BitVec 5) (v : BitVec 6) (t : Bool) : Statement (.wgetl a v t) := of_major (m := 22) rfl (top_major (top_append (k := 1) (top_append (k := 6) (top_append (k := 5) (top_append (k := 5) (top_append (k := 5) (top_append (k := 5) (top_self _)))))))) (by decide)
theorem wsetl (d : BitVec 5) (a : BitVec 5) (v : BitVec 6) (t : Bool) : Statement (.wsetl d a v t) := of_major (m := 22) rfl (top_major (top_append (k := 1) (top_append (k := 6) (top_append (k := 5) (top_append (k := 5) (top_append (k := 5) (top_append (k := 5) (top_self _)))))))) (by decide)
theorem winfo (a : BitVec 5) (v : BitVec 6) (t : Bool) : Statement (.winfo a v t) := of_major (m := 22) rfl (top_major (top_append (k := 1) (top_append (k := 6) (top_append (k := 5) (top_append (k := 5) (top_append (k := 5) (top_append (k := 5) (top_self _)))))))) (by decide)
theorem bra (off : BitVec 20) : Statement (.bra off) := of_major (m := 23) rfl (top_major (top_append (k := 20) (top_append (k := 4) (top_append (k := 3) (top_self _))))) (by decide)
theorem brc (p : BitVec 3) (neg : Bool) (off : BitVec 20) : Statement (.brc p neg off) := of_major (m := 23) rfl (top_major (top_append (k := 20) (top_append (k := 1) (top_append (k := 3) (top_append (k := 3) (top_self _)))))) (by decide)
theorem brs (sb : BitVec 5) (neg : Bool) (off : BitVec 18) : Statement (.brs sb neg off) := of_major (m := 23) rfl (top_major (top_append (k := 18) (top_append (k := 1) (top_append (k := 5) (top_append (k := 3) (top_self _)))))) (by decide)
theorem brx (v : BitVec 6) : Statement (.brx v) := of_major (m := 23) rfl (top_major (top_append (k := 18) (top_append (k := 6) (top_append (k := 3) (top_self _))))) (by decide)
theorem call (p : BitVec 3) (neg : Bool) (off : BitVec 20) : Statement (.call p neg off) := of_major (m := 23) rfl (top_major (top_append (k := 20) (top_append (k := 1) (top_append (k := 3) (top_append (k := 3) (top_self _)))))) (by decide)
theorem callx (v : BitVec 6) : Statement (.callx v) := of_major (m := 23) rfl (top_major (top_append (k := 18) (top_append (k := 6) (top_append (k := 3) (top_self _))))) (by decide)
theorem ret (p : BitVec 3) (neg : Bool) : Statement (.ret p neg) := of_major (m := 23) rfl (top_major (top_append (k := 20) (top_append (k := 1) (top_append (k := 3) (top_append (k := 3) (top_self _)))))) (by decide)
theorem exit (p : BitVec 3) (neg : Bool) : Statement (.exit p neg) := of_major (m := 23) rfl (top_major (top_append (k := 20) (top_append (k := 1) (top_append (k := 3) (top_append (k := 3) (top_self _)))))) (by decide)
theorem waitf (r : BitVec 6) (c : BitVec 3) : Statement (.waitf r c) := of_major (m := 24) rfl (top_major (top_append (k := 3) (top_append (k := 7) (top_append (k := 6) (top_append (k := 6) (top_append (k := 5) (top_self _))))))) (by decide)
theorem waitfAll : Statement .waitfAll := of_major (m := 24) rfl (top_major (top_append (k := 22) (top_append (k := 5) (top_self _)))) (by decide)
theorem sete (d : BitVec 6) : Statement (.sete d) := of_major (m := 24) rfl (top_major (top_append (k := 16) (top_append (k := 6) (top_append (k := 5) (top_self _))))) (by decide)
theorem shsend (d : BitVec 6) (a : BitVec 6) : Statement (.shsend d a) := of_major (m := 24) rfl (top_major (top_append (k := 10) (top_append (k := 6) (top_append (k := 6) (top_append (k := 5) (top_self _)))))) (by decide)
theorem shtake (d : BitVec 6) (a : BitVec 6) : Statement (.shtake d a) := of_major (m := 24) rfl (top_major (top_append (k := 10) (top_append (k := 6) (top_append (k := 6) (top_append (k := 5) (top_self _)))))) (by decide)
theorem sleep (n : BitVec 10) : Statement (.sleep n) := of_major (m := 24) rfl (top_major (top_append (k := 10) (top_append (k := 12) (top_append (k := 5) (top_self _))))) (by decide)
theorem yield : Statement .yield := of_major (m := 24) rfl (top_major (top_append (k := 22) (top_append (k := 5) (top_self _)))) (by decide)
theorem nop : Statement .nop := of_major (m := 24) rfl (top_major (top_append (k := 22) (top_append (k := 5) (top_self _)))) (by decide)
theorem launch (d : BitVec 6) (a : BitVec 6) (q : BitVec 6) : Statement (.launch d a q) := of_major (m := 25) rfl (top_major (top_append (k := 6) (top_append (k := 4) (top_append (k := 6) (top_append (k := 6) (top_append (k := 5) (top_self _))))))) (by decide)
theorem lstat (d : BitVec 6) (q : BitVec 6) : Statement (.lstat d q) := of_major (m := 25) rfl (top_major (top_append (k := 6) (top_append (k := 10) (top_append (k := 6) (top_append (k := 5) (top_self _)))))) (by decide)
theorem trap (n : BitVec 10) : Statement (.trap n) := of_major (m := 26) rfl (top_major (top_append (k := 10) (top_append (k := 12) (top_append (k := 5) (top_self _))))) (by decide)
theorem svc (d : BitVec 6) (a : BitVec 6) (c : BitVec 10) : Statement (.svc d a c) := of_major (m := 26) rfl (top_major (top_append (k := 10) (top_append (k := 6) (top_append (k := 6) (top_append (k := 5) (top_self _)))))) (by decide)
theorem sread (d : BitVec 6) (r : BitVec 10) : Statement (.sread d r) := of_major (m := 26) rfl (top_major (top_append (k := 10) (top_append (k := 6) (top_append (k := 6) (top_append (k := 5) (top_self _)))))) (by decide)
theorem swrite (a : BitVec 6) (r : BitVec 10) : Statement (.swrite a r) := of_major (m := 26) rfl (top_major (top_append (k := 10) (top_append (k := 6) (top_append (k := 6) (top_append (k := 5) (top_self _)))))) (by decide)
theorem brk (n : BitVec 10) : Statement (.brk n) := of_major (m := 26) rfl (top_major (top_append (k := 10) (top_append (k := 12) (top_append (k := 5) (top_self _))))) (by decide)
theorem illeg : Statement .illeg := of_major (m := 26) rfl (top_major (top_append (k := 22) (top_append (k := 5) (top_self _)))) (by decide)
theorem doorbell (q : Nat) (w : W32) : Statement (.doorbell q w) := of_none rfl
theorem launchAcceptance (q : Nat) : Statement (.launchAcceptance q) := of_none rfl
theorem launchRecordRead (acc : Nat) : Statement (.launchRecordRead acc) := of_none rfl
theorem tcbDispatch : Statement .tcbDispatch := of_none rfl
theorem teamStart (cluster : Nat) : Statement (.teamStart cluster) := of_none rfl
theorem coResidentStart : Statement .coResidentStart := of_none rfl
theorem foragerRequest (cluster : Nat) : Statement (.foragerRequest cluster) := of_none rfl
theorem foragerAnswer (cluster : Nat) : Statement (.foragerAnswer cluster) := of_none rfl
theorem preemptForRoom (cluster : Nat) : Statement (.preemptForRoom cluster) := of_none rfl
theorem preemptionRequest (team : Nat) : Statement (.preemptionRequest team) := of_none rfl
theorem teamSave (team : Nat) : Statement (.teamSave team) := of_none rfl
theorem teamRestore (team : Nat) : Statement (.teamRestore team) := of_none rfl
theorem offCoreSave (team : Nat) (group : Nat) : Statement (.offCoreSave team group) := of_none rfl
theorem offCoreRestore (team : Nat) (group : Nat) : Statement (.offCoreRestore team group) := of_none rfl
theorem launchCompletion (jn : Nat) : Statement (.launchCompletion jn) := of_none rfl
theorem instructionFetch (team : Nat) (group : Nat) (addr : D64) : Statement (.instructionFetch team group addr) := of_none rfl
theorem prefetch (core : Nat) (jn : Nat) (addr : D64) : Statement (.prefetch core jn addr) := of_none rfl
theorem ctuTranslate (acc : Nat) : Statement (.ctuTranslate acc) := of_none rfl
theorem returnedRequestResend (acc : Nat) : Statement (.returnedRequestResend acc) := of_none rfl
theorem refill (cluster : Nat) : Statement (.refill cluster) := of_none rfl
theorem batchDelivery (cluster : Nat) : Statement (.batchDelivery cluster) := of_none rfl
theorem resolve (key : Nat) (cluster : Nat) (page : D64) (tables : List (Nat × D64)) : Statement (.resolve key cluster page tables) := of_none rfl
theorem resolvePoison (key : Nat) (cluster : Nat) (page : D64) : Statement (.resolvePoison key cluster page) := of_none rfl
theorem list (key : Nat) (cluster : Nat) : Statement (.list key cluster) := of_none rfl
theorem pageRepairTimeout (key : Nat) (cluster : Nat) (page : D64) (reason : Nat) : Statement (.pageRepairTimeout key cluster page reason) := of_none rfl
theorem accessAtHome (acc : Nat) : Statement (.accessAtHome acc) := of_none rfl
theorem accessResponse (acc : Nat) : Statement (.accessResponse acc) := of_none rfl
theorem ptsTick : Statement .ptsTick := of_none rfl
theorem pageReclassification (frame : Nat) (core : Nat) : Statement (.pageReclassification frame core) := of_none rfl
theorem invalidation (core : Nat) (word : Nat) (version : Nat) : Statement (.invalidation core word version) := of_none rfl
theorem delegation (word : Nat) (core : Nat) : Statement (.delegation word core) := of_none rfl
theorem delegationRecall (word : Nat) : Statement (.delegationRecall word) := of_none rfl
theorem tlbInvalidation (key : Nat) (page : D64) (tables : List (Nat × D64)) : Statement (.tlbInvalidation key page tables) := of_none rfl
theorem atsResponse (acc : Nat) (grant : Option Perm) : Statement (.atsResponse acc grant) := of_none rfl
theorem priResponse (key : Nat) (cluster : Nat) (page : D64) (grant : Option Perm) : Statement (.priResponse key cluster page grant) := of_none rfl
theorem hostAccess (key : Nat) (addr : D64) (size : Nat) (store : Option Nat) : Statement (.hostAccess key addr size store) := of_none rfl
theorem peerRequest (port : Nat) (device : Nat) (issuer : Nat) (key : Nat) (pa : Nat) (size : Nat) (op : PeerOp) : Statement (.peerRequest port device issuer key pa size op) := of_none rfl
theorem svcReply (key : Nat) (seq : Nat) : Statement (.svcReply key seq) := of_none rfl
theorem alloc (key : Nat) (short : Bool) : Statement (.alloc key short) := of_none rfl
theorem free (key : Nat) : Statement (.free key) := of_none rfl
theorem hostcall (key : Nat) (r0 : W32) (r1 : W32) : Statement (.hostcall key r0 r1) := of_none rfl
theorem migrate (key : Nat) (target : Option Nat) (tables : List (Nat × D64)) : Statement (.migrate key target tables) := of_none rfl
theorem pairGrant (core : Nat) : Statement (.pairGrant core) := of_none rfl
theorem leaseExpiry (core : Nat) : Statement (.leaseExpiry core) := of_none rfl
theorem matrixStep (core : Nat) : Statement (.matrixStep core) := of_none rfl
theorem attnBlock (run : Nat) : Statement (.attnBlock run) := of_none rfl
theorem accRun (run : Nat) : Statement (.accRun run) := of_none rfl
theorem copyChunk (copy : Nat) (chunk : Nat) : Statement (.copyChunk copy chunk) := of_none rfl
theorem copyFailure (copy : Nat) : Statement (.copyFailure copy) := of_none rfl
theorem tsetDescriptorArrival (acc : Nat) : Statement (.tsetDescriptorArrival acc) := of_none rfl
theorem distCompletion (pend : Nat) : Statement (.distCompletion pend) := of_none rfl
theorem windowCompletion (pend : Nat) : Statement (.windowCompletion pend) := of_none rfl
theorem barrierUpdate (acc : Nat) : Statement (.barrierUpdate acc) := of_none rfl
theorem bwaitRelease (team : Nat) (group : Nat) (lane : Nat) : Statement (.bwaitRelease team group lane) := of_none rfl
theorem bwaittDeadline (team : Nat) (group : Nat) (lane : Nat) : Statement (.bwaittDeadline team group lane) := of_none rfl
theorem sleepExpiry (team : Nat) (group : Nat) (lane : Nat) : Statement (.sleepExpiry team group lane) := of_none rfl
theorem watchdogCheck (core : Nat) : Statement (.watchdogCheck core) := of_none rfl
theorem coreFailure (core : Nat) : Statement (.coreFailure core) := of_none rfl
theorem combError (core : Nat) (row : Nat) : Statement (.combError core row) := of_none rfl
theorem sliceFailure (slice : Nat) (rts : Nat) (clean : List Nat) : Statement (.sliceFailure slice rts clean) := of_none rfl
theorem uncorrectableError (line : Nat) : Statement (.uncorrectableError line) := of_none rfl
theorem peerReset (port : Nat) : Statement (.peerReset port) := of_none rfl
theorem gidonFlitError (port : Nat) (seq : Nat) : Statement (.gidonFlitError port seq) := of_none rfl
theorem gidonNak (port : Nat) (seq : Nat) : Statement (.gidonNak port seq) := of_none rfl
theorem gidonLaneFailure (port : Nat) : Statement (.gidonLaneFailure port) := of_none rfl
theorem preronFailure (n : Nat) : Statement (.preronFailure n) := of_none rfl
theorem hostLinkDown : Statement .hostLinkDown := of_none rfl
theorem hostLinkLost : Statement .hostLinkLost := of_none rfl
theorem throttle (power : Nat) (temp : Nat) : Statement (.throttle power temp) := of_none rfl
theorem overTemperature (die : Nat) (temp : Nat) : Statement (.overTemperature die temp) := of_none rfl
theorem powerRemoval (temp : Nat) : Statement (.powerRemoval temp) := of_none rfl
theorem boot : Statement .boot := of_none rfl
theorem mgmtRegisterWrite (off : Nat) (val : D64) : Statement (.mgmtRegisterWrite off val) := of_none rfl
theorem ctxnew (a : CtxArgs) : Statement (.ctxnew a) := of_none rfl
theorem ctxend (key : Nat) : Statement (.ctxend key) := of_none rfl
theorem qcfg (q : Nat) (enable : Bool) (owner : Nat) (base : D64) (size : Nat) : Statement (.qcfg q enable owner base size) := of_none rfl
theorem pagemap (key : Nat) (base : D64) (len : Nat) (grant : Option Perm) (tables : List (Nat × D64)) : Statement (.pagemap key base len grant tables) := of_none rfl
theorem hwin (key : Nat) (base : D64) (len : Nat) (add : Bool) : Statement (.hwin key base len add) := of_none rfl
theorem peerbind (key : Nat) (port : Nat) (device : Nat) (peerKey : Nat) : Statement (.peerbind key port device peerKey) := of_none rfl
theorem ckpt (key : Nat) (hold : Bool) : Statement (.ckpt key hold) := of_none rfl
theorem resume (key : Nat) : Statement (.resume key) := of_none rfl
theorem dbgatt (key : Nat) : Statement (.dbgatt key) := of_none rfl
theorem dbgdet (key : Nat) : Statement (.dbgdet key) := of_none rfl
theorem dbghalt (key : Nat) (team : Nat) (group : Nat) : Statement (.dbghalt key team group) := of_none rfl
theorem dbgrun (key : Nat) (team : Nat) (group : Nat) : Statement (.dbgrun key team group) := of_none rfl
theorem dbglist (key : Nat) (cluster : Nat) : Statement (.dbglist key cluster) := of_none rfl
theorem attest (key : Nat) (nonce : BitVec 256) : Statement (.attest key nonce) := of_none rfl
theorem fwload (img : FwImage) : Statement (.fwload img) := of_none rfl
theorem illegalInstruction : Statement .illegalInstruction := of_none rfl
theorem hostLinkRetrain (rate : Nat) (width : Nat) : Statement (.hostLinkRetrain rate width) := of_none rfl
theorem gidonPortRetrain (port : Nat) : Statement (.gidonPortRetrain port) := of_none rfl

end WordIsNoHeader

end Sys2Proof.Laws
end

