-- ==== Sys2Proof/Laws/Requests.lean ====
section
/-! SUPPORT. What a word that passes its checks does, for the words that send accesses or begin operations: one law for each
way of acting (R88, R91, R203, R257). -/

namespace Sys2Proof

open Machine

/-! ### Destinations marked empty -/

/-- What marking registers empty changes: marks. -/
def MarksOnly (s t : State) : Prop := t = { s with marks := t.marks }

theorem MarksOnly.trans {s t u : State} (h : MarksOnly s t) (k : MarksOnly t u) : MarksOnly s u := by
  unfold MarksOnly at *
  rw [k, h]

/-- Every mark but those of the named registers is as before. -/
def MarksKept (s t : State) (ids : List RId) : Prop := ∀ r, r ∉ ids → t.mark r = s.mark r

theorem empty_only (s : State) (L : LaneId) (c : RegClass) (n : Nat) : MarksOnly s (s.empty L c n) := by
  unfold State.empty MarksOnly
  split <;> rfl

theorem MarksOnly.rid {s t : State} (h : MarksOnly s t) (L : LaneId) (c : RegClass) (n : Nat) : t.rid L c n = s.rid L c n :=
  rid_congr (by rw [h]) (by rw [h]) L c n

/-- A register that is not p0 is empty afterwards. -/
theorem empty_law (s : State) (L : LaneId) (c : RegClass) (n : Nat) (h : c ≠ .p) :
    ((s.empty L c n).mark (s.rid L c n)).full = false ∧ MarksKept s (s.empty L c n) [s.rid L c n] := by
  have h1 : ¬(c = .p ∧ n = 0) := fun x => h x.1
  have h2 : ¬((s.rid L c n).cls = .p ∧ (s.rid L c n).num = 0) := by rw [rid_cls]; exact fun x => h x.1
  refine ⟨?_, ?_⟩
  · simp [State.empty, h1, State.mark, h2]
  · intro r hr
    have hne : r ≠ s.rid L c n := by simpa using hr
    simp only [State.empty, h1, if_false, State.mark, State.setMark_marks]
    split
    · rfl
    · rw [Tbl.get_set_ne _ _ _ hne]

/-- A list of registers marked empty by one lane. -/
theorem empties_law (L : LaneId) : ∀ (es : List (RegClass × Nat)) (s : State), (∀ e ∈ es, e.1 ≠ .p) →
    (∀ e ∈ es, ((es.foldl (fun u x => u.empty L x.1 x.2) s).mark (s.rid L e.1 e.2)).full = false) ∧
    MarksKept s (es.foldl (fun u x => u.empty L x.1 x.2) s) (es.map (fun e => s.rid L e.1 e.2)) ∧
    MarksOnly s (es.foldl (fun u x => u.empty L x.1 x.2) s)
  | [], s, _ => ⟨by simp, fun _ _ => rfl, rfl⟩
  | a :: t, s, h => by
    have h1 := empty_law s L a.1 a.2 (h a (by simp))
    have h2 := empty_only s L a.1 a.2
    have ih := empties_law L t (s.empty L a.1 a.2) (fun e he => h e (by simp [he]))
    have e1 : ∀ e : RegClass × Nat, (s.empty L a.1 a.2).rid L e.1 e.2 = s.rid L e.1 e.2 := fun e => h2.rid _ _ _
    simp only [e1] at ih
    refine ⟨?_, ?_, h2.trans ih.2.2⟩
    · intro e he
      by_cases hin : s.rid L e.1 e.2 ∈ t.map (fun e => s.rid L e.1 e.2)
      · obtain ⟨x, hx, hxe⟩ := List.mem_map.mp hin
        have := ih.1 x hx
        simpa [hxe] using this
      · rcases List.mem_cons.mp he with rfl | he
        · simp only [List.foldl_cons]
          rw [ih.2.1 _ hin]
          exact h1.1
        · exact absurd (List.mem_map.mpr ⟨e, he, rfl⟩) hin
    · intro r hr
      have hr' : r ≠ s.rid L a.1 a.2 ∧ r ∉ t.map (fun e => s.rid L e.1 e.2) := by simpa using hr
      simp only [List.foldl_cons]
      rw [ih.2.1 r hr'.2]
      exact h1.2 r (by simpa using hr'.1)

/-! ### Accesses and operations of several lanes -/

/-- The register part of a word is settled where its marks, and nothing else of its registers, changed. -/
structure EachDone (s t : State) (f : Nat → LaneId) (ls : List Nat) (es : Nat → List (RegClass × Nat)) : Prop where
  empty : ∀ l ∈ ls, ∀ e ∈ es l, (t.mark (s.rid (f l) e.1 e.2)).full = false
  kept : MarksKept s t (ls.flatMap (fun l => (es l).map (fun e => s.rid (f l) e.1 e.2)))

/-- A lane's effect that marks registers empty and sends accesses. -/
theorem applyEff_asks (s : State) (L : LaneId) (own : List Nat) (es : List (RegClass × Nat)) (qs : List Ask) (g : Go) :
    s.applyEff L own { empties := es, asks := qs, go := g } =
      qs.foldl (fun u q => u.ask own q) (es.foldl (fun u x => u.empty L x.1 x.2) s) := rfl

/-- A lane's effect that marks registers empty and begins an operation. -/
theorem applyEff_pend (s : State) (L : LaneId) (own : List Nat) (es : List (RegClass × Nat)) (w : Bool) (ws : List RegW)
    (df pf : W32) (g : Go) :
    s.applyEff L own { empties := es, pend := Option.some (w, ws, df, pf), go := g } =
      (es.foldl (fun u x => u.empty L x.1 x.2) s).addPend L (Option.some (w, ws, df, pf)) := rfl

/-- What an access carries depends on the teams and the issue opportunity alone. -/
theorem accessOf_congr {s t : State} (h1 : t.teams = s.teams) (h2 : t.sel = s.sel) (id : Nat) (ls : List Nat) (q : Ask) :
    accessOf t id ls q = accessOf s id ls q := by
  simp [accessOf, State.team, h1, h2]

/-- An access leaves its word. -/
theorem ask_eq (s : State) (own : List Nat) (q : Ask) (h : q.lanes = []) :
    s.ask own q = { s with accs := s.accs ++ [accessOf s s.nextId own q], nextId := s.nextId + 1 } := by
  simp [State.ask, accessOf, h]

/-- Only accesses, their numbering and marks differ. -/
def AsksOnly (s t : State) : Prop := t = { s with accs := t.accs, nextId := t.nextId, marks := t.marks }

theorem AsksOnly.trans {s t u : State} (h : AsksOnly s t) (k : AsksOnly t u) : AsksOnly s u := by
  unfold AsksOnly at *
  rw [k, h]

/-- One access of one lane. -/
theorem askLane_law (s : State) (L : LaneId) (own : List Nat) (es : List (RegClass × Nat)) (q : Ask) (g : Go)
    (he : ∀ e ∈ es, e.1 ≠ .p) (hq : q.lanes = []) :
    let t := s.applyEff L own { empties := es, asks := [q], go := g }
    t.accs = s.accs ++ [accessOf s s.nextId own q] ∧ t.nextId = s.nextId + 1 ∧
      (∀ e ∈ es, (t.mark (s.rid L e.1 e.2)).full = false) ∧ MarksKept s t (es.map (fun e => s.rid L e.1 e.2)) ∧
      AsksOnly s t := by
  intro t
  have ht : t = (es.foldl (fun u x => u.empty L x.1 x.2) s).ask own q := applyEff_asks s L own es [q] g
  have h1 := empties_law L es s he
  have h2 : es.foldl (fun u x => u.empty L x.1 x.2) s =
      { s with marks := (es.foldl (fun u x => u.empty L x.1 x.2) s).marks } := h1.2.2
  rw [ask_eq _ _ _ hq] at ht
  have m : ∀ r, t.mark r = (es.foldl (fun u x => u.empty L x.1 x.2) s).mark r := fun r => by rw [ht]; rfl
  refine ⟨?_, ?_, ?_, ?_, ?_⟩
  · rw [ht, h2]; rfl
  · rw [ht, h2]
  · intro e hx; rw [m]; exact h1.1 e hx
  · intro r hr; rw [m]; exact h1.2.1 r hr
  · unfold AsksOnly; rw [ht, h2]

/-- One access for each of several lanes. -/
theorem asks_fold (f : Nat → LaneId) (hf : ∀ l, (f l).lane = l) (es : List (RegClass × Nat)) (q : Nat → Ask) (g : Go)
    (he : ∀ e ∈ es, e.1 ≠ .p ∧ e.1 ≠ .s) (hq : ∀ l, (q l).lanes = []) :
    ∀ (ls : List Nat) (s : State), ls.Nodup →
      let t := ls.foldl (fun u l => u.applyEff (f l) [l] { empties := es, asks := [q l], go := g }) s
      t.accs = s.accs ++ ls.mapIdx (fun j l => accessOf s (s.nextId + j) [l] (q l)) ∧ t.nextId = s.nextId + ls.length ∧
      EachDone s t f ls (fun _ => es) ∧ AsksOnly s t
  | [], s, _ => by
    refine ⟨by simp, rfl, ⟨by simp, fun _ _ => rfl⟩, rfl⟩
  | a :: t, s, hn => by
    have hn' := List.nodup_cons.mp hn
    have h1 := askLane_law s (f a) [a] es (q a) g (fun e h => (he e h).1) (hq a)
    have ih := asks_fold f hf es q g he hq t
      (s.applyEff (f a) [a] { empties := es, asks := [q a], go := g }) hn'.2
    simp only [List.foldl_cons]
    generalize s.applyEff (f a) [a] { empties := es, asks := [q a], go := g } = s1 at h1 ih ⊢
    generalize List.foldl (fun u l => u.applyEff (f l) [l] { empties := es, asks := [q l], go := g }) s1 t = s2 at ih ⊢
    obtain ⟨a1, a2, a3, a4, a5⟩ := h1
    obtain ⟨b1, b2, ⟨b3, b4⟩, b5⟩ := ih
    have hrid : ∀ (M : LaneId) (c : RegClass) (n : Nat), s1.rid M c n = s.rid M c n := fun M c n =>
      rid_congr (by rw [a5]) (by rw [a5]) M c n
    have hacc : ∀ id ls x, accessOf s1 id ls x = accessOf s id ls x := fun id ls x =>
      accessOf_congr (by rw [a5]) (by rw [a5]) id ls x
    simp only [hrid] at b3 b4
    refine ⟨?_, ?_, ⟨?_, ?_⟩, a5.trans b5⟩
    · rw [b1, a1, a2]
      simp [List.mapIdx_cons, hacc, Nat.add_assoc, Nat.add_comm 1]
    · rw [b2, a2]; simp; omega
    · intro l hl e hx
      rcases List.mem_cons.mp hl with rfl | hl
      · rw [b4]
        · exact a3 e hx
        · intro hm
          obtain ⟨m, hm1, hm2⟩ := List.mem_flatMap.mp hm
          obtain ⟨x, hx', hxe⟩ := List.mem_map.mp hm2
          have k1 := rid_lane s (f m) x.1 x.2 (he x hx').2
          have k2 := rid_lane s (f l) e.1 e.2 (he e hx).2
          rw [hxe, k2, hf, hf] at k1
          exact hn'.1 (k1 ▸ hm1)
      · exact b3 l hl e hx
    · intro r hr
      have hr' : r ∉ es.map (fun e => s.rid (f a) e.1 e.2) ∧
          r ∉ t.flatMap (fun l => es.map (fun e => s.rid (f l) e.1 e.2)) := by
        simpa using hr
      rw [b4 r hr'.2, a4 r hr'.1]

/-- Marks kept are registers kept where no table of values changed. -/
theorem RegsKept.of_marks {s t : State} {ids : List RId} (h : MarksKept s t ids) (hv : ValuesKept s t) : RegsKept s t ids := by
  intro r hr
  obtain ⟨h1, h2, h3, h4, h5⟩ := hv
  exact ⟨by rw [h1], by rw [h2], by rw [h3], by rw [h4], by rw [h5], h r hr⟩

theorem mark_of_lanes {t u : State} (k : LanesOnly t u) (r : RId) : u.mark r = t.mark r := by
  unfold LanesOnly at k
  rw [k]; rfl

/-- A word that acts for each lane and sends one access. -/
theorem asks_each {i : Instr} {es : List (RegClass × Nat)} {q : State → LaneId → Ask} (body : State → LaneId → LaneOut)
    (hx : ∀ s, exec i s = .next (s.perLane (s.guard i) (body s)))
    (hb : ∀ s L, body s L = .done { empties := es, asks := [q s L] })
    (he : ∀ e ∈ es, e.1 ≠ .p ∧ e.1 ≠ .s) (hq : ∀ s L, (q s L).lanes = []) : AsksEach i es q := by
  intro s hdr k prio hp hf
  refine ⟨_, hx s, ?_⟩
  rw [hp.perLane]
  have e1 : (s.sel.lanes.map fun l => (s.sel.lane l, s.settle (body s (s.sel.lane l)))) =
      s.sel.lanes.map (fun l => (s.sel.lane l,
        LaneOut.done { empties := es, asks := [q s (s.sel.lane l)], go := .at (.go hdr k prio) })) :=
    List.map_congr_left (fun l hl => by rw [hb s _, settle_at s _ hf rfl])
  have e2 : s.applyOuts (s.sel.lanes.map (fun l => (s.sel.lane l,
      LaneOut.done { empties := es, asks := [q s (s.sel.lane l)], go := .at (.go hdr k prio) }))) =
      s.sel.lanes.foldl (fun u l => u.move (s.sel.lane l)
          (.done { empties := es, asks := [q s (s.sel.lane l)], go := .at (.go hdr k prio) }))
        (s.sel.lanes.foldl (fun u l => u.applyEff (s.sel.lane l) [l]
          { empties := es, asks := [q s (s.sel.lane l)], go := .at (.go hdr k prio) }) s) := by
    simp only [State.applyOuts, List.foldl_map]
    rfl
  rw [e1, e2]
  have w := asks_fold (fun l => s.sel.lane l) (fun _ => rfl) es (fun l => q s (s.sel.lane l)) (.at (.go hdr k prio)) he
    (fun l => hq s _) s.sel.lanes s hp.nodup
  generalize s.sel.lanes.foldl (fun u l => u.applyEff (s.sel.lane l) [l]
          { empties := es, asks := [q s (s.sel.lane l)], go := .at (.go hdr k prio) }) s = s1 at w ⊢
  have m := moves_fold (fun l => s.sel.lane l) (fun _ => rfl)
    (fun l => LaneOut.done { empties := es, asks := [q s (s.sel.lane l)], go := .at (.go hdr k prio) }) hdr k prio
    (fun _ _ => rfl) s.sel.lanes s1 hp.nodup
  generalize s.sel.lanes.foldl (fun u l => u.move (s.sel.lane l)
          (.done { empties := es, asks := [q s (s.sel.lane l)], go := .at (.go hdr k prio) })) s1 = s2 at m ⊢
  obtain ⟨w1, w2, ⟨w3, w4⟩, w5⟩ := w
  obtain ⟨m1, m2, m3⟩ := m
  have hl0 : ∀ L, s1.lane L = s.lane L := fun L => by rw [w5]; rfl
  have ho : s2 = { s with accs := s2.accs, nextId := s2.nextId, marks := s2.marks, lanes := s2.lanes } := by
    have a := m3; have b := w5
    unfold LanesOnly at a
    unfold AsksOnly at b
    rw [a, b]
  have hv : ValuesKept s s2 := by rw [ho]; exact ⟨rfl, rfl, rfl, rfl, rfl⟩
  refine ⟨?_, ?_, ?_, RegsKept.of_marks (fun r hr => ?_) hv, hv, fun L hL => ?_, ho⟩
  · rw [m3]; exact w1
  · rw [m3]; exact w2
  · intro l hl
    refine ⟨fun e he' => ?_, ?_⟩
    · have := w3 l hl e he'
      rw [State.isFull, mark_of_lanes m3,
        rid_congr (s := s) (by rw [ho]) (by rw [ho])]
      exact this
    · have := m1 l hl
      rwa [hl0] at this
  · rw [mark_of_lanes m3]; exact w4 r hr
  · rw [m2 L hL, hl0]

/-- The s registers of the lanes of one entry are the same ones. -/
theorem rid_s_same (s : State) (l m : Nat) (n : Nat) : s.rid (s.sel.lane l) .s n = s.rid (s.sel.lane m) .s n := rfl

/-- A word that acts once for its entry and sends one access, for all its lanes. -/
theorem asks_once {i : Instr} {es : List (RegClass × Nat)} {q : State → Ask} (body : State → List Nat → LaneOut)
    (ql : State → List Nat)
    (hx : ∀ s, exec i s = .next (s.once (s.guard i) (body s)))
    (hb : ∀ s, body s s.sel.lanes = .done { empties := es, asks := [{ q s with lanes := ql s }] })
    (hl : ∀ s, ql s = [] ∨ ql s = s.sel.lanes) (he : ∀ e ∈ es, e.1 = .s) : AsksOnce i es q := by
  intro s hdr k prio hp hf
  refine ⟨_, hx s, ?_⟩
  have hb' : s.settle (body s s.sel.lanes) =
      .done { empties := es, asks := [{ q s with lanes := ql s }], go := .at (.go hdr k prio) } := by
    rw [hb, settle_at s _ hf rfl]
  rw [hp.once hf (body s) hb']
  have hacc : ∀ u : State, u.teams = s.teams → u.sel = s.sel → u.nextId = s.nextId →
      u.ask s.sel.lanes { q s with lanes := ql s } =
        { u with accs := u.accs ++ [accessOf s s.nextId s.sel.lanes (q s)], nextId := s.nextId + 1 } := by
    intro u h1 h2 h3
    have hi : (if (ql s).isEmpty = true then s.sel.lanes else ql s) = s.sel.lanes := by
      rcases hl s with h | h <;> rw [h] <;> simp
    simp only [State.ask, hi, accessOf, State.team, h1, h2, h3]
  have h1 := empties_law (s.sel.lane (s.sel.lanes.headD 0)) es s (fun e h => by rw [he e h]; decide)
  have hap : s.applyEff (s.sel.lane (s.sel.lanes.headD 0)) s.sel.lanes
      { empties := es, asks := [{ q s with lanes := ql s }], go := .at (.go hdr k prio) } =
      (es.foldl (fun u x => u.empty (s.sel.lane (s.sel.lanes.headD 0)) x.1 x.2) s).ask s.sel.lanes { q s with lanes := ql s } :=
    rfl
  rw [hap, hacc _ (by rw [h1.2.2]) (by rw [h1.2.2]) (by rw [h1.2.2])]
  generalize es.foldl (fun u x => u.empty (s.sel.lane (s.sel.lanes.headD 0)) x.1 x.2) s = s0 at h1 ⊢
  generalize hs1 : ({ s0 with accs := s0.accs ++ [accessOf s s.nextId s.sel.lanes (q s)], nextId := s.nextId + 1 } : State) = s1
  have m := moves_fold (fun l => s.sel.lane l) (fun _ => rfl)
    (fun _ => LaneOut.done { empties := es, asks := [{ q s with lanes := ql s }], go := .at (.go hdr k prio) }) hdr k prio
    (fun _ _ => rfl) s.sel.lanes s1 hp.nodup
  generalize s.sel.lanes.foldl (fun u l => u.move (s.sel.lane l)
          (.done { empties := es, asks := [{ q s with lanes := ql s }], go := .at (.go hdr k prio) })) s1 = s2 at m ⊢
  obtain ⟨w1, w2, w3⟩ := h1
  obtain ⟨m1, m2, m3⟩ := m
  have hl0 : ∀ L, s1.lane L = s.lane L := fun L => by rw [← hs1, w3]; rfl
  have hm0 : ∀ r, s2.mark r = s0.mark r := fun r => by rw [mark_of_lanes m3, ← hs1]; rfl
  have ho : s2 = { s with accs := s2.accs, nextId := s2.nextId, marks := s2.marks, lanes := s2.lanes } := by
    have a := m3
    unfold LanesOnly at a
    rw [a, ← hs1, w3]
  have hv : ValuesKept s s2 := by rw [ho]; exact ⟨rfl, rfl, rfl, rfl, rfl⟩
  refine ⟨?_, ?_, ?_, RegsKept.of_marks (fun r hr => ?_) hv, hv, fun L hL => ?_, ho⟩
  · rw [m3, ← hs1, w3]
  · rw [m3, ← hs1]
  · intro l hl'
    refine ⟨fun e he' => ?_, ?_⟩
    · have := w1 e he'
      rw [State.isFull, hm0, rid_congr (s := s) (by rw [ho]) (by rw [ho])]
      have hc := he e he'
      rw [hc] at this ⊢
      exact this
    · have := m1 l hl'
      rwa [hl0] at this
  · rw [hm0]
    refine w2 r ?_
    intro hin
    apply hr
    obtain ⟨e, he1, he2⟩ := List.mem_map.mp hin
    obtain ⟨a, ha⟩ := List.exists_mem_of_ne_nil _ hp.nonempty
    refine List.mem_flatMap.mpr ⟨a, ha, List.mem_map.mpr ⟨e, he1, ?_⟩⟩
    rw [← he2, he e he1]
    rfl
  · rw [m2 L hL, hl0]

/-! ### Words that begin operations -/

/-- Only operations, their numbering and marks differ. -/
def PendOnly (s t : State) : Prop := t = { s with pend := t.pend, nextId := t.nextId, marks := t.marks }

theorem PendOnly.trans {s t u : State} (h : PendOnly s t) (k : PendOnly t u) : PendOnly s u := by
  unfold PendOnly at *
  rw [k, h]

/-- One operation of one lane. -/
theorem pendLane_law (s : State) (L : LaneId) (own : List Nat) (es : List (RegClass × Nat)) (w : Bool) (ws : List RegW)
    (df pf : W32) (g : Go) (he : ∀ e ∈ es, e.1 ≠ .p) :
    let t := s.applyEff L own { empties := es, pend := some (w, ws, df, pf), go := g }
    t.pend = s.pend ++ [pendOf s.nextId L w ws df pf] ∧ t.nextId = s.nextId + 1 ∧
      (∀ e ∈ es, (t.mark (s.rid L e.1 e.2)).full = false) ∧ MarksKept s t (es.map (fun e => s.rid L e.1 e.2)) ∧
      PendOnly s t := by
  intro t
  have h1 := empties_law L es s he
  have ht : t = (es.foldl (fun u x => u.empty L x.1 x.2) s).addPend L (some (w, ws, df, pf)) :=
    applyEff_pend s L own es w ws df pf g
  generalize es.foldl (fun u x => u.empty L x.1 x.2) s = s0 at h1 ht
  have h2 : s0 = { s with marks := s0.marks } := h1.2.2
  have m : ∀ r, t.mark r = s0.mark r := fun r => by rw [ht]; rfl
  refine ⟨?_, ?_, ?_, ?_, ?_⟩
  · rw [ht, h2]; rfl
  · rw [ht, h2]; rfl
  · intro e hx; rw [m]; exact h1.1 e hx
  · intro r hr; rw [m]; exact h1.2.1 r hr
  · unfold PendOnly; rw [ht, h2]; rfl

/-- One operation for each of several lanes. -/
theorem pend_fold (f : Nat → LaneId) (hf : ∀ l, (f l).lane = l) (w : Bool) (ws : Nat → List RegW) (df pf : Nat → W32) (g : Go) :
    ∀ (ls : List Nat) (s : State), ls.Nodup → (∀ l ∈ ls, ∀ x ∈ ws l, x.cls ≠ .p ∧ x.cls ≠ .s) →
      let t := ls.foldl (fun u l => u.applyEff (f l) [l]
        { empties := (ws l).map (fun x => (x.cls, x.num)), pend := some (w, ws l, df l, pf l), go := g }) s
      t.pend = s.pend ++ ls.mapIdx (fun j l => pendOf (s.nextId + j) (f l) w (ws l) (df l) (pf l)) ∧
      t.nextId = s.nextId + ls.length ∧
      EachDone s t f ls (fun l => (ws l).map (fun x => (x.cls, x.num))) ∧ PendOnly s t
  | [], s, _, _ => by
    refine ⟨by simp, rfl, ⟨by simp, fun _ _ => rfl⟩, rfl⟩
  | a :: t, s, hn, hc => by
    have hn' := List.nodup_cons.mp hn
    have hes : ∀ l ∈ a :: t, ∀ e ∈ (ws l).map (fun x => (x.cls, x.num)), e.1 ≠ .p ∧ e.1 ≠ .s := by
      intro l hl e h
      obtain ⟨x, hx, rfl⟩ := List.mem_map.mp h
      exact hc l hl x hx
    have h1 := pendLane_law s (f a) [a] ((ws a).map (fun x => (x.cls, x.num))) w (ws a) (df a) (pf a) g
      (fun e h => (hes a (by simp) e h).1)
    have ih := pend_fold f hf w ws df pf g t
      (s.applyEff (f a) [a] { empties := (ws a).map (fun x => (x.cls, x.num)), pend := some (w, ws a, df a, pf a), go := g })
      hn'.2 (fun l hl => hc l (by simp [hl]))
    simp only [List.foldl_cons]
    generalize s.applyEff (f a) [a]
      { empties := (ws a).map (fun x => (x.cls, x.num)), pend := some (w, ws a, df a, pf a), go := g } = s1 at h1 ih ⊢
    generalize List.foldl (fun u l => u.applyEff (f l) [l]
      { empties := (ws l).map (fun x => (x.cls, x.num)), pend := some (w, ws l, df l, pf l), go := g }) s1 t = s2 at ih ⊢
    obtain ⟨a1, a2, a3, a4, a5⟩ := h1
    obtain ⟨b1, b2, ⟨b3, b4⟩, b5⟩ := ih
    have hrid : ∀ (M : LaneId) (c : RegClass) (n : Nat), s1.rid M c n = s.rid M c n := fun M c n =>
      rid_congr (by rw [a5]) (by rw [a5]) M c n
    simp only [hrid] at b3 b4
    refine ⟨?_, ?_, ⟨?_, ?_⟩, a5.trans b5⟩
    · rw [b1, a1, a2]
      simp [List.mapIdx_cons, Nat.add_assoc, Nat.add_comm 1]
    · rw [b2, a2]; simp; omega
    · intro l hl e hx
      rcases List.mem_cons.mp hl with rfl | hl
      · rw [b4]
        · exact a3 e hx
        · intro hm
          obtain ⟨m, hm1, hm2⟩ := List.mem_flatMap.mp hm
          obtain ⟨x, hx', hxe⟩ := List.mem_map.mp hm2
          have k1 := rid_lane s (f m) x.1 x.2 (hes m (by simp [hm1]) x hx').2
          have k2 := rid_lane s (f l) e.1 e.2 (hes l (by simp) e hx).2
          rw [hxe, k2, hf, hf] at k1
          exact hn'.1 (k1 ▸ hm1)
      · exact b3 l hl e hx
    · intro r hr
      have hr' : r ∉ ((ws a).map (fun x => (x.cls, x.num))).map (fun e => s.rid (f a) e.1 e.2) ∧
          r ∉ t.flatMap (fun l => ((ws l).map (fun x => (x.cls, x.num))).map (fun e => s.rid (f l) e.1 e.2)) := by
        rw [List.flatMap_cons, List.mem_append, not_or] at hr
        exact hr
      rw [b4 r hr'.2, a4 r hr'.1]

/-- A word that acts for each lane and begins an operation. -/
theorem begins_each {c : State → LaneId → Prop} {i : Instr} {w : Bool} {ws : State → LaneId → List RegW}
    {df pf : State → LaneId → W32} (body : State → LaneId → LaneOut)
    (hx : ∀ s, exec i s = .next (s.perLane (s.guard i) (body s)))
    (hb : ∀ s L, c s L → body s L = .done { empties := (ws s L).map (fun x => (x.cls, x.num)),
                                              pend := some (w, ws s L, df s L, pf s L) })
    (hc : ∀ s L, ∀ x ∈ ws s L, x.cls ≠ .p ∧ x.cls ≠ .s) : BeginsIf c i w ws df pf := by
  intro s hdr k prio hp hf hcs
  refine ⟨_, hx s, ?_⟩
  rw [hp.perLane]
  have e1 : (s.sel.lanes.map fun l => (s.sel.lane l, s.settle (body s (s.sel.lane l)))) =
      s.sel.lanes.map (fun l => (s.sel.lane l,
        LaneOut.done { empties := (ws s (s.sel.lane l)).map (fun x => (x.cls, x.num)),
                       pend := some (w, ws s (s.sel.lane l), df s (s.sel.lane l), pf s (s.sel.lane l)),
                       go := .at (.go hdr k prio) })) :=
    List.map_congr_left (fun l hl => by rw [hb s _ (hcs l hl), settle_at s _ hf rfl])
  have e2 : s.applyOuts (s.sel.lanes.map (fun l => (s.sel.lane l,
        LaneOut.done { empties := (ws s (s.sel.lane l)).map (fun x => (x.cls, x.num)),
                       pend := some (w, ws s (s.sel.lane l), df s (s.sel.lane l), pf s (s.sel.lane l)),
                       go := .at (.go hdr k prio) }))) =
      s.sel.lanes.foldl (fun u l => u.goTo (s.sel.lane l) (.go hdr k prio))
        (s.sel.lanes.foldl (fun u l => u.applyEff (s.sel.lane l) [l]
          { empties := (ws s (s.sel.lane l)).map (fun x => (x.cls, x.num)),
            pend := some (w, ws s (s.sel.lane l), df s (s.sel.lane l), pf s (s.sel.lane l)),
            go := .at (.go hdr k prio) }) s) := by
    simp only [State.applyOuts, List.foldl_map]
    rfl
  rw [e1, e2]
  have w0 := pend_fold (fun l => s.sel.lane l) (fun _ => rfl) w (fun l => ws s (s.sel.lane l)) (fun l => df s (s.sel.lane l))
    (fun l => pf s (s.sel.lane l)) (.at (.go hdr k prio)) s.sel.lanes s hp.nodup (fun l _ => hc s _)
  generalize s.sel.lanes.foldl (fun u l => u.applyEff (s.sel.lane l) [l]
          { empties := (ws s (s.sel.lane l)).map (fun x => (x.cls, x.num)),
            pend := some (w, ws s (s.sel.lane l), df s (s.sel.lane l), pf s (s.sel.lane l)),
            go := .at (.go hdr k prio) }) s = s1 at w0 ⊢
  have m := moves_fold (fun l => s.sel.lane l) (fun _ => rfl)
    (fun _ => LaneOut.done { go := .at (.go hdr k prio) }) hdr k prio
    (fun _ _ => rfl) s.sel.lanes s1 hp.nodup
  have m' : s.sel.lanes.foldl (fun u l => u.move (s.sel.lane l) (LaneOut.done { go := .at (.go hdr k prio) })) s1 =
    s.sel.lanes.foldl (fun u l => u.goTo (s.sel.lane l) (.go hdr k prio)) s1 := rfl
  rw [m'] at m
  generalize s.sel.lanes.foldl (fun u l => u.goTo (s.sel.lane l) (.go hdr k prio)) s1 = s2 at m ⊢
  obtain ⟨w1, w2, ⟨w3, w4⟩, w5⟩ := w0
  obtain ⟨m1, m2, m3⟩ := m
  have hl0 : ∀ L, s1.lane L = s.lane L := fun L => by rw [w5]; rfl
  have ho : s2 = { s with pend := s2.pend, nextId := s2.nextId, marks := s2.marks, lanes := s2.lanes } := by
    have a := m3; have b := w5
    unfold LanesOnly at a
    unfold PendOnly at b
    rw [a, b]
  have hv : ValuesKept s s2 := by rw [ho]; exact ⟨rfl, rfl, rfl, rfl, rfl⟩
  refine ⟨?_, ?_, ?_, RegsKept.of_marks (fun r hr => ?_) hv, hv, fun L hL => ?_, ho⟩
  · rw [m3]; exact w1
  · rw [m3]; exact w2
  · intro l hl
    refine ⟨fun x hx' => ?_, ?_⟩
    · have := w3 l hl (x.cls, x.num) (List.mem_map.mpr ⟨x, hx', rfl⟩)
      rw [State.isFull, mark_of_lanes m3, rid_congr (s := s) (by rw [ho]) (by rw [ho])]
      exact this
    · have := m1 l hl
      rwa [hl0] at this
  · rw [mark_of_lanes m3]
    refine w4 r ?_
    simpa [List.map_map, Function.comp_def] using hr
  · rw [m2 L hL, hl0]

/-! ### Words that write once, and across lanes -/

/-- A word that acts once for its entry and writes one s register. -/
theorem writes_once {i : Instr} (n : Nat) (x : State → D64) (body : State → List Nat → LaneOut)
    (hx : ∀ s, exec i s = .next (s.once (s.guard i) (body s)))
    (hb : ∀ s, s.sel.lanes ≠ [] → body s s.sel.lanes = .done { writes := [.s n (x s)] }) :
    Writes i (fun s _ => [.s n (x s)]) := by
  intro s hdr k prio hp hf _
  refine ⟨_, hx s, ?_⟩
  have hb' : s.settle (body s s.sel.lanes) = .done { writes := [.s n (x s)], go := .at (.go hdr k prio) } := by
    rw [hb s hp.nonempty, settle_at s _ hf rfl]
  rw [hp.once hf (body s) hb']
  have w := writes_law (s.sel.lane (s.sel.lanes.headD 0)) [.s n (x s)] s (by simp)
  have hap : s.applyEff (s.sel.lane (s.sel.lanes.headD 0)) s.sel.lanes
      { writes := [.s n (x s)], go := .at (.go hdr k prio) } =
      s.writes (s.sel.lane (s.sel.lanes.headD 0)) [.s n (x s)] := rfl
  rw [hap]
  generalize s.writes (s.sel.lane (s.sel.lanes.headD 0)) [.s n (x s)] = s1 at w ⊢
  have m := moves_fold (fun l => s.sel.lane l) (fun _ => rfl)
    (fun _ => LaneOut.done { writes := [.s n (x s)], go := .at (.go hdr k prio) }) hdr k prio
    (fun _ _ => rfl) s.sel.lanes s1 hp.nodup
  generalize s.sel.lanes.foldl (fun u l => u.move (s.sel.lane l)
          (.done { writes := [.s n (x s)], go := .at (.go hdr k prio) })) s1 = s2 at m ⊢
  obtain ⟨w1, w2, w3⟩ := w
  obtain ⟨m1, m2, m3⟩ := m
  refine ⟨?_, ?_, fun L hL => by rw [m2 L hL, w3.lane], ?_⟩
  · intro l hl
    refine ⟨?_, ?_⟩
    · intro y hy
      have h0 : y = .s n (x s) := by simpa using hy
      subst h0
      exact (w1 (.s n (x s)) (by simp)).of_lanes m3
    · have := m1 l hl
      rwa [w3.lane] at this
  · refine RegsKept.of_lanes ?_ m3
    intro r hr
    refine w2 r ?_
    intro hin
    apply hr
    obtain ⟨a, ha⟩ := List.exists_mem_of_ne_nil _ hp.nonempty
    refine List.mem_flatMap.mpr ⟨a, ha, ?_⟩
    have h0 : r = s.rid (s.sel.lane (s.sel.lanes.headD 0)) .s n := by simpa [RegW.cls, RegW.num] using hin
    rw [h0]
    exact List.mem_map.mpr ⟨.s n (x s), by simp, rfl⟩
  · have a := m3; have b := w3
    unfold LanesOnly at a
    unfold RegsOnly at b
    unfold OnlyRegs
    rw [a, b]

/-- A cross-lane word that writes v or p registers of every lane of its entry. -/
theorem writes_cross {i : Instr} {ws : State → LaneId → List RegW} (body : State → List Nat → Nat → LaneOut)
    (hx : ∀ s, exec i s = .next (s.cross (s.guard i) (body s)))
    (hb : ∀ s, ∀ l ∈ s.sel.lanes, body s s.sel.lanes l = .done { writes := ws s (s.sel.lane l) })
    (hc : ∀ s L, ∀ w ∈ ws s L, w.cls ≠ .s)
    (hd : ∀ s L, ((ws s L).map (fun w => (w.cls, w.num))).Nodup) : Writes i ws := by
  intro s hdr k prio hp hf _
  refine ⟨_, hx s, ?_⟩
  rw [hp.cross hf]
  have e1 : (s.sel.lanes.map fun l => (s.sel.lane l, s.settle (body s s.sel.lanes l))) =
      s.sel.lanes.map (fun l => (s.sel.lane l, LaneOut.done { writes := ws s (s.sel.lane l), go := .at (.go hdr k prio) })) :=
    List.map_congr_left (fun l hl => by rw [hb s l hl, settle_at s _ hf rfl])
  have w := writes_fold (fun l => s.sel.lane l) (fun _ => rfl) (fun l => ws s (s.sel.lane l)) s.sel.lanes s hp.nodup
    (fun l _ => hc s _) (fun l _ => hd s _)
  have m := moves_fold (fun l => s.sel.lane l) (fun _ => rfl)
    (fun l => LaneOut.done { writes := ws s (s.sel.lane l), go := .at (.go hdr k prio) }) hdr k prio (fun _ _ => rfl)
    s.sel.lanes (s.sel.lanes.foldl (fun u l => u.writes (s.sel.lane l) (ws s (s.sel.lane l))) s) hp.nodup
  have e2 : s.applyOuts (s.sel.lanes.map (fun l => (s.sel.lane l,
      LaneOut.done { writes := ws s (s.sel.lane l), go := .at (.go hdr k prio) }))) =
      s.sel.lanes.foldl (fun u l => u.move (s.sel.lane l) (.done { writes := ws s (s.sel.lane l), go := .at (.go hdr k prio) }))
        (s.sel.lanes.foldl (fun u l => u.writes (s.sel.lane l) (ws s (s.sel.lane l))) s) := by
    simp only [State.applyOuts, List.foldl_map]
    rfl
  rw [e1, e2]
  refine ⟨?_, w.2.1.of_lanes m.2.2, ?_, ?_⟩
  · intro l hl
    refine ⟨fun x hx => (w.1 l hl x hx).of_lanes m.2.2, ?_⟩
    have := m.1 l hl
    rwa [w.2.2.lane] at this
  · intro L hL
    rw [m.2.1 L hL, w.2.2.lane]
  · have h1 := w.2.2
    have h2 := m.2.2
    unfold OnlyRegs
    unfold LanesOnly at h2
    unfold RegsOnly at h1
    rw [h2, h1]

end Sys2Proof
end

