-- ==== Sys2Proof/Laws/Traps.lean ====
section
/-! SUPPORT. Taking a trap: what it writes, what it leaves alone, and lanes that trap together (R62 to R64). -/

namespace Sys2Proof

open Machine

/-- The lane that a trap leaves. -/
def trapLane (s : State) (L : LaneId) (cause : Nat) (tval hdr : D64) (k : Nat) : Lane :=
  { s.lane L with tcause := BitVec.ofNat 32 cause, tpc := tpcOf hdr k, tval := tval, inHandler := true,
                  hdr := s.handler L.team, k := 1, prio := 255, wait := .none, arrive := s.nextId, since := s.clock }

/-- A trap that can be taken replaces one lane, and does nothing else. -/
theorem takeTrap_ok {s : State} {L : LaneId} (hp : (s.teams.find L.team).isSome) (hb : s.trapBar L = none) (cause : Nat)
    (tval hdr : D64) (k : Nat) : s.takeTrap L cause tval hdr k = s.setLane L (trapLane s L cause tval hdr k) := by
  have h : (s.teams.find L.team).isNone = false := by simpa [Option.isNone_iff_eq_none, Option.isSome_iff_ne_none] using hp
  unfold State.takeTrap
  rw [h, hb]
  rfl

/-- What bars a trap of one lane does not depend on other lanes. -/
theorem trapBar_lanes {s t : State} (h : t = { s with lanes := t.lanes }) {L : LaneId} (hl : t.lane L = s.lane L) :
    t.trapBar L = s.trapBar L := by
  unfold State.trapBar
  rw [hl, h]
  rfl

/-- Lanes that take traps one after another: each stands in its handler, and nothing else differs. -/
theorem traps_fold (f : Nat → LaneId) (hf : ∀ l, (f l).lane = l) (cause : Nat) (tval : Nat → D64) (hdr : D64) (k : Nat) :
    ∀ (ls : List Nat) (s : State), ls.Nodup → (∀ l ∈ ls, (s.teams.find (f l).team).isSome ∧ s.trapBar (f l) = none) →
      let t := ls.foldl (fun (u : State) l => u.takeTrap (f l) cause (tval l) hdr k) s
      (∀ l ∈ ls, t.lane (f l) = trapLane s (f l) cause (tval l) hdr k) ∧
      (∀ L, (∀ l ∈ ls, L ≠ f l) → t.lane L = s.lane L) ∧ t = { s with lanes := t.lanes }
  | [], s, _, _ => ⟨by simp, fun _ _ => rfl, rfl⟩
  | a :: r, s, hn, hc => by
    have hn' := List.nodup_cons.mp hn
    have ha := hc a (by simp)
    have e := takeTrap_ok ha.1 ha.2 cause (tval a) hdr k
    have hne : ∀ l ∈ r, f l ≠ f a := fun l hl h => hn'.1 (by have := congrArg LaneId.lane h; rw [hf, hf] at this; exact this ▸ hl)
    have hl1 : ∀ L, L ≠ f a → (s.takeTrap (f a) cause (tval a) hdr k).lane L = s.lane L :=
      fun L hL => by rw [e]; exact setLane_ne s _ hL
    have only : s.takeTrap (f a) cause (tval a) hdr k = { s with lanes := (s.takeTrap (f a) cause (tval a) hdr k).lanes } := by
      rw [e]; rfl
    have ih := traps_fold f hf cause tval hdr k r (s.takeTrap (f a) cause (tval a) hdr k) hn'.2 (fun l hl =>
      ⟨by rw [only]; exact (hc l (by simp [hl])).1,
        by rw [trapBar_lanes only (hl1 _ (hne l hl))]; exact (hc l (by simp [hl])).2⟩)
    obtain ⟨i1, i2, i3⟩ := ih
    refine ⟨fun l hl => ?_, fun L hL => ?_, ?_⟩
    · rcases List.mem_cons.mp hl with h | h
      · subst h
        rw [List.foldl_cons, i2 (f l) (fun x hx => (hne x hx).symm), e]
        exact setLane_self s _ _
      · rw [List.foldl_cons, i1 l h]
        unfold trapLane
        rw [hl1 _ (hne l h), only]
        rfl
    · rw [List.foldl_cons, i2 L (fun l hl => hL l (by simp [hl])), hl1 L (hL a (by simp))]
    · rw [List.foldl_cons, i3, only]

end Sys2Proof
end

