-- ==== Sys2Proof/Machine/Lmas.lean ====
section
/-! DEFINITION. The image that the assembler writes for a kernel (R17, R332 to R336, R339 to R342). A source is given here by
its lines already read: how they are spelled (R330, R331, R337, R338) is text, and no part of the machine. Log entry 91. -/

namespace Sys2Proof.Machine

/-- The diagnostics of R342 that a source whose lines are read can still meet. -/
inductive Diag where
  | e01
  | e02
  | e03
  | e04
  | e05
  | e06
  | e07
  | e08
  | e09
  | e10
  | e11
  | e12
  | e13
  | e14
  | w01
  | w02
  | w03
  deriving DecidableEq, Repr

/-- Whether a diagnostic is an error: a warning does not stop the image (R342). -/
def Diag.isError : Diag → Bool
  | .w01 => false
  | .w02 => false
  | .w03 => false
  | _ => true

/-- A diagnostic with the line that it is reported with (R342). -/
structure Report where
  line : Nat
  diag : Diag
  deriving DecidableEq, Repr

/-! ### Expressions and reals (R332) -/

/-- The binary operators. -/
inductive BinOp where
  | mul
  | div
  | rem
  | add
  | sub
  | shl
  | shr
  | and
  | xor
  | or
  deriving DecidableEq, Repr

/-- An expression; a label's name stands for its value. -/
inductive Expr where
  | lit (x : Int)
  | label (l : String)
  | neg (a : Expr)
  | compl (a : Expr)
  | bin (o : BinOp) (a b : Expr)
  deriving DecidableEq, Repr

/-- Bitwise and of unbounded integers, by two's complement. -/
def intAnd (a b : Int) : Int :=
  let na := (-a - 1).toNat
  let nb := (-b - 1).toNat
  if 0 ≤ a then
    (if 0 ≤ b then (a.toNat &&& b.toNat : Nat) else a - (a.toNat &&& nb : Nat))
  else if 0 ≤ b then b - (b.toNat &&& na : Nat)
  else -(na ||| nb : Nat) - 1

/-- One operator: quotients go towards zero, a remainder has the sign of the dividend, a right shift rounds down. -/
def BinOp.eval (o : BinOp) (a b : Int) : Except Diag Int :=
  match o with
  | .mul => .ok (a * b)
  | .div => if b = 0 then .error .e14 else .ok (a.tdiv b)
  | .rem => if b = 0 then .error .e14 else .ok (a.tmod b)
  | .add => .ok (a + b)
  | .sub => .ok (a - b)
  | .shl => if b < 0 then .error .e14 else .ok (a * 2 ^ b.toNat)
  | .shr => if b < 0 then .error .e14 else .ok (a / 2 ^ b.toNat)
  | .and => .ok (intAnd a b)
  | .or => .ok (a + b - intAnd a b)
  | .xor => .ok (a + b - 2 * intAnd a b)

/-- The labels of a kernel with their values, and whether each is a code label (R336). -/
abbrev Labels := List (String × Int × Bool)

/-- The value of an expression, on unbounded integers. -/
def Expr.eval (ls : Labels) : Expr → Except Diag Int
  | .lit x => .ok x
  | .label l =>
    match Tbl.find ls l with
    | some v => .ok v.1
    | none => .error .e05
  | .neg a =>
    match a.eval ls with
    | .ok x => .ok (-x)
    | .error d => .error d
  | .compl a =>
    match a.eval ls with
    | .ok x => .ok (-x - 1)
    | .error d => .error d
  | .bin o a b =>
    match a.eval ls, b.eval ls with
    | .ok x, .ok y => o.eval x y
    | .error d, _ => .error d
    | _, .error d => .error d

/-- An expression's value within a range (R332). -/
def Expr.within (ls : Labels) (e : Expr) (lo hi : Int) (d : Diag) : Except Diag Int :=
  match e.eval ls with
  | .ok x => if lo ≤ x ∧ x ≤ hi then .ok x else .error d
  | .error d => .error d

/-- A real. `dec` is a decimal literal: a sign, its digits as a number, and the power of ten. -/
inductive SrcReal where
  | dec (neg : Bool) (digits : Nat) (ten : Int)
  | int (e : Expr)
  | ratio (p q : Expr)
  | inf (neg : Bool)
  | nan
  deriving DecidableEq, Repr

/-- A quotient of integers, to more bits than any format keeps. -/
def quotient (neg : Bool) (p q : Nat) : Fval := .fin neg (Mag.div 600 ⟨p, 0, false⟩ ⟨q, 0, false⟩)

/-- The value of a real. A zero keeps its sign: that of a decimal literal's minus, and for `ratio(0, q)` that of q, which R332 does not
say (log entry 91). -/
def SrcReal.eval (ls : Labels) : SrcReal → Except Diag Fval
  | .dec neg x ten => .ok (if 0 ≤ ten then .fin neg ⟨x * 10 ^ ten.toNat, 0, false⟩ else quotient neg x (10 ^ (-ten).toNat))
  | .int e =>
    match e.eval ls with
    | .ok x => .ok (.ofInt x)
    | .error d => .error d
  | .ratio p q =>
    match p.eval ls, q.eval ls with
    | .ok x, .ok y => if y = 0 then .error .e12 else .ok (quotient (decide (x < 0) != decide (y < 0)) x.natAbs y.natAbs)
    | .error d, _ => .error d
    | _, .error d => .error d
  | .inf neg => .ok (.inf neg)
  | .nan => .ok .nan

/-! ### Data items (R341) -/

/-- An item of a data directive. -/
inductive Datum where
  | byte (e : Expr)
  | half (e : Expr)
  | word (e : Expr)
  | dword (e : Expr)
  | float (x : SrcReal)
  | rx8 (e : Option Expr)
  | sc16 (x : SrcReal)
  | dist (xs : List SrcReal) (weights : List Expr)
  | wrec (x : SrcReal) (len : Expr) (valid : Option Expr)
  deriving DecidableEq, Repr

/-- Bytes that a datum takes; labels in a WREC's length are those that stand before it (log entry 91). -/
def Datum.size (ls : Labels) : Datum → Nat
  | .byte _ => 1
  | .half _ => 2
  | .word _ => 4
  | .dword _ => 8
  | .float _ => 4
  | .rx8 _ => 1
  | .sc16 _ => 2
  | .dist _ _ => 48
  | .wrec _ len _ =>
    match len.within ls 2 512 .e04 with
    | .ok n => 8 + 8 * ((n.toNat + 63) / 64)
    | .error _ => 8

/-- An integer of n bytes, two's complement, −2^(8n − 1) to 2^(8n) − 1. -/
def intBytes (ls : Labels) (n : Nat) (e : Expr) : Except Diag (List Byte) :=
  match e.within ls (-(2 ^ (8 * n - 1))) (2 ^ (8 * n) - 1) .e04 with
  | .ok x => .ok (leBytes n (wrapTo (8 * n) x))
  | .error d => .error d

/-- round(x, f32, RNE). -/
def f32Of (x : Fval) : Nat := Fmt.f32.put .rne false x

/-- The exact equality of a magnitude with m · 2^e. -/
def Mag.isExactly (g : Mag) (m : Nat) (e : Int) : Bool :=
  let u := min g.e e
  !g.rest && g.m * 2 ^ (g.e - u).toNat = m * 2 ^ (e - u).toNat

/-- The SC16 whose value is exactly x (R77). None is minus zero: the model does not take 0x0000 for it (log entry 91). -/
def sc16Of : Fval → Option Nat
  | .inf false => some 0xFE00
  | .fin neg g =>
    if g.m = 0 then (if g.rest || neg then none else some 0)
    else if neg then none
    else
      let e := g.top + 63
      let s := if e < 1 then (Mag.units g (-71) .rz false) else e.toNat * 512 + (Mag.units g (g.top - 9) .rz false - 512)
      match sc16 s with
      | .fin _ x => if s < 0xFE00 && g.isExactly x.m x.e then some s else none
      | _ => none
  | _ => none

/-- A WREC of round(x, win(n), RNE) with length n and V as stated (R81). -/
def wrecOf (x : Fval) (n v : Nat) : List Byte :=
  let y : WVal := match x with
    | .nan => ⟨false, .nan, 0, n, v, 0, 0⟩
    | .inf neg => ⟨neg, .inf, 0, n, v, 0, 0⟩
    | .fin neg g =>
      let q := g.toBits n .rne neg
      if g.m = 0 then ⟨neg, .zero, 0, n, v, 0, 0⟩
      else ⟨neg, .fin, q.2 + n - 1, n, v, q.1, 0⟩
  y.record

/-- Results gathered in order. -/
def allOk {α β : Type} (f : α → Except Diag β) : List α → Except Diag (List β)
  | [] => .ok []
  | a :: t =>
    match f a, allOk f t with
    | .ok b, .ok bs => .ok (b :: bs)
    | .error d, _ => .error d
    | _, .error d => .error d

/-- The bytes of a datum, with the labels of the kernel, and those that stand before it for a WREC's length. A `.dist` with other than
eight values, or other than eight weights, has a wrong count of operands. -/
def Datum.bytes (ls before : Labels) : Datum → Except Diag (List Byte)
  | .byte e => intBytes ls 1 e
  | .half e => intBytes ls 2 e
  | .word e => intBytes ls 4 e
  | .dword e => intBytes ls 8 e
  | .float x =>
    match x.eval ls with
    | .ok v => .ok (leBytes 4 (f32Of v))
    | .error d => .error d
  | .rx8 none => .ok [0x80]
  | .rx8 (some e) =>
    match e.within ls (-127) 127 .e04 with
    | .ok x => .ok (leBytes 1 (wrapTo 8 x))
    | .error d => .error d
  | .sc16 x =>
    match x.eval ls with
    | .ok v =>
      match sc16Of v with
      | some s => .ok (leBytes 2 s)
      | none => .error .e12
    | .error d => .error d
  | .dist xs ws =>
    if xs.length ≠ 8 || !(ws.isEmpty || ws.length = 8) then .error .e02
    else match allOk (fun x => x.eval ls) xs, allOk (fun e => e.within ls 0 65535 .e04) ws with
    | .ok vs, .ok us =>
      .ok (vs.flatMap (fun v => leBytes 4 (f32Of v)) ++
        (if ws.isEmpty then (List.replicate 8 (4096 : Int)) else us).flatMap (fun u => leBytes 2 u.toNat))
    | .error d, _ => .error d
    | _, .error d => .error d
  | .wrec x len valid =>
    match x.eval ls, len.within before 2 512 .e04 with
    | .ok v, .ok n =>
      match (valid.getD (.lit n)).within ls 0 n .e04 with
      | .ok m => .ok (wrecOf v n.toNat m.toNat)
      | .error d => .error d
    | .error d, _ => .error d
    | _, .error d => .error d

/-- W01: the weights of a `.dist` do not sum to 32,768. -/
def Datum.warns (ls : Labels) : Datum → Bool
  | .dist _ ws =>
    match allOk (fun e => e.within ls 0 65535 .e04) ws with
    | .ok us => !us.isEmpty && us.foldl (· + ·) 0 ≠ 32768
    | .error _ => false
  | _ => false

/-! ### Lines (R333 to R336, R339, R340) -/

/-- The number fields that a directive writes into the header (R333). -/
inductive HeadField where
  | width
  | vregs
  | sregs
  | dregs
  | wlimbs
  | scratch
  | acc
  | tiles
  | tensors
  | stack
  | lease
  deriving DecidableEq, Repr

/-- Roles (R334). -/
inductive RoleName where
  | main
  | producer
  | consumer
  deriving DecidableEq, Repr

/-- A memory operand of R338, without its imm term: `[sB + vO]`, `[vE..vF]`, `[sB]` and `[sB + vO*sC]`. -/
inductive MemSrc where
  | lane (b o : Nat)
  | pair (e f : Nat)
  | base (b : Nat)
  | strided (b o c : Nat)
  deriving DecidableEq, Repr

/-- What an instruction line takes beside its plain operands: an immediate expression, a branch target, a memory operand with its
imm term, or a half of a parameter, 0 to 3 for lo, hi, h2 and h3 (R337 to R339). -/
inductive Extra where
  | none
  | imm (e : Expr)
  | target (l : String)
  | mem (m : MemSrc) (imm : Option Expr)
  | param (name : String) (half : Nat)
  deriving DecidableEq, Repr

/-- The lines of a kernel after `.kernel`. -/
inductive SrcLine where
  | head (f : HeadField) (e : Expr)
  | shared (vb : Nat) (n : Expr)
  | coResident
  | restartable
  | trap (l : String)
  | role (r : RoleName) (groups vregs : Expr)
  | param (name : String) (size : Nat) (dflt : Option Expr)
  | clause (cls : Nat) (prio : Option Expr) (wait : List Nat) (u : Bool)
  | ins (i : Instr) (x : Extra)
  | toCode
  | toData
  | label (l : String)
  | data (d : List Datum)
  | align (e : Expr)
  deriving DecidableEq, Repr

/-- A kernel's text: each thing with the number of its line. -/
abbrev Source := List (Nat × SrcLine)

/-- Whether a line is a header directive. -/
def SrcLine.isHead : SrcLine → Bool
  | .head _ _ => true
  | .shared _ _ => true
  | .coResident => true
  | .restartable => true
  | .trap _ => true
  | .role _ _ _ => true
  | .param _ _ _ => true
  | _ => false

/-- Legal operands of a number directive (R333). -/
def HeadField.range : HeadField → Int × Int
  | .width => (8, 64)
  | .vregs => (1, 64)
  | .sregs => (1, 32)
  | .dregs => (0, 16)
  | .wlimbs => (0, 256)
  | .scratch => (0, 1048576)
  | .acc => (0, 1048576)
  | .tiles => (0, 32)
  | .tensors => (0, 16)
  | .stack => (0, 65536)
  | .lease => (1, 4096)

/-- Names that no label or parameter may have (R331), in lower case. -/
def reservedNames : List String :=
  let many := fun (c : String) (n : Nat) => (List.range n).map (fun i => c ++ toString i)
  many "v" 64 ++ many "s" 32 ++ many "p" 8 ++ many "d" 16 ++ many "w" 32 ++ many "t" 32 ++ many "x" 16 ++
    ["laneid", "groupidx", "role", "teamx", "teamy", "teamz", "gridx", "gridy", "gridz", "width", "param", "mode", "prec",
     "dctl", "clock", "tcause", "tpc", "tval", "ctxid", "core", "rne", "rz", "ru", "rd", "inf", "nan", "ratio"]

/-- Whether a name is reserved, in any case of its letters. -/
def isReserved (n : String) : Bool := reservedNames.contains n.toLower

/-! ### Where things stand -/

/-- A place in the text: the section in force, the code words, clause lines and data bytes before it, and the labels known there: all
code labels, and the data labels that stand before it. -/
structure TextPos where
  inData : Bool
  word : Nat
  n : Nat
  off : Nat
  seen : Labels
  deriving DecidableEq, Repr

/-- The length that `.align` asks for (R341). -/
def alignOf (ls : Labels) (e : Expr) : Except Diag Nat :=
  match e.within ls 1 4096 .e04 with
  | .ok n => if n.toNat.isPowerOfTwo then .ok n.toNat else .error .e04
  | .error d => .error d

/-- The place after a line, for data that start at offset `d`. `.align` counts from the first byte of the data section, and not from the
kernel header, which R341 does not say; the two differ for lengths above 64 (log entry 91). -/
def TextPos.next (d : Nat) (p : TextPos) : SrcLine → TextPos
  | .toCode => { p with inData := false }
  | .toData => { p with inData := true }
  | .clause _ _ _ _ => { p with word := p.word + 1, n := p.n + 1 }
  | .ins _ _ => { p with word := p.word + 1 }
  | .label l => if p.inData then { p with seen := p.seen ++ [(l, ((d + p.off : Nat) : Int), false)] } else p
  | .data ds => { p with off := p.off + (ds.map (Datum.size p.seen)).sum }
  | .align e =>
    match alignOf p.seen e with
    | .ok n => { p with off := roundUp p.off n }
    | .error _ => p
  | _ => p

/-- The lines with the place that each begins at. -/
def placed (d : Nat) (p : TextPos) : Source → List (TextPos × Nat × SrcLine)
  | [] => []
  | l :: t => (p, l) :: placed d (p.next d l.2) t

/-- The place at which a text begins. -/
def TextPos.start (seen : Labels) : TextPos := ⟨false, 0, 0, 0, seen⟩

/-- Patch entries: the parameter references of the text. -/
def patchCount (ls : Source) : Nat :=
  (ls.filter (fun l => match l.2 with | .ins _ (.param _ _) => true | _ => false)).length

/-- The offsets of the image's parts (R340): the patch table and the data. -/
def patchStart (words : Nat) : Nat := roundUp (64 + 4 * words) 8
def dataStart (words patches : Nat) : Nat := roundUp (patchStart words + 8 * patches) 64

/-- Code words of a text, and where its data start. -/
def codeWords (ls : Source) : Nat := (ls.foldl (fun (p : TextPos) l => p.next 0 l.2) (TextPos.start [])).word
def dataAt (ls : Source) : Nat := dataStart (codeWords ls) (patchCount ls)

/-- The code labels of a text (R336). -/
def codeLabels (ls : Source) : Labels :=
  (placed 0 (.start []) ls).filterMap (fun e =>
    match e.2.2 with
    | .label l => if e.1.inData then none else some (l, ((4 * e.1.word : Nat) : Int), true)
    | _ => none)

/-- The labels of a text with their values (R336). -/
def labelsOf (ls : Source) : Labels := (ls.foldl (fun (p : TextPos) l => p.next (dataAt ls) l.2) (TextPos.start (codeLabels ls))).seen

/-! ### Parameters (R339) -/

/-- The parameters of a text: name, offset, size, default, with the line of each. -/
def paramsOf (from0 : Nat) : Source → List (Nat × String × Nat × Nat × Option Expr)
  | [] => []
  | (k, .param n sz e) :: t => (k, n, roundUp from0 sz, sz, e) :: paramsOf (roundUp from0 sz + sz) t
  | _ :: t => paramsOf from0 t

/-- A parameter by its name: its offset and size. -/
abbrev Params := List (String × Nat × Nat)
def paramTable (ls : Source) : Params := (paramsOf 0 ls).map (fun p => (p.2.1, p.2.2.1, p.2.2.2.1))

/-- The bytes of a parameter's default. -/
def defaultOf (lab : Labels) (size : Nat) (e : Option Expr) : Except Diag (List Byte) := intBytes lab size (e.getD (.lit 0))

/-- A result, or what stands for it in an image that is not written. -/
def orElse {α : Type} (dflt : α) : Except Diag α → α
  | .ok x => x
  | .error _ => dflt

/-- The default parameter block, written beside the image. -/
def paramBlock (lab : Labels) (ls : Source) : List Byte :=
  (paramsOf 0 ls).foldl (fun (b : List Byte) p =>
    b ++ List.replicate (p.2.2.1 - b.length) 0 ++ orElse [] (defaultOf lab p.2.2.2.1 p.2.2.2.2)) []

/-! ### Words -/

/-- A field of a word replaced. -/
def putField (w : W32) (at0 n : Nat) (x : Int) : W32 :=
  (w &&& ~~~BitVec.ofNat 32 ((2 ^ n - 1) * 2 ^ at0)) ||| BitVec.ofNat 32 (wrapTo n x * 2 ^ at0)

/-- The immediate field of a word (R337): least and greatest value, first bit and bits. imm10 is signed, but for SLEEP's, which its entry
calls unsigned, and a queue number of 6 bits; imm16 takes either reading; the others have the ranges of their entries, which count from
0 (log entry 91). -/
def immField (w : W32) : Option (Int × Int × Nat × Nat) :=
  let fn := (fld 5 22 w).toNat
  match majorOf w with
  | 1 => if 5 ≤ fn ∧ fn ≤ 7 then some (0, 31, 0, 10) else some (-512, 511, 0, 10)
  | 9 => if fn ≤ 5 then some (-32768, 65535, 0, 16) else if fn = 7 then some (0, 63, 6, 6) else none
  | 11 => if fn = 14 then some (-512, 511, 0, 10) else none
  | 18 => if fn = 0 && !bitOf w.toNat 10 then some (0, 1023, 0, 10) else none
  | 20 => if fn = 8 then some (0, 7, 0, 3) else if 1 ≤ fn ∧ fn ≤ 3 then some (0, 15, 0, 4) else none
  | 24 => if fn = 4 then some (0, 1023, 0, 10) else none
  | 25 => some (0, 63, 0, 6)
  | 26 => if fn ≤ 4 then some (-512, 511, 0, 10) else none
  | _ => none

/-- A word with its immediate. A value that its field takes and that makes no instruction is outside the field (E04). -/
def putImm (ls : Labels) (w : W32) (e : Expr) : Except Diag W32 :=
  match immField w with
  | none => .error .e02
  | some (lo, hi, at0, n) =>
    match e.within ls lo hi .e04 with
    | .ok x => .ok (putField w at0 n x)
    | .error d => .error d

/-- A branch word with the offset of a label, in words from the branch (R54). -/
def putTarget (ls : Labels) (at0 : Nat) (w : W32) (l : String) : Except Diag W32 :=
  let fn := (fld 3 24 w).toNat
  let n := if fn = 2 then 18 else 20
  if majorOf w ≠ 23 || !(fn ≤ 2 || fn = 4) then .error .e02
  else match Tbl.find ls l with
  | none => .error .e05
  | some (v, true) =>
    let o := v / 4 - at0
    if -(2 ^ (n - 1)) ≤ o ∧ o < 2 ^ (n - 1) then .ok (putField w 0 n o) else .error .e06
  | some (_, false) => .error .e06

/-- The scale of a memory form's imm term (R51, R206 to R211), and whether it takes no offset register, or a stride. -/
def memForm (w : W32) : Option (Nat × Bool × Bool) :=
  let fn := (fld 4 23 w).toNat
  let of := fun (l : List Nat) (single strided : Nat) => (l[fn]?).map (fun s => (s, fn == single, fn == strided))
  match majorOf w with
  | 12 => of [1, 1, 2, 2, 4, 8, 16, 8, 48, 8, 8, 128] 7 10
  | 13 => of [1, 2, 4, 8, 16, 8, 48, 8, 8] 5 8
  | 14 => of [4, 8, 4, 4, 4, 4, 4, 4, 4, 4, 4, 8, 4, 8, 4] 32 32
  | 15 => if 2 ≤ fn then of [0, 0, 128, 128, 8] 32 32 else none
  | _ => none

/-- The base and v offset fields of a memory operand (R51, R338). -/
def MemSrc.fields (single strided : Bool) : MemSrc → Except Diag (Nat × Nat)
  | .lane b o => if single || strided then .error .e02 else if 31 ≤ b || 64 ≤ o then .error .e03 else .ok (b, o)
  | .pair e f => if single || strided then .error .e02 else if e % 2 ≠ 0 || f ≠ e + 1 || 64 ≤ f then .error .e03 else .ok (31, e)
  | .base b => if !single then .error .e02 else if 31 ≤ b then .error .e03 else .ok (b, 0)
  | .strided b o c => if !strided || c ≠ b + 1 then .error .e02 else if 31 ≤ b || 64 ≤ o then .error .e03 else .ok (b, o)

/-- A word with its memory operand. -/
def putMem (ls : Labels) (w : W32) (m : MemSrc) (imm : Option Expr) : Except Diag W32 :=
  match memForm w with
  | none => .error .e02
  | some (scale, single, strided) =>
    match m.fields single strided, (imm.getD (.lit 0)).eval ls with
    | .ok r, .ok x =>
      if x % scale ≠ 0 || x / scale < 0 || 31 < x / scale then .error .e11
      else .ok (putField (putField (putField w 12 5 r.1) 6 6 r.2) 0 5 (x / scale))
    | .error d, _ => .error d
    | _, .error d => .error d

/-- The word of a line: its own, with the operand that the line gives beside. A reference to a parameter that is not declared has no
diagnostic of its own in R342; the model gives it E05, as for a label (log entry 91). -/
def operandWord (ls : Labels) (ps : Params) (at0 : Nat) (w : W32) : Extra → Except Diag W32
  | .none => .ok w
  | .imm e => putImm ls w e
  | .target l => putTarget ls at0 w l
  | .mem m e => putMem ls w m e
  | .param p half =>
    match Tbl.find ps p with
    | none => .error .e05
    | some (_, sz) => if !patchable w || (2 ≤ half && sz ≠ 8) then .error .e10 else .ok (putField w 0 16 0)

/-- The diagnostic of a form that no entry gives: E03 for a register of WAITF beyond its class's range, else E01. -/
def illFormed : Instr → Diag
  | .waitf _ c => if c.toNat ≤ 4 then .e03 else .e01
  | _ => .e01

/-- The word of an instruction line at a word offset: E01 where no entry gives the form, E03 for a misaligned pair or quad or a register
out of range, E04 where the operand makes no instruction of it. -/
noncomputable def asmWord (ls : Labels) (ps : Params) (at0 : Nat) (i : Instr) (x : Extra) : Except Diag W32 :=
  match encode i with
  | none => .error .e01
  | some w =>
    if !i.wellFormed then .error (illFormed i)
    else if i.uses.any (fun u => u.num % u.algn ≠ 0) then .error .e03
    else match operandWord ls ps at0 w x with
      | .error d => .error d
      | .ok y => match decode y with | .ok _ => .ok y | .error _ => .error .e04

/-- The patch entry of a reference at a word offset (R35, R339). -/
def entryOf (ps : Params) (at0 : Nat) (p : String) (half : Nat) : Nat :=
  let off := (Tbl.get (0, 0) ps p).1
  at0 + (off + (if 2 ≤ half then 4 else 0)) * 2 ^ 32 + (if half % 2 = 1 then 2 ^ 48 else 0)

/-- The default priority of the clause line with `n` clause lines before it (R17). -/
def defaultPrio (n : Nat) : Nat := max (250 - n) 1

/-- Instruction lines up to the next `.clause`, `.section` or `.end` (R335). -/
def bodyOf : Source → List (Instr × Extra)
  | (_, .ins i x) :: t => (i, x) :: bodyOf t
  | (_, .label _) :: t => bodyOf t
  | _ => []

/-- The header word of a clause with `n` clause lines before it and `k` body words (R41, R335). -/
def clauseWord (ls : Labels) (n k cls : Nat) (prio : Option Expr) (wait : List Nat) (u : Bool) : Except Diag W32 :=
  let w := fun (p : Nat) =>
    (BitVec.ofNat 32 (30 * 2 ^ 27 + k % 16 * 2 ^ 23 + cls % 8 * 2 ^ 20 + maskOf wait % 16 * 2 ^ 16 + p % 256 * 2 ^ 8 + b2n u * 2 ^ 7))
  match prio with
  | none => .ok (w (defaultPrio n))
  | some e =>
    match e.within ls 0 254 .e08 with
    | .ok p => .ok (w p.toNat)
    | .error d => .error d

/-- The patch table of a text, in ascending word order. -/
def patchesOf (ps : Params) (ls : Source) : List Nat :=
  (placed 0 (.start []) ls).filterMap (fun e =>
    match e.2.2 with
    | .ins _ (.param p half) => some (entryOf ps e.1.word p half)
    | _ => none)

/-- The code words of a text whose labels are known; `body` is what follows each line. -/
noncomputable def codeOf (ls : Labels) (ps : Params) (p : TextPos) : Source → List W32
  | [] => []
  | l :: t =>
    let here : List W32 := match l.2 with
      | .clause c prio w u => [orElse 0 (clauseWord ls p.n (bodyOf t).length c prio w u)]
      | .ins i x => [orElse 0 (asmWord ls ps p.word i x)]
      | _ => []
    here ++ codeOf ls ps (p.next 0 l.2) t

/-- The bytes of the data section. -/
def dataOf (ls : Labels) (text : List (TextPos × Nat × SrcLine)) : List Byte :=
  text.flatMap (fun e => match e.2.2 with
    | .data ds => ds.flatMap (fun d => orElse [] (d.bytes ls e.1.seen))
    | .align x => List.replicate (roundUp e.1.off (orElse 1 (alignOf e.1.seen x)) - e.1.off) 0
    | _ => [])

/-! ### The header (R32, R333, R334) -/

/-- What makes two directives the same one (R333). -/
def SrcLine.kind : SrcLine → Option (Nat × Nat)
  | .head f _ =>
    some (0, match f with
      | .width => 0 | .vregs => 1 | .sregs => 2 | .dregs => 3 | .wlimbs => 4 | .scratch => 5 | .acc => 6 | .tiles => 7
      | .tensors => 8 | .stack => 9 | .lease => 10)
  | .shared _ _ => some (1, 0)
  | .coResident => some (2, 0)
  | .restartable => some (3, 0)
  | .trap _ => some (4, 0)
  | .role r _ _ => some (5, match r with | .main => 0 | .producer => 1 | .consumer => 2)
  | _ => none

/-- The value of a number directive. -/
def headValue (lab : Labels) (f : HeadField) (e : Expr) : Except Diag Nat :=
  match e.within lab f.range.1 f.range.2 .e09 with
  | .ok x => if f = .width && !([8, 16, 32, 64].contains x.toNat) then .error .e09 else .ok x.toNat
  | .error d => .error d

/-- The number of a directive, 0 when it is absent. -/
def headNum (lab : Labels) (ls : Source) (f : HeadField) : Nat :=
  ((ls.findSome? (fun l => match l.2 with | .head g e => if g = f then some e else none | _ => none)).map
    (fun e => orElse 0 (headValue lab f e))).getD 0

/-- An operand from 1 to 64. -/
def upTo64 (lab : Labels) (e : Expr) : Except Diag Int := e.within lab 1 64 .e09

/-- Groups and v registers of a role. -/
def roleNums (lab : Labels) (ls : Source) (r : RoleName) : Option (Nat × Nat) :=
  ls.findSome? (fun l => match l.2 with
    | .role q g v => if q = r then some ((orElse 1 (upTo64 lab g)).toNat, (orElse 1 (upTo64 lab v)).toNat) else none
    | _ => none)

/-- Groups and v registers of roles A and B (R334), none where the directives break R333 or R334. -/
def rolesOf (lab : Labels) (ls : Source) : Option (Nat × Nat × Nat × Nat) :=
  let plain := ls.any (fun l => match l.2 with | .head .vregs _ => true | _ => false)
  match roleNums lab ls .main, roleNums lab ls .producer, roleNums lab ls .consumer with
  | none, none, none => if plain then some (1, headNum lab ls .vregs, 0, 0) else none
  | some m, none, none => if plain then none else some (m.1, m.2, 0, 0)
  | none, some a, some b => if plain || 64 < a.1 + b.1 then none else some (a.1, a.2, b.1, b.2)
  | _, _, _ => none

/-- The clause offset that `.trap` names (R333). -/
def trapOf (lab : Labels) (l : String) : Except Diag Nat :=
  match Tbl.find lab l with
  | some (v, true) => .ok (64 + v.toNat)
  | some (_, false) => .error .e06
  | none => .error .e05

/-- The header's 64 bytes: its fields in R32's order, each with its size. -/
def headBytes (ls : Source) (lab : Labels) : List Byte :=
  let n := headNum lab ls
  let r := (rolesOf lab ls).getD (1, 1, 0, 0)
  let sh := (ls.findSome? (fun l => match l.2 with
    | .shared b e => some (b, (orElse 1 (upTo64 lab e)).toNat) | _ => none)).getD (0, 0)
  let trap := (ls.findSome? (fun l => match l.2 with | .trap x => some (orElse 0 (trapOf lab x)) | _ => none)).getD 0
  let has := fun (x : SrcLine) => ls.any (fun l => l.2 = x)
  let flags := b2n (has .coResident) + 2 * b2n (has .restartable) + 4 * b2n (0 < r.2.2.1)
  leBytes 4 0x314E4B4C ++ leBytes 2 1 ++ leBytes 1 (Nat.log2 (n .width)) ++ leBytes 1 flags ++ leBytes 2 r.1 ++ leBytes 2 r.2.2.1 ++
    leBytes 1 r.2.1 ++ leBytes 1 r.2.2.2 ++ leBytes 1 (n .sregs) ++ leBytes 1 (n .dregs) ++ leBytes 2 (n .wlimbs) ++
    leBytes 1 (n .tiles) ++ leBytes 1 (n .tensors) ++ leBytes 4 (n .scratch) ++ leBytes 4 (n .acc) ++ leBytes 4 (n .stack) ++
    leBytes 2 (n .lease) ++ leBytes 1 sh.1 ++ leBytes 1 sh.2 ++ leBytes 2 (patchCount ls) ++ leBytes 2 0 ++
    leBytes 4 (patchStart (codeWords ls)) ++ leBytes 4 64 ++ leBytes 4 trap ++ leBytes 12 0

/-! ### Diagnostics (R342) -/

/-- What an evaluation reports. -/
def diagOf {α : Type} : Except Diag α → List Diag
  | .ok _ => []
  | .error d => [d]

/-- What a place in the text knows of the lines before it: directives given, labels and parameters named, whether a clause line stood there, and the
class of the clause that is open, with the words it has and its number of words. -/
structure Scan where
  kinds : List (Nat × Nat)
  labels : List String
  params : List String
  late : Bool
  opened : Option (Nat × Nat × Nat)
  inData : Bool
  deriving DecidableEq, Repr

/-- The scan after a line; `t` follows it. -/
def Scan.next (c : Scan) (l : SrcLine) (t : Source) : Scan :=
  let c := { c with kinds := l.kind.toList ++ c.kinds }
  match l with
  | .label x => { c with labels := x :: c.labels }
  | .param x _ _ => { c with params := x :: c.params }
  | .clause k _ _ _ => { c with late := true, opened := some (k, 0, (bodyOf t).length) }
  | .ins _ _ => { c with opened := c.opened.map (fun o => (o.1, o.2.1 + 1, o.2.2)) }
  | .toCode => { c with opened := none, inData := false }
  | .toData => { c with opened := none, inData := true }
  | _ => c

/-- Whether the next thing after a label is what it may stand before (R336). -/
def Scan.labelled (c : Scan) (t : Source) : Bool :=
  match t.find? (fun x => match x.2 with | .label _ => false | _ => true) with
  | some (_, .clause _ _ _ _) => !c.inData
  | some (_, .data _) => c.inData
  | some (_, .align _) => c.inData
  | _ => false

/-- Whether the body word that comes next is of a class that its clause may hold (R43). -/
def Scan.mayHold (c : Scan) (w : W32) : Bool :=
  match c.opened with
  | none => true
  | some (k, i, n) => match classOf (majorOf w) with
    | none => true
    | some x => x = k || (majorOf w = 23 && i + 1 = n)

/-- What is wrong with the place of a line: E05 a name taken, reserved or misplaced, E07 an instruction outside a clause, E09 a
directive repeated or late, E13 a line in the wrong section (R331, R333, R336, R341). Labels and parameters have a name space each,
and a parameter declared twice gets E05 like a label defined twice; the manual says neither (log entry 91). -/
def Scan.faults (c : Scan) (l : SrcLine) (t : Source) : List Diag :=
  let taken := fun (names : List String) (x : String) => if names.contains x || isReserved x then [Diag.e05] else []
  (if l.isHead && (c.late || l.kind.any (c.kinds.contains ·)) then [.e09] else []) ++
    match l with
    | .label x => taken c.labels x ++ (if c.labelled t then [] else [.e05])
    | .param x _ _ => taken c.params x
    | .clause _ _ _ _ => if c.inData then [.e13] else []
    | .ins _ _ => if c.inData then [.e13] else if c.opened.isNone then [.e07] else []
    | .data _ => if c.inData then [] else [.e13]
    | .align _ => if c.inData then [] else [.e13]
    | _ => []

/-- What is wrong with what a line says. -/
noncomputable def lineFaults (lab : Labels) (ps : Params) (p : TextPos) (c : Scan) (l : SrcLine) (t : Source) : List Diag :=
  match l with
  | .head f e => diagOf (headValue lab f e)
  | .shared vb n => (if 64 ≤ vb then [.e03] else []) ++ diagOf (upTo64 lab n)
  | .trap x => diagOf (trapOf lab x)
  | .role _ g v => diagOf (upTo64 lab g) ++ diagOf (upTo64 lab v)
  | .param _ sz e => if sz = 4 || sz = 8 then diagOf (defaultOf lab sz e) else [.e09]
  | .clause k prio w u =>
    let n := (bodyOf t).length
    diagOf (clauseWord lab p.n n k prio w u) ++ (if n = 0 || 15 < n then [.e07] else [])
  | .ins i x => match asmWord lab ps p.word i x with
    | .ok w => if c.mayHold w then [] else [.e07]
    | .error d => [d]
  | .data ds => ds.flatMap (fun d => diagOf (d.bytes lab p.seen))
  | .align e => diagOf (alignOf p.seen e)
  | _ => []

/-- A register at or beyond the count that the header declares, for every role (R23). -/
def beyond (h : Header) (u : RegUse) : Bool :=
  u.nums.any (fun n => h.count 0 u.cls ≤ n && (h.groupsB = 0 || h.count h.groupsA u.cls ≤ n))

/-- The registers that an instruction line names, those of its memory operand among them: the registers of its word, where it has one. -/
noncomputable def lineUses (lab : Labels) (ps : Params) (at0 : Nat) (i : Instr) (x : Extra) : List RegUse :=
  match asmWord lab ps at0 i x with
  | .ok w => (match decode w with | .ok j => j.uses | .error _ => i.uses)
  | .error _ => i.uses

/-- The warnings of a line: W01 weights, W02 a register at or beyond its count. -/
noncomputable def lineWarns (lab : Labels) (ps : Params) (at0 : Nat) (h : Header) : SrcLine → List Diag
  | .data ds => (ds.filter (Datum.warns lab)).map (fun _ => Diag.w01)
  | .ins i x => if (lineUses lab ps at0 i x).any (beyond h) then [.w02] else []
  | _ => []

/-- Everything that is reported line by line. -/
noncomputable def lineReports (lab : Labels) (ps : Params) (h : Header) (d : Nat) (p : TextPos) (c : Scan) : Source → List Report
  | [] => []
  | l :: t =>
    (c.faults l.2 t ++ lineFaults lab ps p c l.2 t ++ lineWarns lab ps p.word h l.2).map (fun x => ⟨l.1, x⟩) ++
      lineReports lab ps h d (p.next d l.2) (c.next l.2 t) t

/-- What is reported of the kernel as a whole, with the line of its `.kernel`: E09 a directive missing, or roles that break R334. -/
def wholeReports (lab : Labels) (ls : Source) (line : Nat) : List Report :=
  let has := fun (f : HeadField) => ls.any (fun l => match l.2 with | .head g _ => g = f | _ => false)
  ([HeadField.width, .sregs].filter (fun f => !has f)).map (fun _ => ⟨line, .e09⟩) ++
    (if (rolesOf lab ls).isNone then [⟨line, .e09⟩] else [])

/-- W03: the first clause line without a priority at or after the 251st (R17). -/
def lateClause (ls : Source) : List Report :=
  let late := (ls.filter (fun l => match l.2 with | .clause _ _ _ _ => true | _ => false)).drop 250
  match late.find? (fun l => match l.2 with | .clause _ none _ _ => true | _ => false) with
  | some l => [⟨l.1, .w03⟩]
  | none => []

/-- What the assembler writes for a kernel: the image and the default parameter block (R339, R340). -/
structure Assembled where
  image : List Byte
  params : List Byte
  deriving DecidableEq, Repr

/-- The image of a text and its default block. -/
noncomputable def kernelImage (ls : Source) (lab : Labels) (ps : Params) : Assembled :=
  let code := codeOf lab ps (.start []) ls
  let data := dataOf lab (placed (dataAt ls) (.start (codeLabels ls)) ls)
  let table := (patchesOf ps ls).flatMap (leBytes 8)
  let body := headBytes ls lab ++ code.flatMap (fun w => leBytes 4 w.toNat)
  let body := if table.isEmpty && data.isEmpty then body
    else body ++ List.replicate (patchStart code.length - body.length) 0 ++ table
  let body := if data.isEmpty then body else body ++ List.replicate (dataAt ls - body.length) 0 ++ data
  ⟨body, paramBlock lab ls⟩

/-- All diagnostics of a kernel, by line (R342). -/
noncomputable def diagnostics (ls : Source) (line : Nat) : List Report :=
  let lab := labelsOf ls
  sortBy (fun (a b : Report) => a.line < b.line)
    (wholeReports lab ls line ++
      lineReports lab (paramTable ls) (headerOf (headBytes ls lab)) (dataAt ls) (.start (codeLabels ls)) ⟨[], [], [], false, none, false⟩ ls ++
      lateClause ls)

/-- A kernel assembled: its image, none when there is an error, and every diagnostic with its line (R342). -/
noncomputable def assemble (ls : Source) (line : Nat) : Option Assembled × List Report :=
  let ds := diagnostics ls line
  (if ds.any (·.diag.isError) then none else some (kernelImage ls (labelsOf ls) (paramTable ls)), ds)

end Sys2Proof.Machine
end

