-- ==== Sys2Proof/Tests/Slice0.lean ====
section
/-! SUPPORT. The tests of this slice: ill-formed terms that WellFormed refuses; words written out from the encodings of the
manual and what they decode to; results worked out in the manual or by hand from it; and, for every obligation that has
hypotheses, a state and operands that meet them (the theorems named witness_...). -/

namespace Sys2Proof.Tests

open Machine

set_option maxRecDepth 20000
set_option Elab.async false

/-! ### What WellFormed and the decoder refuse -/

/-- R51, R27, R131, R132, R155, R174, R177, R251, R276, R280: word forms with a field value that the rule of the form forbids. -/
theorem test_ill_formed_words :
    (Instr.sldB64 ⟨4, 31, 0⟩).wellFormed = false ∧ (Instr.sstB64 ⟨4, 31, false, 0⟩).wellFormed = false ∧
    (Instr.wlds ⟨4, 31, 0, 0⟩).wellFormed = false ∧ (Instr.wsts ⟨4, 31, 0, false, 0⟩).wellFormed = false ∧
    (Instr.attn 3 1 4 12 3).wellFormed = false ∧ (Instr.hadq 1 5 3).wellFormed = false ∧
    (Instr.dmom 4 8 0).wellFormed = false ∧ (Instr.dmom 4 8 5).wellFormed = false ∧
    (Instr.wfrom 4 6 8 false).wellFormed = false ∧ (Instr.wto 4 6 8 false).wellFormed = false ∧
    (Instr.waitf 8 2).wellFormed = false ∧ (Instr.waitf 16 3).wellFormed = false ∧ (Instr.waitf 32 1).wellFormed = false ∧
    (Instr.waitf 32 4).wellFormed = false ∧ (Instr.waitf 0 5).wellFormed = false ∧ (Instr.shtake 4 4).wellFormed = false ∧
    (Instr.svc 4 8 0).wellFormed = false ∧ (Instr.svc 4 8 5).wellFormed = false ∧ (Instr.sread 4 0x00B).wellFormed = false ∧
    (Instr.swrite 4 0x018).wellFormed = false := by decide

/-- The ranges of the numbers that events name: queues, contexts, clusters, pages, ports, parts. -/
theorem test_ill_formed_events :
    (Instr.doorbell 64 0).wellFormed = false ∧ (Instr.launchAcceptance 64).wellFormed = false ∧
    (Instr.teamStart 16).wellFormed = false ∧ (Instr.foragerRequest 16).wellFormed = false ∧
    (Instr.foragerAnswer 16).wellFormed = false ∧ (Instr.preemptForRoom 16).wellFormed = false ∧
    (Instr.refill 16).wellFormed = false ∧ (Instr.batchDelivery 16).wellFormed = false ∧
    (Instr.resolvePoison 1 0 0x1001).wellFormed = false ∧ (Instr.list 256 0).wellFormed = false ∧
    (Instr.dbglist 1 16).wellFormed = false ∧ (Instr.pageRepairTimeout 1 0 0x1000 3).wellFormed = false ∧
    (Instr.peerReset 12).wellFormed = false ∧ (Instr.gidonFlitError 0 4096).wellFormed = false ∧
    (Instr.gidonNak 12 0).wellFormed = false ∧ (Instr.gidonLaneFailure 12).wellFormed = false ∧
    (Instr.gidonPortRetrain 12).wellFormed = false ∧ (Instr.coreFailure 3072).wellFormed = false ∧
    (Instr.combError 0 256).wellFormed = false ∧ (Instr.sliceFailure 2048 0 []).wellFormed = false ∧
    (Instr.preronFailure 64).wellFormed = false ∧ (Instr.overTemperature 4 90).wellFormed = false ∧
    (Instr.hostAccess 1 0 129 none).wellFormed = false ∧ (Instr.hostAccess 1 0 0 none).wellFormed = false := by decide

/-- R56, R57, R60: words that are no instruction, and why. -/
theorem test_refused_words :
    decode 0xF8000000 = .error .major ∧ decode 0xF0000000 = .error .major ∧ decode 0xD8000000 = .error .major ∧
    decode 0x82800000 = .error .fn ∧ decode 0x82400001 = .error .unusedField ∧ decode 0x8A000001 = .error .unusedField ∧
    decode 0x88410000 = .error .tensorId := by
  refine ⟨?_, ?_, ?_, ?_, ?_, ?_, ?_⟩ <;> rfl

/-! ### Decoding: one word of every form, its bits written out from the table of R57 and the formats R48 to R55 -/

/-- R57: major 0, every word of it, by the fields of the table's encodings. -/
theorem test_decode_vint :
    decode 0x000524EE = .ok (.iadd ⟨5, 9, 14, true, true, 2⟩) ∧ decode 0x004524EE = .ok (.isub ⟨5, 9, 14, true, true, 2⟩) ∧
    decode 0x008524EE = .ok (.imul ⟨5, 9, 14, true, true, 2⟩) ∧ decode 0x00C524EE = .ok (.imulhS ⟨5, 9, 14, true, true, 2⟩) ∧
    decode 0x010524EE = .ok (.imulhZ ⟨5, 9, 14, true, true, 2⟩) ∧ decode 0x014524EE = .ok (.iminS ⟨5, 9, 14, true, true, 2⟩) ∧
    decode 0x018524EE = .ok (.iminZ ⟨5, 9, 14, true, true, 2⟩) ∧ decode 0x01C524EE = .ok (.imaxS ⟨5, 9, 14, true, true, 2⟩) ∧
    decode 0x020524EE = .ok (.imaxZ ⟨5, 9, 14, true, true, 2⟩) ∧ decode 0x024524EE = .ok (.iabsdS ⟨5, 9, 14, true, true, 2⟩) ∧
    decode 0x028524EE = .ok (.and ⟨5, 9, 14, true, true, 2⟩) ∧ decode 0x02C524EE = .ok (.or ⟨5, 9, 14, true, true, 2⟩) ∧
    decode 0x030524EE = .ok (.xor ⟨5, 9, 14, true, true, 2⟩) ∧ decode 0x034524EE = .ok (.andn ⟨5, 9, 14, true, true, 2⟩) ∧
    decode 0x038524EE = .ok (.shl ⟨5, 9, 14, true, true, 2⟩) ∧ decode 0x03C524EE = .ok (.shrZ ⟨5, 9, 14, true, true, 2⟩) ∧
    decode 0x040524EE = .ok (.shrS ⟨5, 9, 14, true, true, 2⟩) ∧ decode 0x044524EE = .ok (.rotl ⟨5, 9, 14, true, true, 2⟩) ∧
    decode 0x04852409 = .ok (.popc ⟨5, 9, true, true⟩) ∧ decode 0x04C52409 = .ok (.clz ⟨5, 9, true, true⟩) ∧
    decode 0x05052409 = .ok (.brev ⟨5, 9, true, true⟩) ∧ decode 0x054524EE = .ok (.bfxS ⟨5, 9, 14, true, true, 2⟩) ∧
    decode 0x058524EE = .ok (.bfxZ ⟨5, 9, 14, true, true, 2⟩) ∧ decode 0x05C524EE = .ok (.prmt ⟨5, 9, 14, true, true, 2⟩) ∧
    decode 0x060524EE = .ok (.iadd64 ⟨5, 9, 14, true, true, 2⟩) ∧ decode 0x064524EE = .ok (.isub64 ⟨5, 9, 14, true, true, 2⟩) ∧
    decode 0x068524EE = .ok (.shl64 ⟨5, 9, 14, true, true, 2⟩) ∧ decode 0x06C524EE = .ok (.shr64Z ⟨5, 9, 14, true, true, 2⟩) ∧
    decode 0x070524EE = .ok (.shr64S ⟨5, 9, 14, true, true, 2⟩) ∧
    decode 0x074524EE = .ok (.iaddsatS ⟨5, 9, 14, true, true, 2⟩) := by
  refine ⟨?_, ?_, ?_, ?_, ?_, ?_, ?_, ?_, ?_, ?_, ?_, ?_, ?_, ?_, ?_, ?_, ?_, ?_, ?_, ?_, ?_, ?_, ?_, ?_, ?_, ?_, ?_, ?_, ?_, ?_⟩ <;> rfl

/-- R57: major 1, every word of it, by the fields of the table's encodings. -/
theorem test_decode_vimm :
    decode 0x08052605 = .ok (.iaddi ⟨5, 9, 517⟩) ∧ decode 0x08452605 = .ok (.imuli ⟨5, 9, 517⟩) ∧
    decode 0x08852605 = .ok (.andi ⟨5, 9, 517⟩) ∧ decode 0x08C52605 = .ok (.ori ⟨5, 9, 517⟩) ∧
    decode 0x09052605 = .ok (.xori ⟨5, 9, 517⟩) ∧ decode 0x0945241D = .ok (.shli ⟨5, 9, 29⟩) ∧
    decode 0x0985241D = .ok (.shriZ ⟨5, 9, 29⟩) ∧ decode 0x09C5241E = .ok (.shriS ⟨5, 9, 30⟩) ∧
    decode 0x0A052605 = .ok (.iminiS ⟨5, 9, 517⟩) ∧ decode 0x0A452605 = .ok (.imaxiS ⟨5, 9, 517⟩) := by
  refine ⟨?_, ?_, ?_, ?_, ?_, ?_, ?_, ?_, ?_, ?_⟩ <;> rfl

/-- R57: major 2, every word of it, by the fields of the table's encodings. -/
theorem test_decode_vflt :
    decode 0x100524EE = .ok (.fadd ⟨5, 9, 14, true, true, 2⟩) ∧ decode 0x104524EE = .ok (.fsub ⟨5, 9, 14, true, true, 2⟩) ∧
    decode 0x108524EE = .ok (.fmul ⟨5, 9, 14, true, true, 2⟩) ∧ decode 0x10C524EE = .ok (.fmin ⟨5, 9, 14, true, true, 2⟩) ∧
    decode 0x110524EE = .ok (.fmax ⟨5, 9, 14, true, true, 2⟩) ∧ decode 0x114524EE = .ok (.fminn ⟨5, 9, 14, true, true, 2⟩) ∧
    decode 0x118524EE = .ok (.fmaxn ⟨5, 9, 14, true, true, 2⟩) ∧ decode 0x11C52409 = .ok (.fabs ⟨5, 9, true, true⟩) ∧
    decode 0x12052409 = .ok (.fneg ⟨5, 9, true, true⟩) ∧ decode 0x124524EE = .ok (.fcpys ⟨5, 9, 14, true, true, 2⟩) ∧
    decode 0x12852409 = .ok (.frint ⟨5, 9, true, true⟩) ∧ decode 0x12C52409 = .ok (.ffloor ⟨5, 9, true, true⟩) ∧
    decode 0x13052409 = .ok (.fceil ⟨5, 9, true, true⟩) ∧ decode 0x13452409 = .ok (.ftrunc ⟨5, 9, true, true⟩) ∧
    decode 0x138524EE = .ok (.fldexp ⟨5, 9, 14, true, true, 2⟩) ∧ decode 0x13C52409 = .ok (.fexpo ⟨5, 9, true, true⟩) ∧
    decode 0x14052409 = .ok (.fclass ⟨5, 9, true, true⟩) := by
  refine ⟨?_, ?_, ?_, ?_, ?_, ?_, ?_, ?_, ?_, ?_, ?_, ?_, ?_, ?_, ?_, ?_, ?_⟩ <;> rfl

/-- R57: major 3, every word of it, by the fields of the table's encodings. -/
theorem test_decode_vhalf :
    decode 0x180524EE = .ok (.hadd2 ⟨5, 9, 14, true, true, 2⟩) ∧ decode 0x184524EE = .ok (.hsub2 ⟨5, 9, 14, true, true, 2⟩) ∧
    decode 0x188524EE = .ok (.hmul2 ⟨5, 9, 14, true, true, 2⟩) ∧ decode 0x18C524EE = .ok (.hmin2 ⟨5, 9, 14, true, true, 2⟩) ∧
    decode 0x190524EE = .ok (.hmax2 ⟨5, 9, 14, true, true, 2⟩) ∧ decode 0x194524EE = .ok (.badd2 ⟨5, 9, 14, true, true, 2⟩) ∧
    decode 0x198524EE = .ok (.bsub2 ⟨5, 9, 14, true, true, 2⟩) ∧ decode 0x19C524EE = .ok (.bmul2 ⟨5, 9, 14, true, true, 2⟩) ∧
    decode 0x1A0524EE = .ok (.bmin2 ⟨5, 9, 14, true, true, 2⟩) ∧
    decode 0x1A4524EE = .ok (.bmax2 ⟨5, 9, 14, true, true, 2⟩) := by
  refine ⟨?_, ?_, ?_, ?_, ?_, ?_, ?_, ?_, ?_, ?_⟩ <;> rfl

/-- R57: major 4, every word of it, by the fields of the table's encodings. -/
theorem test_decode_vdbl :
    decode 0x200524EE = .ok (.faddF64 ⟨5, 9, 14, true, true, 2⟩) ∧
    decode 0x204524EE = .ok (.fsubF64 ⟨5, 9, 14, true, true, 2⟩) ∧
    decode 0x208524EE = .ok (.fmulF64 ⟨5, 9, 14, true, true, 2⟩) ∧
    decode 0x20C524EE = .ok (.fminF64 ⟨5, 9, 14, true, true, 2⟩) ∧
    decode 0x210524EE = .ok (.fmaxF64 ⟨5, 9, 14, true, true, 2⟩) ∧ decode 0x21452409 = .ok (.fabsF64 ⟨5, 9, true, true⟩) ∧
    decode 0x21852409 = .ok (.fnegF64 ⟨5, 9, true, true⟩) ∧ decode 0x21C524EE = .ok (.fdivF64 ⟨5, 9, 14, true, true, 2⟩) ∧
    decode 0x22052409 = .ok (.fsqrtF64 ⟨5, 9, true, true⟩) := by
  refine ⟨?_, ?_, ?_, ?_, ?_, ?_, ?_, ?_, ?_⟩ <;> rfl

/-- R57: major 5, every word of it, by the fields of the table's encodings. -/
theorem test_decode_vfuse :
    decode 0x28149383 = .ok (.fma ⟨5, 9, 14, 3⟩) ∧ decode 0x29149383 = .ok (.fms ⟨5, 9, 14, 3⟩) ∧
    decode 0x2A149383 = .ok (.fnma ⟨5, 9, 14, 3⟩) ∧ decode 0x2B149383 = .ok (.fmaF64 ⟨5, 9, 14, 3⟩) ∧
    decode 0x2C149383 = .ok (.hfma2 ⟨5, 9, 14, 3⟩) ∧ decode 0x2D149383 = .ok (.bfma2 ⟨5, 9, 14, 3⟩) ∧
    decode 0x2E149383 = .ok (.imad ⟨5, 9, 14, 3⟩) ∧ decode 0x2F149383 = .ok (.bfi ⟨5, 9, 14, 3⟩) := by
  refine ⟨?_, ?_, ?_, ?_, ?_, ?_, ?_, ?_⟩ <;> rfl

/-- R57: major 6, every word of it, by the fields of the table's encodings. -/
theorem test_decode_vcvt :
    decode 0x30052469 = .ok (.cvtF32S32 ⟨5, 9, some 2, true, true⟩) ∧
    decode 0x30452469 = .ok (.cvtF32Z32 ⟨5, 9, some 2, true, true⟩) ∧
    decode 0x30852469 = .ok (.cvtS32F32 ⟨5, 9, some 2, true, true⟩) ∧
    decode 0x30C52469 = .ok (.cvtZ32F32 ⟨5, 9, some 2, true, true⟩) ∧
    decode 0x31052469 = .ok (.cvtF32F16 ⟨5, 9, some 2, true, true⟩) ∧
    decode 0x31452469 = .ok (.cvtF16F32 ⟨5, 9, some 2, true, true⟩) ∧
    decode 0x31852469 = .ok (.cvtF32B16 ⟨5, 9, some 2, true, true⟩) ∧
    decode 0x31C52469 = .ok (.cvtB16F32 ⟨5, 9, some 2, true, true⟩) ∧
    decode 0x32052469 = .ok (.cvtF64F32 ⟨5, 9, some 2, true, true⟩) ∧
    decode 0x32452469 = .ok (.cvtF32F64 ⟨5, 9, some 2, true, true⟩) ∧
    decode 0x32852469 = .ok (.cvtF64S64 ⟨5, 9, some 2, true, true⟩) ∧
    decode 0x32C52469 = .ok (.cvtS64F64 ⟨5, 9, some 2, true, true⟩) ∧
    decode 0x33052469 = .ok (.packF16 ⟨5, 9, some 2, true, true⟩) ∧
    decode 0x33452469 = .ok (.packB16 ⟨5, 9, some 2, true, true⟩) := by
  refine ⟨?_, ?_, ?_, ?_, ?_, ?_, ?_, ?_, ?_, ?_, ?_, ?_, ?_, ?_⟩ <;> rfl

/-- R57: major 7, every word of it, by the fields of the table's encodings. -/
theorem test_decode_vsfu :
    decode 0x38052409 = .ok (.frcp ⟨5, 9, true, true⟩) ∧ decode 0x38452409 = .ok (.frsq ⟨5, 9, true, true⟩) ∧
    decode 0x38852409 = .ok (.fsqrt ⟨5, 9, true, true⟩) ∧ decode 0x38C524EE = .ok (.fdiv ⟨5, 9, 14, true, true, 2⟩) ∧
    decode 0x39052409 = .ok (.fexp2 ⟨5, 9, true, true⟩) ∧ decode 0x39452409 = .ok (.flog2 ⟨5, 9, true, true⟩) ∧
    decode 0x39852409 = .ok (.fsinpi ⟨5, 9, true, true⟩) ∧ decode 0x39C52409 = .ok (.fcospi ⟨5, 9, true, true⟩) ∧
    decode 0x3A052409 = .ok (.ftanh ⟨5, 9, true, true⟩) := by
  refine ⟨?_, ?_, ?_, ?_, ?_, ?_, ?_, ?_, ?_⟩ <;> rfl

/-- R57: major 8, every word of it, by the fields of the table's encodings. -/
theorem test_decode_vcmp :
    decode 0x4029383D = .ok (.fset ⟨5, 1, 14, 3, true, true, 1⟩) ∧
    decode 0x4069383D = .ok (.fsetF64 ⟨5, 1, 14, 3, true, true, 1⟩) ∧
    decode 0x40A9383D = .ok (.iset ⟨5, 1, 14, 3, true, true, 1⟩) ∧
    decode 0x40E9383D = .ok (.iset64 ⟨5, 1, 14, 3, true, true, 1⟩) ∧ decode 0x4129183C = .ok (.plop ⟨5, 1, 6, 3, true, true⟩) ∧
    decode 0x414524E7 = .ok (.sel ⟨5, 9, 14, 3, true⟩) := by
  refine ⟨?_, ?_, ?_, ?_, ?_, ?_⟩ <;> rfl

/-- R57: major 9, every word of it, by the fields of the table's encodings. -/
theorem test_decode_vmove :
    decode 0x48058005 = .ok (.movlo ⟨5, 32773⟩) ∧ decode 0x48458005 = .ok (.movhi ⟨5, 32773⟩) ∧
    decode 0x48858005 = .ok (.smovlo ⟨5, 32773⟩) ∧ decode 0x48C58005 = .ok (.smovhi ⟨5, 32773⟩) ∧
    decode 0x49058005 = .ok (.smovh2 ⟨5, 32773⟩) ∧ decode 0x49458005 = .ok (.smovh3 ⟨5, 32773⟩) ∧
    decode 0x4985002E = .ok (.bcast ⟨5, true, 14⟩) ∧ decode 0x49C5024E = .ok (.laneget ⟨5, 9, 14⟩) := by
  refine ⟨?_, ?_, ?_, ?_, ?_, ?_, ?_, ?_⟩ <;> rfl

/-- R57: major 10, every word of it, by the fields of the table's encodings. -/
theorem test_decode_vxlane :
    decode 0x500524EE = .ok (.shflIdx ⟨5, 9, 14, true, true, 2⟩) ∧ decode 0x504524EE = .ok (.shflUp ⟨5, 9, 14, true, true, 2⟩) ∧
    decode 0x508524EE = .ok (.shflDown ⟨5, 9, 14, true, true, 2⟩) ∧
    decode 0x50C524EE = .ok (.shflXor ⟨5, 9, 14, true, true, 2⟩) ∧ decode 0x51050408 = .ok (.voteAny ⟨5, 1, true⟩) ∧
    decode 0x51450408 = .ok (.voteAll ⟨5, 1, true⟩) ∧ decode 0x51850408 = .ok (.ballot ⟨5, 1, true⟩) ∧
    decode 0x51C52409 = .ok (.gredAdd ⟨5, 9, true, true⟩) ∧ decode 0x52052409 = .ok (.gredMaxS ⟨5, 9, true, true⟩) ∧
    decode 0x52452409 = .ok (.gredFadd ⟨5, 9, true, true⟩) ∧ decode 0x52852409 = .ok (.gscanAdd ⟨5, 9, true, true⟩) := by
  refine ⟨?_, ?_, ?_, ?_, ?_, ?_, ?_, ?_, ?_, ?_, ?_⟩ <;> rfl

/-- R57: major 11, every word of it, by the fields of the table's encodings. -/
theorem test_decode_salu :
    decode 0x580524EE = .ok (.sadd ⟨5, 9, 14, true, true, 2⟩) ∧ decode 0x584524EE = .ok (.ssub ⟨5, 9, 14, true, true, 2⟩) ∧
    decode 0x588524EE = .ok (.smul ⟨5, 9, 14, true, true, 2⟩) ∧ decode 0x58C524EE = .ok (.sand ⟨5, 9, 14, true, true, 2⟩) ∧
    decode 0x590524EE = .ok (.sor ⟨5, 9, 14, true, true, 2⟩) ∧ decode 0x594524EE = .ok (.sxor ⟨5, 9, 14, true, true, 2⟩) ∧
    decode 0x598524EE = .ok (.sshl ⟨5, 9, 14, true, true, 2⟩) ∧ decode 0x59C524EE = .ok (.sshrZ ⟨5, 9, 14, true, true, 2⟩) ∧
    decode 0x5A0524EE = .ok (.sshrS ⟨5, 9, 14, true, true, 2⟩) ∧ decode 0x5A4524EE = .ok (.sminS ⟨5, 9, 14, true, true, 2⟩) ∧
    decode 0x5A8524EE = .ok (.smaxS ⟨5, 9, 14, true, true, 2⟩) ∧ decode 0x5AC524EE = .ok (.sseteq ⟨5, 9, 14, true, true, 2⟩) ∧
    decode 0x5B0524EE = .ok (.ssetltS ⟨5, 9, 14, true, true, 2⟩) ∧
    decode 0x5B4524EE = .ok (.ssetltZ ⟨5, 9, 14, true, true, 2⟩) ∧ decode 0x5B852605 = .ok (.saddi ⟨5, 9, 517⟩) := by
  refine ⟨?_, ?_, ?_, ?_, ?_, ?_, ?_, ?_, ?_, ?_, ?_, ?_, ?_, ?_, ?_⟩ <;> rfl

/-- R57: major 12, every word of it, by the fields of the table's encodings. -/
theorem test_decode_load :
    decode 0x600A9383 = .ok (.ldS8 ⟨5, 9, 14, 3⟩) ∧ decode 0x608A9383 = .ok (.ldZ8 ⟨5, 9, 14, 3⟩) ∧
    decode 0x610A9383 = .ok (.ldS16 ⟨5, 9, 14, 3⟩) ∧ decode 0x618A9383 = .ok (.ldZ16 ⟨5, 9, 14, 3⟩) ∧
    decode 0x620A9383 = .ok (.ldB32 ⟨5, 9, 14, 3⟩) ∧ decode 0x628A9383 = .ok (.ldB64 ⟨5, 9, 14, 3⟩) ∧
    decode 0x630A9383 = .ok (.ldB128 ⟨5, 9, 14, 3⟩) ∧ decode 0x638A900E = .ok (.sldB64 ⟨5, 9, 14⟩) ∧
    decode 0x640A9383 = .ok (.dld ⟨5, 9, 14, 3⟩) ∧ decode 0x648A9383 = .ok (.wld ⟨5, 9, 14, 3⟩) ∧
    decode 0x650A9383 = .ok (.wlds ⟨5, 9, 14, 3⟩) ∧ decode 0x6580524E = .ok (.prf ⟨5, 9, 14⟩) := by
  refine ⟨?_, ?_, ?_, ?_, ?_, ?_, ?_, ?_, ?_, ?_, ?_, ?_⟩ <;> rfl

/-- R57: major 13, every word of it, by the fields of the table's encodings. -/
theorem test_decode_store :
    decode 0x680A93A6 = .ok (.stB8 ⟨5, 9, 14, true, 6⟩) ∧ decode 0x688A93A6 = .ok (.stB16 ⟨5, 9, 14, true, 6⟩) ∧
    decode 0x690A93A6 = .ok (.stB32 ⟨5, 9, 14, true, 6⟩) ∧ decode 0x698A93A6 = .ok (.stB64 ⟨5, 9, 14, true, 6⟩) ∧
    decode 0x6A0A93A6 = .ok (.stB128 ⟨5, 9, 14, true, 6⟩) ∧ decode 0x6A8A9023 = .ok (.sstB64 ⟨5, 9, true, 3⟩) ∧
    decode 0x6B0A93A6 = .ok (.dst ⟨5, 9, 14, true, 6⟩) ∧ decode 0x6B8A93A6 = .ok (.wst ⟨5, 9, 14, true, 6⟩) ∧
    decode 0x6C0A93A6 = .ok (.wsts ⟨5, 9, 14, true, 6⟩) := by
  refine ⟨?_, ?_, ?_, ?_, ?_, ?_, ?_, ?_, ?_⟩ <;> rfl

/-- R57: major 14, every word of it, by the fields of the table's encodings. -/
theorem test_decode_atom :
    decode 0x700A93A6 = .ok (.atomAddB32 ⟨5, 9, 14, true, 6⟩) ∧ decode 0x708A93A6 = .ok (.atomAddB64 ⟨5, 9, 14, true, 6⟩) ∧
    decode 0x710A93A6 = .ok (.atomFaddF32 ⟨5, 9, 14, true, 6⟩) ∧ decode 0x718A93A6 = .ok (.atomMinS32 ⟨5, 9, 14, true, 6⟩) ∧
    decode 0x720A93A6 = .ok (.atomMaxS32 ⟨5, 9, 14, true, 6⟩) ∧ decode 0x728A93A6 = .ok (.atomMinZ32 ⟨5, 9, 14, true, 6⟩) ∧
    decode 0x730A93A6 = .ok (.atomMaxZ32 ⟨5, 9, 14, true, 6⟩) ∧ decode 0x738A93A6 = .ok (.atomAndB32 ⟨5, 9, 14, true, 6⟩) ∧
    decode 0x740A93A6 = .ok (.atomOrB32 ⟨5, 9, 14, true, 6⟩) ∧ decode 0x748A93A6 = .ok (.atomXorB32 ⟨5, 9, 14, true, 6⟩) ∧
    decode 0x750A93A6 = .ok (.atomExchB32 ⟨5, 9, 14, true, 6⟩) ∧ decode 0x758A93A6 = .ok (.atomExchB64 ⟨5, 9, 14, true, 6⟩) ∧
    decode 0x760A93A6 = .ok (.atomCasB32 ⟨5, 9, 14, true, 6⟩) ∧ decode 0x768A93A6 = .ok (.atomCasB64 ⟨5, 9, 14, true, 6⟩) ∧
    decode 0x770A93A6 = .ok (.atomIncZ32 ⟨5, 9, 14, true, 6⟩) := by
  refine ⟨?_, ?_, ?_, ?_, ?_, ?_, ?_, ?_, ?_, ?_, ?_, ?_, ?_, ?_, ?_⟩ <;> rfl

/-- R57: major 15, every word of it, by the fields of the table's encodings. -/
theorem test_decode_memx :
    decode 0x78000000 = .ok .fenceHost ∧ decode 0x78800000 = .ok .fenceSys ∧ decode 0x7900524E = .ok (.cwb ⟨5, 9, 14⟩) ∧
    decode 0x7980524E = .ok (.cinv ⟨5, 9, 14⟩) ∧ decode 0x7A0A9383 = .ok (.xlq ⟨5, 9, 14, 3⟩) := by
  refine ⟨?_, ?_, ?_, ?_, ?_⟩ <;> rfl

/-- R57: major 16, every word of it, by the fields of the table's encodings. -/
theorem test_decode_mat :
    decode 0x800A970C = .ok (.mma 5 9 14 3) ∧ decode 0x804A970C = .ok (.mloop 5 9 14 3) ∧
    decode 0x808A970C = .ok (.mloops 5 9 14 3) ∧ decode 0x80CA970E = .ok (.attn 5 9 14 3 2) ∧
    decode 0x810A9001 = .ok (.hadq 5 9 1) ∧ decode 0x814A9000 = .ok (.qnt 5 9) ∧ decode 0x818A0000 = .ok (.accz 5) ∧
    decode 0x81CA9001 = .ok (.accrd 5 9 true) ∧ decode 0x820A9000 = .ok (.accwr 5 9) ∧ decode 0x82400000 = .ok .mrel := by
  refine ⟨?_, ?_, ?_, ?_, ?_, ?_, ?_, ?_, ?_, ?_⟩ <;> rfl

/-- R57: major 17, every word of it, by the fields of the table's encodings. -/
theorem test_decode_copy :
    decode 0x880A9039 = .ok (.copyIn 5 9 14 true) ∧ decode 0x884A903B = .ok (.copyOut 5 9 14 true true) ∧
    decode 0x888A0027 = .ok (.copyTt 5 9 true true) ∧ decode 0x88CA970D = .ok (.copyGather 5 9 14 3 true) ∧
    decode 0x890A0024 = .ok (.tdef 5 9) ∧ decode 0x894A0000 = .ok (.tdrop 5) ∧ decode 0x89805024 = .ok (.tset 5 9) ∧
    decode 0x89CA0024 = .ok (.tstat 5 9) ∧ decode 0x8A0A0000 = .ok (.trel 5) := by
  refine ⟨?_, ?_, ?_, ?_, ?_, ?_, ?_, ?_, ?_⟩ <;> rfl

/-- R57: major 18, every word of it, by the fields of the table's encodings. -/
theorem test_decode_bar :
    decode 0x900A0205 = .ok (.binit 5 517) ∧ decode 0x900A4C00 = .ok (.binitReg 5 9) ∧ decode 0x904A0001 = .ok (.barv 5 true) ∧
    decode 0x908A4803 = .ok (.barvb 5 9 true true) ∧ decode 0x90CA4800 = .ok (.bwait 5 9) ∧
    decode 0x910A4806 = .ok (.bwaitt 5 9 6) ∧ decode 0x914A4800 = .ok (.btst 5 9) ∧ decode 0x918A0000 = .ok (.bjoin 5) ∧
    decode 0x91CA0000 = .ok (.bleave 5) ∧ decode 0x920A0001 = .ok (.bdrop 5 true) := by
  refine ⟨?_, ?_, ?_, ?_, ?_, ?_, ?_, ?_, ?_, ?_⟩ <;> rfl

/-- R57: major 19, every word of it, by the fields of the table's encodings. -/
theorem test_decode_dist :
    decode 0x98167800 = .ok (.dadd 5 9 14) ∧ decode 0x98567800 = .ok (.dsub 5 9 14) ∧ decode 0x98967800 = .ok (.dmul 5 9 14) ∧
    decode 0x98D67800 = .ok (.dmax 5 9 14) ∧ decode 0x99167800 = .ok (.dmin 5 9 14) ∧ decode 0x99567830 = .ok (.dmix 5 9 14 3) ∧
    decode 0x99964000 = .ok (.dneg 5 9) ∧ decode 0x99D640E0 = .ok (.daff 5 9 14) ∧ decode 0x9A164000 = .ok (.drelu 5 9) ∧
    decode 0x9A564000 = .ok (.dexp2 5 9) ∧ decode 0x9A964000 = .ok (.dmov 5 9) := by
  refine ⟨?_, ?_, ?_, ?_, ?_, ?_, ?_, ?_, ?_, ?_, ?_⟩ <;> rfl

/-- R57: major 20, every word of it, by the fields of the table's encodings. -/
theorem test_decode_dxtr :
    decode 0xA0140090 = .ok (.dpnt 5 9) ∧ decode 0xA054009E = .ok (.dfroms 5 9 14) ∧ decode 0xA094009E = .ok (.dnorm 5 9 14) ∧
    decode 0xA0C14093 = .ok (.dmom 5 9 3) ∧ decode 0xA1014090 = .ok (.dqnt 5 9) ∧ decode 0xA1414090 = .ok (.dprb 5 9) ∧
    decode 0xA19640E0 = .ok (.dtag 5 9 14) ∧ decode 0xA1C14090 = .ok (.dtgr 5 9) ∧ decode 0xA2014096 = .ok (.datom 5 9 6) := by
  refine ⟨?_, ?_, ?_, ?_, ?_, ?_, ?_, ?_, ?_⟩ <;> rfl

/-- R57: major 21, every word of it, by the fields of the table's encodings. -/
theorem test_decode_warith :
    decode 0xA80A9701 = .ok (.wadd 5 9 14 true) ∧ decode 0xA84A9701 = .ok (.wsub 5 9 14 true) ∧
    decode 0xA88A9701 = .ok (.wmul 5 9 14 true) ∧ decode 0xA8CA9701 = .ok (.wdiv 5 9 14 true) ∧
    decode 0xA90A9001 = .ok (.wsqrt 5 9 true) ∧ decode 0xA94A9701 = .ok (.wfma 5 9 14 true) ∧
    decode 0xA98A9001 = .ok (.wneg 5 9 true) ∧ decode 0xA9CA9001 = .ok (.wabs 5 9 true) ∧
    decode 0xAA00549D = .ok (.wcmp 5 9 14 true) ∧ decode 0xAA4A9001 = .ok (.wrnd 5 9 true) ∧
    decode 0xAA8A901D = .ok (.wldexp 5 9 14 true) ∧ decode 0xAACA021D = .ok (.wfrom 5 4 14 true) ∧
    decode 0xAB00521D = .ok (.wto 5 4 14 true) ∧ decode 0xAB4A9001 = .ok (.wmov 5 9 true) := by
  refine ⟨?_, ?_, ?_, ?_, ?_, ?_, ?_, ?_, ?_, ?_, ?_, ?_, ?_, ?_⟩ <;> rfl

/-- R57: major 22, every word of it, by the fields of the table's encodings. -/
theorem test_decode_wctl :
    decode 0xB0005001 = .ok (.wcfg 5 true) ∧ decode 0xB0405013 = .ok (.wgetl 5 9 true) ∧
    decode 0xB08A901D = .ok (.wsetl 5 9 14 true) ∧ decode 0xB0C05013 = .ok (.winfo 5 9 true) := by
  refine ⟨?_, ?_, ?_, ?_⟩ <;> rfl

/-- R57: major 23, every word of it, by the fields of the table's encodings. -/
theorem test_decode_branch :
    decode 0xB8080005 = .ok (.bra 524293) ∧ decode 0xB9B80005 = .ok (.brc 5 true 524293) ∧
    decode 0xBA2E0005 = .ok (.brs 5 true 131077) ∧ decode 0xBB140000 = .ok (.brx 5) ∧
    decode 0xBCB80005 = .ok (.call 5 true 524293) ∧ decode 0xBD140000 = .ok (.callx 5) ∧ decode 0xBEB00000 = .ok (.ret 5 true) ∧
    decode 0xBFB00000 = .ok (.exit 5 true) := by
  refine ⟨?_, ?_, ?_, ?_, ?_, ?_, ?_, ?_⟩ <;> rfl

/-- R57: major 24, every word of it, by the fields of the table's encodings. -/
theorem test_decode_sync :
    decode 0xC0001402 = .ok (.waitf 5 2) ∧ decode 0xC0000008 = .ok .waitfAll ∧ decode 0xC0450000 = .ok (.sete 5) ∧
    decode 0xC0852400 = .ok (.shsend 5 9) ∧ decode 0xC0C52400 = .ok (.shtake 5 9) ∧ decode 0xC1000205 = .ok (.sleep 517) ∧
    decode 0xC1400000 = .ok .yield ∧ decode 0xC1800000 = .ok .nop := by
  refine ⟨?_, ?_, ?_, ?_, ?_, ?_, ?_, ?_⟩ <;> rfl

/-- R57: major 25, every word of it, by the fields of the table's encodings. -/
theorem test_decode_launch :
    decode 0xC805240E = .ok (.launch 5 9 14) ∧ decode 0xC8450009 = .ok (.lstat 5 9) := by
  refine ⟨?_, ?_⟩ <;> rfl

/-- R57: major 26, every word of it, by the fields of the table's encodings. -/
theorem test_decode_sys :
    decode 0xD0000205 = .ok (.trap 517) ∧ decode 0xD0452402 = .ok (.svc 5 9 2) ∧ decode 0xD0850011 = .ok (.sread 5 17) ∧
    decode 0xD0C01410 = .ok (.swrite 5 16) ∧ decode 0xD1000205 = .ok (.brk 517) ∧ decode 0xD1400000 = .ok .illeg := by
  refine ⟨?_, ?_, ?_, ?_, ?_, ?_⟩ <;> rfl

/-! ### A machine in which one word is to be issued -/

/-- The word of an instruction, zero for an event. -/
def wordFor (i : Instr) : W32 := (encode i).getD 0

/-- A READY tile. -/
def readyTile (fmt : Nat) (acc : Bool) (off rows cols : Nat) : Tile :=
  { fmt := fmt, acc := acc, off := off, rows := rows, cols := cols, state := .ready, readers := 0, progress := 0, ovf := false,
    failed := false, rel := false }

/-- A tensor descriptor of 64 bytes in one row. -/
def rowDesc : Desc := ⟨0x20000, [64, 1, 1, 1], [0, 0, 0], [64, 1, 1, 1]⟩

/-- The placed machine with tiles, tensor ids and the parameter registers of matrix and copy words; `w` is the word that lane 0
of its group issues. -/
def slotFor (w : W32) : State :=
  let s := State.reset.placeWord w
  let t := State.reset.nextId
  let sreg := fun (n : Nat) (x : D64) => ((⟨t, .s, 0, 0, n⟩ : RId), x)
  { s with
    tiles := [((t, 0), readyTile 4 true 0 1 1), ((t, 1), readyTile 1 false 0 1 64), ((t, 2), readyTile 1 false 128 1 64),
      ((t, 3), readyTile 4 true 128 1 64), ((t, 4), readyTile 6 false 256 1 64), ((t, 5), readyTile 4 false 512 1 64),
      ((t, 6), readyTile 0 false 1024 1 64), ((t, 7), readyTile 7 false 2048 1 1)],
    tensors := [((t, 1), .valid rowDesc)],
    s := [sreg 8 1, sreg 12 1, sreg 13 0x1080, sreg 14 0x10000, sreg 17 0x400001, sreg 20 0xFF00000000000000],
    sel := ⟨t, 0, [0], 0x10000, 1, 1, 0, w⟩ }
noncomputable def slot (i : Instr) : State := slotFor (wordFor i)

/-- Every field of Passes, and a place to go on to, computed. -/
noncomputable def meets (s : State) (i : Instr) : Bool :=
  s.sel.lanes ≠ [] && decide s.sel.lanes.Nodup && (s.entryCheck (s.guard i)).isNone &&
    s.sel.lanes.all (fun l => s.regCheck (s.sel.lane l) i.uses = .pass && !s.moreWait (s.sel.lane l) i &&
      (s.farPoison (s.sel.lane l) i).isNone && (s.misuse (s.sel.lane l) i).isNone && !s.tileWait (s.sel.lane l) i &&
      !s.codeWait (s.sel.lane l) (s.wantCode (s.sel.lane l) i)) && !s.tensorWait s.sel.team i &&
    (match s.fall with | some (.go _ _ _) => true | _ => false)

theorem meets_passes {s : State} {i : Instr} (h : meets s i = true) :
    Passes s i ∧ ∃ hdr k prio, s.fall = some (.go hdr k prio) := by
  unfold meets at h
  simp only [Bool.and_eq_true, decide_eq_true_eq, List.all_eq_true, Bool.not_eq_true', Option.isNone_iff_eq_none] at h
  obtain ⟨⟨⟨⟨⟨h1, h2⟩, h3⟩, h4⟩, h5⟩, h6⟩ := h
  refine ⟨⟨h1, h2, h3, fun l hl => (h4 l hl).1.1.1.1.1, fun l hl => (h4 l hl).1.1.1.1.2, fun l hl => (h4 l hl).1.1.1.2, h5,
    fun l hl => (h4 l hl).1.1.2, fun l hl => (h4 l hl).1.2, fun l hl => (h4 l hl).2⟩, ?_⟩
  split at h6
  · next a b c e => exact ⟨a, b, c, e⟩
  · cases h6

theorem meets_all {l : List Instr} (h : l.all (fun i => meets (slot i) i) = true) :
    ∀ i ∈ l, ∃ s : State, Passes s i ∧ ∃ hdr k prio, s.fall = some (.go hdr k prio) :=
  fun i hi => ⟨slot i, meets_passes (List.all_eq_true.mp h i hi)⟩

/-! ### Every word passes its checks somewhere -/

/-- Major 0: a state for each word, in which it passes and has a place to go on to. -/
theorem witness_words_vint : ∀ i ∈ ([
      .iadd ⟨4, 8, 16, false, false, 1⟩, .isub ⟨4, 8, 16, false, false, 1⟩, .imul ⟨4, 8, 16, false, false, 1⟩,
      .imulhS ⟨4, 8, 16, false, false, 1⟩, .imulhZ ⟨4, 8, 16, false, false, 1⟩, .iminS ⟨4, 8, 16, false, false, 1⟩,
      .iminZ ⟨4, 8, 16, false, false, 1⟩, .imaxS ⟨4, 8, 16, false, false, 1⟩, .imaxZ ⟨4, 8, 16, false, false, 1⟩,
      .iabsdS ⟨4, 8, 16, false, false, 1⟩, .and ⟨4, 8, 16, false, false, 1⟩, .or ⟨4, 8, 16, false, false, 1⟩,
      .xor ⟨4, 8, 16, false, false, 1⟩, .andn ⟨4, 8, 16, false, false, 1⟩, .shl ⟨4, 8, 16, false, false, 1⟩,
      .shrZ ⟨4, 8, 16, false, false, 1⟩, .shrS ⟨4, 8, 16, false, false, 1⟩, .rotl ⟨4, 8, 16, false, false, 1⟩,
      .popc ⟨4, 8, false, false⟩, .clz ⟨4, 8, false, false⟩, .brev ⟨4, 8, false, false⟩, .bfxS ⟨4, 8, 16, false, false, 1⟩,
      .bfxZ ⟨4, 8, 16, false, false, 1⟩, .prmt ⟨4, 8, 16, false, false, 1⟩, .iadd64 ⟨4, 8, 16, false, false, 1⟩,
      .isub64 ⟨4, 8, 16, false, false, 1⟩, .shl64 ⟨4, 8, 16, false, false, 1⟩, .shr64Z ⟨4, 8, 16, false, false, 1⟩,
      .shr64S ⟨4, 8, 16, false, false, 1⟩, .iaddsatS ⟨4, 8, 16, false, false, 1⟩] : List Instr),
    ∃ s : State, Passes s i ∧ ∃ hdr k prio, s.fall = some (.go hdr k prio) := meets_all (by rfl)

/-- Major 1: a state for each word, in which it passes and has a place to go on to. -/
theorem witness_words_vimm : ∀ i ∈ ([
      .iaddi ⟨4, 8, 16⟩, .imuli ⟨4, 8, 16⟩, .andi ⟨4, 8, 16⟩, .ori ⟨4, 8, 16⟩, .xori ⟨4, 8, 16⟩, .shli ⟨4, 8, 16⟩,
      .shriZ ⟨4, 8, 16⟩, .shriS ⟨4, 8, 16⟩, .iminiS ⟨4, 8, 16⟩, .imaxiS ⟨4, 8, 16⟩] : List Instr),
    ∃ s : State, Passes s i ∧ ∃ hdr k prio, s.fall = some (.go hdr k prio) := meets_all (by rfl)

/-- Major 2: a state for each word, in which it passes and has a place to go on to. -/
theorem witness_words_vflt : ∀ i ∈ ([
      .fadd ⟨4, 8, 16, false, false, 1⟩, .fsub ⟨4, 8, 16, false, false, 1⟩, .fmul ⟨4, 8, 16, false, false, 1⟩,
      .fmin ⟨4, 8, 16, false, false, 1⟩, .fmax ⟨4, 8, 16, false, false, 1⟩, .fminn ⟨4, 8, 16, false, false, 1⟩,
      .fmaxn ⟨4, 8, 16, false, false, 1⟩, .fabs ⟨4, 8, false, false⟩, .fneg ⟨4, 8, false, false⟩,
      .fcpys ⟨4, 8, 16, false, false, 1⟩, .frint ⟨4, 8, false, false⟩, .ffloor ⟨4, 8, false, false⟩,
      .fceil ⟨4, 8, false, false⟩, .ftrunc ⟨4, 8, false, false⟩, .fldexp ⟨4, 8, 16, false, false, 1⟩,
      .fexpo ⟨4, 8, false, false⟩, .fclass ⟨4, 8, false, false⟩] : List Instr),
    ∃ s : State, Passes s i ∧ ∃ hdr k prio, s.fall = some (.go hdr k prio) := meets_all (by rfl)

/-- Major 3: a state for each word, in which it passes and has a place to go on to. -/
theorem witness_words_vhalf : ∀ i ∈ ([
      .hadd2 ⟨4, 8, 16, false, false, 1⟩, .hsub2 ⟨4, 8, 16, false, false, 1⟩, .hmul2 ⟨4, 8, 16, false, false, 1⟩,
      .hmin2 ⟨4, 8, 16, false, false, 1⟩, .hmax2 ⟨4, 8, 16, false, false, 1⟩, .badd2 ⟨4, 8, 16, false, false, 1⟩,
      .bsub2 ⟨4, 8, 16, false, false, 1⟩, .bmul2 ⟨4, 8, 16, false, false, 1⟩, .bmin2 ⟨4, 8, 16, false, false, 1⟩,
      .bmax2 ⟨4, 8, 16, false, false, 1⟩] : List Instr),
    ∃ s : State, Passes s i ∧ ∃ hdr k prio, s.fall = some (.go hdr k prio) := meets_all (by rfl)

/-- Major 4: a state for each word, in which it passes and has a place to go on to. -/
theorem witness_words_vdbl : ∀ i ∈ ([
      .faddF64 ⟨4, 8, 16, false, false, 1⟩, .fsubF64 ⟨4, 8, 16, false, false, 1⟩, .fmulF64 ⟨4, 8, 16, false, false, 1⟩,
      .fminF64 ⟨4, 8, 16, false, false, 1⟩, .fmaxF64 ⟨4, 8, 16, false, false, 1⟩, .fabsF64 ⟨4, 8, false, false⟩,
      .fnegF64 ⟨4, 8, false, false⟩, .fdivF64 ⟨4, 8, 16, false, false, 1⟩, .fsqrtF64 ⟨4, 8, false, false⟩] : List Instr),
    ∃ s : State, Passes s i ∧ ∃ hdr k prio, s.fall = some (.go hdr k prio) := meets_all (by rfl)

/-- Major 5: a state for each word, in which it passes and has a place to go on to. -/
theorem witness_words_vfuse : ∀ i ∈ ([
      .fma ⟨4, 8, 16, 20⟩, .fms ⟨4, 8, 16, 20⟩, .fnma ⟨4, 8, 16, 20⟩, .fmaF64 ⟨4, 8, 16, 20⟩, .hfma2 ⟨4, 8, 16, 20⟩,
      .bfma2 ⟨4, 8, 16, 20⟩, .imad ⟨4, 8, 16, 20⟩, .bfi ⟨4, 8, 16, 20⟩] : List Instr),
    ∃ s : State, Passes s i ∧ ∃ hdr k prio, s.fall = some (.go hdr k prio) := meets_all (by rfl)

/-- Major 6: a state for each word, in which it passes and has a place to go on to. -/
theorem witness_words_vcvt : ∀ i ∈ ([
      .cvtF32S32 ⟨4, 8, none, false, false⟩, .cvtF32Z32 ⟨4, 8, none, false, false⟩, .cvtS32F32 ⟨4, 8, none, false, false⟩,
      .cvtZ32F32 ⟨4, 8, none, false, false⟩, .cvtF32F16 ⟨4, 8, none, false, false⟩, .cvtF16F32 ⟨4, 8, none, false, false⟩,
      .cvtF32B16 ⟨4, 8, none, false, false⟩, .cvtB16F32 ⟨4, 8, none, false, false⟩, .cvtF64F32 ⟨4, 8, none, false, false⟩,
      .cvtF32F64 ⟨4, 8, none, false, false⟩, .cvtF64S64 ⟨4, 8, none, false, false⟩, .cvtS64F64 ⟨4, 8, none, false, false⟩,
      .packF16 ⟨4, 8, none, false, false⟩, .packB16 ⟨4, 8, none, false, false⟩] : List Instr),
    ∃ s : State, Passes s i ∧ ∃ hdr k prio, s.fall = some (.go hdr k prio) := meets_all (by rfl)

/-- Major 7: a state for each word, in which it passes and has a place to go on to. -/
theorem witness_words_vsfu : ∀ i ∈ ([
      .frcp ⟨4, 8, false, false⟩, .frsq ⟨4, 8, false, false⟩, .fsqrt ⟨4, 8, false, false⟩, .fdiv ⟨4, 8, 16, false, false, 1⟩,
      .fexp2 ⟨4, 8, false, false⟩, .flog2 ⟨4, 8, false, false⟩, .fsinpi ⟨4, 8, false, false⟩, .fcospi ⟨4, 8, false, false⟩,
      .ftanh ⟨4, 8, false, false⟩] : List Instr),
    ∃ s : State, Passes s i ∧ ∃ hdr k prio, s.fall = some (.go hdr k prio) := meets_all (by rfl)

/-- Major 8: a state for each word, in which it passes and has a place to go on to. -/
theorem witness_words_vcmp : ∀ i ∈ ([
      .fset ⟨1, 2, 16, 20, false, false, 1⟩, .fsetF64 ⟨1, 2, 16, 20, false, false, 1⟩, .iset ⟨1, 2, 16, 20, false, false, 1⟩,
      .iset64 ⟨1, 2, 16, 20, false, false, 1⟩, .plop ⟨1, 2, 3, 1, false, false⟩, .sel ⟨4, 8, 16, 1, false⟩] : List Instr),
    ∃ s : State, Passes s i ∧ ∃ hdr k prio, s.fall = some (.go hdr k prio) := meets_all (by rfl)

/-- Major 9: a state for each word, in which it passes and has a place to go on to. -/
theorem witness_words_vmove : ∀ i ∈ ([
      .movlo ⟨4, 8⟩, .movhi ⟨4, 8⟩, .smovlo ⟨4, 8⟩, .smovhi ⟨4, 8⟩, .smovh2 ⟨4, 8⟩, .smovh3 ⟨4, 8⟩, .bcast ⟨4, false, 8⟩,
      .laneget ⟨4, 8, 16⟩] : List Instr),
    ∃ s : State, Passes s i ∧ ∃ hdr k prio, s.fall = some (.go hdr k prio) := meets_all (by rfl)

/-- Major 10: a state for each word, in which it passes and has a place to go on to. -/
theorem witness_words_vxlane : ∀ i ∈ ([
      .shflIdx ⟨4, 8, 16, false, false, 1⟩, .shflUp ⟨4, 8, 16, false, false, 1⟩, .shflDown ⟨4, 8, 16, false, false, 1⟩,
      .shflXor ⟨4, 8, 16, false, false, 1⟩, .voteAny ⟨1, 2, false⟩, .voteAll ⟨1, 2, false⟩, .ballot ⟨4, 2, false⟩,
      .gredAdd ⟨4, 8, false, false⟩, .gredMaxS ⟨4, 8, false, false⟩, .gredFadd ⟨4, 8, false, false⟩,
      .gscanAdd ⟨4, 8, false, false⟩] : List Instr),
    ∃ s : State, Passes s i ∧ ∃ hdr k prio, s.fall = some (.go hdr k prio) := meets_all (by rfl)

/-- Major 11: a state for each word, in which it passes and has a place to go on to. -/
theorem witness_words_salu : ∀ i ∈ ([
      .sadd ⟨4, 8, 16, false, false, 1⟩, .ssub ⟨4, 8, 16, false, false, 1⟩, .smul ⟨4, 8, 16, false, false, 1⟩,
      .sand ⟨4, 8, 16, false, false, 1⟩, .sor ⟨4, 8, 16, false, false, 1⟩, .sxor ⟨4, 8, 16, false, false, 1⟩,
      .sshl ⟨4, 8, 16, false, false, 1⟩, .sshrZ ⟨4, 8, 16, false, false, 1⟩, .sshrS ⟨4, 8, 16, false, false, 1⟩,
      .sminS ⟨4, 8, 16, false, false, 1⟩, .smaxS ⟨4, 8, 16, false, false, 1⟩, .sseteq ⟨4, 8, 16, false, false, 1⟩,
      .ssetltS ⟨4, 8, 16, false, false, 1⟩, .ssetltZ ⟨4, 8, 16, false, false, 1⟩, .saddi ⟨4, 8, 16⟩] : List Instr),
    ∃ s : State, Passes s i ∧ ∃ hdr k prio, s.fall = some (.go hdr k prio) := meets_all (by rfl)

/-- Major 12: a state for each word, in which it passes and has a place to go on to. -/
theorem witness_words_load : ∀ i ∈ ([
      .ldS8 ⟨4, 8, 0, 20⟩, .ldZ8 ⟨4, 8, 0, 20⟩, .ldS16 ⟨4, 8, 0, 20⟩, .ldZ16 ⟨4, 8, 0, 20⟩, .ldB32 ⟨4, 8, 0, 20⟩,
      .ldB64 ⟨4, 8, 0, 20⟩, .ldB128 ⟨4, 8, 0, 20⟩, .sldB64 ⟨4, 8, 16⟩, .dld ⟨4, 8, 0, 20⟩, .wld ⟨4, 8, 0, 20⟩,
      .wlds ⟨4, 8, 0, 20⟩, .prf ⟨4, 0, 16⟩] : List Instr),
    ∃ s : State, Passes s i ∧ ∃ hdr k prio, s.fall = some (.go hdr k prio) := meets_all (by rfl)

/-- Major 13: a state for each word, in which it passes and has a place to go on to. -/
theorem witness_words_store : ∀ i ∈ ([
      .stB8 ⟨4, 8, 0, false, 20⟩, .stB16 ⟨4, 8, 0, false, 20⟩, .stB32 ⟨4, 8, 0, false, 20⟩, .stB64 ⟨4, 8, 0, false, 20⟩,
      .stB128 ⟨4, 8, 0, false, 20⟩, .sstB64 ⟨4, 8, false, 16⟩, .dst ⟨4, 8, 0, false, 20⟩, .wst ⟨4, 8, 0, false, 20⟩,
      .wsts ⟨4, 8, 0, false, 20⟩] : List Instr),
    ∃ s : State, Passes s i ∧ ∃ hdr k prio, s.fall = some (.go hdr k prio) := meets_all (by rfl)

/-- Major 14: a state for each word, in which it passes and has a place to go on to. -/
theorem witness_words_atom : ∀ i ∈ ([
      .atomAddB32 ⟨4, 8, 0, false, 20⟩, .atomAddB64 ⟨4, 8, 0, false, 20⟩, .atomFaddF32 ⟨4, 8, 0, false, 20⟩,
      .atomMinS32 ⟨4, 8, 0, false, 20⟩, .atomMaxS32 ⟨4, 8, 0, false, 20⟩, .atomMinZ32 ⟨4, 8, 0, false, 20⟩,
      .atomMaxZ32 ⟨4, 8, 0, false, 20⟩, .atomAndB32 ⟨4, 8, 0, false, 20⟩, .atomOrB32 ⟨4, 8, 0, false, 20⟩,
      .atomXorB32 ⟨4, 8, 0, false, 20⟩, .atomExchB32 ⟨4, 8, 0, false, 20⟩, .atomExchB64 ⟨4, 8, 0, false, 20⟩,
      .atomCasB32 ⟨4, 8, 0, false, 20⟩, .atomCasB64 ⟨4, 8, 0, false, 20⟩, .atomIncZ32 ⟨4, 8, 0, false, 20⟩] : List Instr),
    ∃ s : State, Passes s i ∧ ∃ hdr k prio, s.fall = some (.go hdr k prio) := meets_all (by rfl)

/-- Major 15: a state for each word, in which it passes and has a place to go on to. -/
theorem witness_words_memx : ∀ i ∈ ([
      .fenceHost, .fenceSys, .cwb ⟨4, 0, 16⟩, .cinv ⟨4, 0, 16⟩, .xlq ⟨4, 8, 0, 20⟩] : List Instr),
    ∃ s : State, Passes s i ∧ ∃ hdr k prio, s.fall = some (.go hdr k prio) := meets_all (by rfl)

/-- Major 16: a state for each word, in which it passes and has a place to go on to. -/
theorem witness_words_mat : ∀ i ∈ ([
      .mma 0 1 2 24, .mloop 0 1 2 8, .mloops 0 1 2 8, .attn 3 1 4 12 0, .hadq 1 5 0, .qnt 1 5, .accz 0, .accrd 5 3 false,
      .accwr 3 5, .mrel] : List Instr),
    ∃ s : State, Passes s i ∧ ∃ hdr k prio, s.fall = some (.go hdr k prio) := meets_all (by rfl)

/-- Major 17: a state for each word, in which it passes and has a place to go on to. -/
theorem witness_words_copy : ∀ i ∈ ([
      .copyIn 6 1 24 false, .copyOut 6 1 24 false false, .copyTt 6 20 false false, .copyGather 6 1 7 24 false, .tdef 9 16,
      .tdrop 6, .tset 1 24, .tstat 6 24, .trel 6] : List Instr),
    ∃ s : State, Passes s i ∧ ∃ hdr k prio, s.fall = some (.go hdr k prio) := meets_all (by rfl)

/-- Major 18: a state for each word, in which it passes and has a place to go on to. -/
theorem witness_words_bar : ∀ i ∈ ([
      .binit 4 8, .binitReg 4 8, .barv 4 false, .barvb 4 8 false false, .bwait 4 8, .bwaitt 4 8 3, .btst 4 8, .bjoin 4,
      .bleave 4, .bdrop 4 false] : List Instr),
    ∃ s : State, Passes s i ∧ ∃ hdr k prio, s.fall = some (.go hdr k prio) := meets_all (by rfl)

/-- Major 19: a state for each word, in which it passes and has a place to go on to. -/
theorem witness_words_dist : ∀ i ∈ ([
      .dadd 4 8 0, .dsub 4 8 0, .dmul 4 8 0, .dmax 4 8 0, .dmin 4 8 0, .dmix 4 8 0 20, .dneg 4 8, .daff 4 8 16, .drelu 4 8,
      .dexp2 4 8, .dmov 4 8] : List Instr),
    ∃ s : State, Passes s i ∧ ∃ hdr k prio, s.fall = some (.go hdr k prio) := meets_all (by rfl)

/-- Major 20: a state for each word, in which it passes and has a place to go on to. -/
theorem witness_words_dxtr : ∀ i ∈ ([
      .dpnt 4 8, .dfroms 4 8 0, .dnorm 4 8 0, .dmom 4 8 2, .dqnt 4 8, .dprb 4 8, .dtag 4 8 16, .dtgr 4 8,
      .datom 4 8 3] : List Instr),
    ∃ s : State, Passes s i ∧ ∃ hdr k prio, s.fall = some (.go hdr k prio) := meets_all (by rfl)

/-- Major 21: a state for each word, in which it passes and has a place to go on to. -/
theorem witness_words_warith : ∀ i ∈ ([
      .wadd 4 8 16 false, .wsub 4 8 16 false, .wmul 4 8 16 false, .wdiv 4 8 16 false, .wsqrt 4 8 false, .wfma 4 8 16 false,
      .wneg 4 8 false, .wabs 4 8 false, .wcmp 4 8 16 false, .wrnd 4 8 false, .wldexp 4 8 16 false, .wfrom 4 3 8 false,
      .wto 4 3 8 false, .wmov 4 8 false] : List Instr),
    ∃ s : State, Passes s i ∧ ∃ hdr k prio, s.fall = some (.go hdr k prio) := meets_all (by rfl)

/-- Major 22: a state for each word, in which it passes and has a place to go on to. -/
theorem witness_words_wctl : ∀ i ∈ ([
      .wcfg 4 false, .wgetl 4 8 false, .wsetl 4 8 16 false, .winfo 4 8 false] : List Instr),
    ∃ s : State, Passes s i ∧ ∃ hdr k prio, s.fall = some (.go hdr k prio) := meets_all (by rfl)

/-- Major 23: a state for each word, in which it passes and has a place to go on to. -/
theorem witness_words_branch : ∀ i ∈ ([
      .bra 0, .brc 1 false 0, .brs 4 false 0, .brx 4, .call 1 false 0, .callx 4, .ret 1 false, .exit 1 false] : List Instr),
    ∃ s : State, Passes s i ∧ ∃ hdr k prio, s.fall = some (.go hdr k prio) := meets_all (by rfl)

/-- Major 24: a state for each word, in which it passes and has a place to go on to. -/
theorem witness_words_sync : ∀ i ∈ ([
      .waitf 4 0, .waitfAll, .sete 4, .shsend 4 8, .shtake 4 8, .sleep 4, .yield, .nop] : List Instr),
    ∃ s : State, Passes s i ∧ ∃ hdr k prio, s.fall = some (.go hdr k prio) := meets_all (by rfl)

/-- Major 25: a state for each word, in which it passes and has a place to go on to. -/
theorem witness_words_launch : ∀ i ∈ ([
      .launch 4 8 16, .lstat 4 8] : List Instr),
    ∃ s : State, Passes s i ∧ ∃ hdr k prio, s.fall = some (.go hdr k prio) := meets_all (by rfl)

/-- Major 26: a state for each word, in which it passes and has a place to go on to. -/
theorem witness_words_sys : ∀ i ∈ ([
      .trap 4, .svc 4 8 2, .sread 4 0x011, .swrite 8 0x010, .brk 4] : List Instr),
    ∃ s : State, Passes s i ∧ ∃ hdr k prio, s.fall = some (.go hdr k prio) := meets_all (by rfl)

/-- The team of the placed machine, and its one lane. -/
def teamNo : Nat := State.reset.nextId
def laneNo : LaneId := ⟨teamNo, 0, 0⟩
/-- The placed machine. -/
def demo : State := slotFor 0
/-- An access of the lane. -/
def anAccess (op : AccOp) (va : D64) (size : Nat) (stage : Stage) (locs : List (Nat × Nat)) : Access :=
  { id := 7, key := 1, jn := 0, team := teamNo, group := 0, lanes := [0], core := 0, kind := 0, op := op, va := va, size := size,
    major := 12, fn := 4, ctl := 0, stage := stage, page := 0x10000, locs := locs, home := 0, port := 0, seq := 0, cause := 1,
    bytes := [1, 2, 3, 4], ts := 0, poison := false }
/-- The placed machine with one access. -/
def withAccess (a : Access) : State := { demo with accs := [a] }
/-- The placed machine with its lane changed. -/
def withLane (f : Lane → Lane) : State := demo.setLane laneNo (f (demo.lane laneNo))
/-- A run of the team, and the placed machine with it as the holder of the pair. -/
def aRun (k : RunKind) (c a b : Nat) (par : List D64) (total : Nat) : Run :=
  { id := 9, team := teamNo, group := 0, kind := k, c := c, a := a, b := b, f := 0, par := par, pos := 0, total := total, ts := 0,
    asked := [], eaten := [], lines := [], causes := [], ovf := false }
def withRun (r : Run) : State := { (demo.setCore 0 { demo.core 0 with hold := some (9, 0) }) with runs := [r] }
/-- A copy of the team, and the placed machine with it. -/
def aCopy (k : CopyKind) : Copy :=
  { id := 9, team := teamNo, group := 0, kind := k, tile := 6, idx := 7, desc := rowDesc, quad := [0, 0, 0, 0], index := none,
    count := false, rel := false, ts := 0, sent := [], landed := [], done := 0, failed := false }
def withCopy (c : Copy) : State := { demo with copies := [c] }
/-- Tables that map the first 1 GiB of addresses to device memory at 1 GiB. -/
def oneGiB : List (Nat × D64) := [(0x5F00000000, 0x5F00100001), (0x5F00100000, 0x4000001F)]
def mappedDemo : State := { demo with mem := writeTables [] oneGiB }
/-- The placed machine's context changed. -/
def withCtx (f : Ctx → Ctx) : State := { mappedDemo with ctxs := mappedDemo.ctxs.map (fun e => (e.1, f e.2)) }
/-- The placed machine with its board changed. -/
def withBoard (f : Board → Board) : State := { demo with board := f demo.board }
/-- A command in the mailbox, with a mappedDemo context. -/
def serving (code : Byte) : State :=
  { mappedDemo with board := { mappedDemo.board with mailbox := [(0, code)], mbdb := true } }

/-- Memory in canonical form and no copy of a host line: the invariant. -/
theorem inv_of {s : State} (h : s.mem.wf = true) (hp : s.proxy = []) : Inv s := ⟨h, hp ▸ fun _ he => absurd he List.not_mem_nil⟩

theorem pteAt_congr {m m' : Memory} {pa : Nat} (h : ∀ x, pa ≤ x → x < pa + 8 → m.get x = m'.get x) : pteAt m pa = pteAt m' pa := by
  have e : ∀ i < 8, m.get (hbmLoc (pa + i)) = m'.get (hbmLoc (pa + i)) := fun i hi => by
    have : hbmLoc (pa + i) = pa + i := by simp [hbmLoc, loc, Space.tag]
    rw [this]; exact h _ (by omega) (by omega)
  unfold pteAt
  exact congrArg ofLe (List.map_congr_left (fun i hi => by rw [e i (List.mem_range.mp hi)]))

/-- A page under a 1 GiB leaf is `Tabled` where the two entries of its walk lie in the firmware region. -/
theorem tabled_huge {s : State} {c : Ctx} {va : D64} {tr : Trans} (hw : walk s.mem c.root va = some tr)
    (h3 : Config.firmwareBase ≤ c.root + 8 * bits va.toNat 39 17 ∧ c.root + 8 * bits va.toNat 39 17 + 8 ≤ Config.hbmBytes)
    (h2 : Config.firmwareBase ≤ pteAddr (pteAt s.mem (c.root + 8 * bits va.toNat 39 17)) + 8 * bits va.toNat 30 9 ∧
      pteAddr (pteAt s.mem (c.root + 8 * bits va.toNat 39 17)) + 8 * bits va.toNat 30 9 + 8 ≤ Config.hbmBytes)
    (hl : bits (pteAt s.mem (pteAddr (pteAt s.mem (c.root + 8 * bits va.toNat 39 17)) + 8 * bits va.toNat 30 9)) 4 1 = 1) :
    Tabled s c va tr := by
  intro m hm
  have e3 := pteAt_congr (m := m) (m' := s.mem) (pa := c.root + 8 * bits va.toNat 39 17) (fun x h h' => hm x (by omega) (by omega))
  have e2 := pteAt_congr (m := m) (m' := s.mem)
    (pa := pteAddr (pteAt s.mem (c.root + 8 * bits va.toNat 39 17)) + 8 * bits va.toNat 30 9) (fun x h h' => hm x (by omega) (by omega))
  rw [← hw]
  simp only [walk, e3, e2, hl, if_true]

/-- The placed machine over 1 GiB pages in device memory and, from 1 GiB on, in host memory, for a context with a PASID. -/
def bothGiB : State := { demo with
  mem := writeTables [] [(0x5F00000000, 0x5F00100001), (0x5F00100000, 0x4000001F), (0x5F00100008, 0x11F)],
  ctxs := demo.ctxs.map (fun e => (e.1, { e.2 with pasid := some 5 })) }

/-- The placed machine with a full capping store, and room in its context's spill share. -/
def fullStore : State := { withCtx (fun c => { c with spill := 65536 }) with
  accs := anAccess (.ld 4 false) 0x10000 4 .core [] :: List.replicate 8192 { anAccess (.ld 4 false) 0x10000 4 .parked [] with id := 8 } }

/-- The hypotheses of TranslationEventsAct are met. -/
theorem witness_translation :
    (∃ s : State, ∃ a l, s.acc 7 = some a ∧ a.stage = .core ∧ s.held a = false ∧ translates a ∧ a.formFault (s.hdr a.team).scratch = none ∧
      s.placeOf a = .bytes l ∧ a.op.quiet = false) ∧
    (∃ s : State, ∃ a l, s.acc 7 = some a ∧ a.stage = .core ∧ s.held a = false ∧ translates a ∧ a.formFault (s.hdr a.team).scratch = none ∧
      s.placeOf a = .bytes l ∧ a.op.quiet = true) ∧
    (∃ s : State, ∃ a, s.acc 7 = some a ∧ a.stage = .core ∧ s.held a = false ∧ translates a ∧ a.formFault (s.hdr a.team).scratch = none ∧
      s.placeOf a = .reg .v 0 0 4 0 ∧ a.op.quiet = false) ∧
    (∃ s : State, ∃ a locs home port, s.acc 7 = some a ∧ a.stage = .core ∧ s.held a = false ∧ translates a ∧ s.placeOf a = .mapped ∧
      s.look a.key (clusterOf a.core) a.op a.op.stores a.va a.size a.pieces = .ok locs home port) ∧
    (∃ s : State, ∃ a cause page, s.acc 7 = some a ∧ a.stage = .core ∧ s.held a = false ∧ translates a ∧ s.placeOf a = .mapped ∧
      s.look a.key (clusterOf a.core) a.op a.op.stores a.va a.size a.pieces = .park cause page) ∧
    (∃ s : State, ∃ a page, s.acc 7 = some a ∧ a.stage = .core ∧ s.held a = false ∧ translates a ∧ s.placeOf a = .mapped ∧
      s.look a.key (clusterOf a.core) a.op a.op.stores a.va a.size a.pieces = .ats page) ∧
    (∃ s : State, ∃ a, s.acc 7 = some a ∧ a.stage = .returned ∧ (s.parkedIn (clusterOf a.core)).length < 8192) ∧
    (∃ s : State, ∃ a, s.acc a.id = some a ∧ (parkedAs s a 1 0x10000).stage = .spilled) ∧
    (∃ s : State, ∃ a, s.acc 7 = some a ∧ s.held a = true) ∧
    (∀ op ∈ [AccOp.ld 4 false, .prf], ∃ s : State, ∃ a p ps c pasid, s.acc 7 = some a ∧ a.stage = .ats ∧ s.atsNeed a = p :: ps ∧ a.op = op ∧
      s.ctx a.key = some c ∧ c.pasid = some pasid) := by
  refine ⟨⟨withAccess (anAccess (.ld 4 false) 0xFF00000000000000 4 .core []), anAccess (.ld 4 false) 0xFF00000000000000 4 .core [], _,
      rfl, rfl, rfl, ⟨?_, ?_⟩, rfl, rfl, rfl⟩,
    ⟨withAccess (anAccess .prf 0xFF00000000000000 128 .core []), anAccess .prf 0xFF00000000000000 128 .core [], _,
      rfl, rfl, rfl, ⟨?_, ?_⟩, rfl, rfl, rfl⟩,
    ⟨withAccess (anAccess (.ld 4 false) 0xFF02000010000000 4 .core []), anAccess (.ld 4 false) 0xFF02000010000000 4 .core [],
      rfl, rfl, rfl, ⟨?_, ?_⟩, rfl, rfl, rfl⟩,
    ⟨{ mappedDemo with accs := [anAccess (.ld 4 false) 0x10000 4 .core []] }, anAccess (.ld 4 false) 0x10000 4 .core [], _, _, _,
      rfl, rfl, rfl, ⟨?_, ?_⟩, rfl, rfl⟩,
    ⟨withAccess (anAccess (.ld 4 false) 0x10000 4 .core []), anAccess (.ld 4 false) 0x10000 4 .core [], _, _,
      rfl, rfl, rfl, ⟨?_, ?_⟩, rfl, rfl⟩,
    ⟨{ bothGiB with accs := [anAccess (.ld 4 false) 0x40000000 4 .core []] }, anAccess (.ld 4 false) 0x40000000 4 .core [], _,
      rfl, rfl, rfl, ⟨?_, ?_⟩, rfl, rfl⟩,
    ⟨withAccess (anAccess (.ld 4 false) 0x10000 4 .returned []), _, rfl, rfl, by decide⟩,
    ⟨fullStore, anAccess (.ld 4 false) 0x10000 4 .core [], by decide +kernel, by decide +kernel⟩,
    ⟨{ demo with accs := [{ anAccess (.st 1) 0x10000 4 .core [] with id := 6 }, anAccess (.ld 4 false) 0x10000 4 .core []] }, _, rfl, rfl⟩,
    fun op h => ⟨{ bothGiB with accs := [anAccess op 0x40000000 4 .ats []] }, anAccess op 0x40000000 4 .ats [], 0x40000000, [], _, _,
      rfl, rfl, ?_, rfl, rfl, rfl⟩⟩
  case refine_13 =>
    simp only [List.mem_cons, List.not_mem_nil, or_false] at h
    rcases h with h | h <;> subst h <;> rfl
  all_goals (intros; nofun)

/-- The placed machine with an access to a barrier object, and to a full register through the aperture. -/
def barDemo (op : BarOp) : State := withAccess (anAccess (.bar 4 op) 0xFF00000000000020 16 .ready [])
def regDemo (op : AccOp) (va : D64) (size : Nat) : State := withAccess (anAccess op va size .ready [])

/-- The hypotheses of HomeEventsAct are met: by stores with one piece left and with two, an atomic, a load, and a service request. -/
theorem witness_home :
    (∃ s : State, ∃ a l n, AtHome s 7 a ∧ a.op = .st 0x1234 ∧ NextPiece s a l n []) ∧
    (∃ s : State, ∃ a l n g, AtHome s 7 a ∧ a.op = .st 0x1234 ∧ NextPiece s a l n [g]) ∧
    (∃ s : State, ∃ a l n, AtHome s 7 a ∧ a.op = .atom 4 0 1 0 ∧ NextPiece s a l n []) ∧
    (∃ s : State, ∃ a l n, AtHome s 7 a ∧ a.op = .ld 4 false ∧ NextPiece s a l n [] ∧
      ∀ p, (s.touch l a.core).hit a.core (s.drawOf a.key) l n p = none) ∧
    (∃ s : State, ∃ a c, AtHome s 7 a ∧ a.op = .svc 4 2 [] 0 ∧ s.behindLane a = false ∧ s.ctx a.key = some c ∧ c.key = a.key) := by
  refine ⟨⟨withAccess (anAccess (.st 0x1234) 0xFF00000000000010 4 .ready [(loc .scratch teamNo 16, 4)]), _, loc .scratch teamNo 16, 4,
      ⟨inv_of rfl rfl, rfl, rfl, rfl⟩, rfl, by decide, by decide, Or.inr ⟨by decide, loc .scratch teamNo 0 + 16, rfl, by decide⟩⟩,
    ⟨withAccess (anAccess (.st 0x1234) 0x1007C 8 .ready [(0x4001007C, 4), (0x40010080, 4)]), _, 0x4001007C, 4, (0x40010080, 4),
      ⟨inv_of rfl rfl, rfl, rfl, rfl⟩, rfl, by decide, by decide, Or.inl ⟨by decide, rfl, by decide, by decide⟩⟩,
    ⟨withAccess (anAccess (.atom 4 0 1 0) 0x10000 4 .ready [(0x40010000, 4)]), _, 0x40010000, 4,
      ⟨inv_of rfl rfl, rfl, rfl, rfl⟩, rfl, by decide, by decide, Or.inl ⟨by decide, rfl, by decide, by decide⟩⟩,
    ⟨withAccess (anAccess (.ld 4 false) 0x10000 4 .ready [(0x40010000, 4)]), _, 0x40010000, 4,
      ⟨inv_of rfl rfl, rfl, rfl, rfl⟩, rfl, ⟨by decide, by decide, Or.inl ⟨by decide, rfl, by decide, by decide⟩⟩, fun p => rfl⟩,
    ⟨withAccess (anAccess (.svc 4 2 [] 0) 0 64 .ready []), _, _, ⟨inv_of rfl rfl, rfl, rfl, rfl⟩, rfl, rfl, rfl, rfl⟩⟩

/-- The placed machine with its team in a phase. -/
def inPhase (p : Phase) : State := demo.setTeam teamNo { demo.team teamNo with phase := p }

/-- The hypotheses of HomeEventsAct are met: by accesses to registers of each class through the aperture, and to a barrier object. -/
theorem witness_home_places :
    (∃ s : State, ∃ a, AtReg s 7 a .v 0 0 4 2 ∧ a.op = .st 7 ∧ a.size = 1) ∧
    (∃ s : State, ∃ a, AtReg s 7 a .s 0 0 8 0 ∧ a.op = .st 7 ∧ a.size = 8) ∧
    (∃ s : State, ∃ a, AtReg s 7 a .p 0 0 3 0 ∧ a.op = .st 1 ∧ a.size = 1) ∧
    (∃ s : State, ∃ a, AtReg s 7 a .v 0 0 4 0 ∧ a.op = .ld 5 false) ∧
    (∀ op ∈ [BarOp.init 3 true 0, .update 1 0 0 0, .test, .fail, .leave], ∃ s : State, ∃ a, AtBarrier s 7 a 4 op (loc .scratch teamNo 32)) ∧
    (∃ s : State, ∃ a, s.acc 7 = some a ∧ (s.team a.team).phase.holds = true ∧ a.op = .bar 4 (.update 1 0 0 0)) := by
  refine ⟨⟨regDemo (.st 7) 0xFF02000010000002 1, _, ⟨⟨inv_of rfl rfl, rfl, rfl, rfl⟩, rfl, by decide, rfl, rfl⟩, rfl, rfl⟩,
    ⟨regDemo (.st 7) 0xFF02000120000000 8, _, ⟨⟨inv_of rfl rfl, rfl, rfl, rfl⟩, rfl, by decide, rfl, rfl⟩, rfl, rfl⟩,
    ⟨regDemo (.st 1) 0xFF0200020C000000 1, _, ⟨⟨inv_of rfl rfl, rfl, rfl, rfl⟩, rfl, by decide, rfl, rfl⟩, rfl, rfl⟩,
    ⟨regDemo (.ld 5 false) 0xFF02000010000000 4, _, ⟨⟨inv_of rfl rfl, rfl, rfl, rfl⟩, rfl, by decide, rfl, rfl⟩, rfl⟩, fun op h => ?_,
    ⟨{ inPhase .saved with accs := [anAccess (.bar 4 (.update 1 0 0 0)) 0xFF00000000000020 16 .ready []] }, _, rfl, rfl, rfl⟩⟩
  simp only [List.mem_cons, List.not_mem_nil, or_false] at h
  rcases h with h | h | h | h | h <;> subst h <;>
    exact ⟨barDemo _, _, ⟨inv_of rfl rfl, rfl, rfl, rfl⟩, rfl, rfl, rfl, by decide, by decide⟩

/-- An operation of the lane in flight, and a request of it. -/
def aPend (te : Bool) (trap : Option D64) : Pend :=
  { id := 9, team := teamNo, group := 0, lane := 0, window := true, writes := if trap = none then [.w 2 WVal.zero] else [], dflags := 0,
    pflags := 0, te := te, trap := trap }
def aReq (code : Nat) (args : List W32) (reply : Option (W32 × W32)) : Req :=
  { seq := 0, code := code, team := teamNo, group := 0, lane := 0, d := 4, args := args, pts := 0, core := 0, issued := 0, reply := reply,
    ts := 0 }
/-- An enabled queue with one record waiting. -/
def oneQueue : Queue := ⟨true, 1, 0x20000, 4, 1, 0⟩
/-- The lane waits for LAUNCH's answer. -/
def launching (q : Queue) : State := { mappedDemo.setLane laneNo { mappedDemo.lane laneNo with wait := .launch (.go 0x10008 1 0) } with
  accs := [anAccess (.launch 4 3) 0 64 .done []], queues := [(3, q)] }

/-- The placed machine with its group's image being read back. -/
def loadingDemo : State := demo.setGroup teamNo 0 { demo.group teamNo 0 with off := some 5, loading := true }

/-- The hypotheses of AnswerEventsAct (accesses) are met: a load answered, one with poison, and one of a team that is SAVED, SAVING or
RESTORING, or of a group that is read back; a line of attention, a descriptor that is the only one of its id, the older and the younger of
two, one of a team that is away, and a record of LAUNCH that the queue takes, and that it does not take. -/
theorem witness_answers :
    (∃ s : State, ∃ a L, Answers s 7 a L ∧ Here s a.team a.group ∧ Plain a ∧ a.poison = false ∧ Apart (s.answer a L).1) ∧
    (∃ s : State, ∃ a L w, Answers s 7 a L ∧ Here s a.team a.group ∧ Plain a ∧ a.poison = true ∧ (s.answer a L).1 = [w] ∧ w.cls = .v) ∧
    (∀ p ∈ [Phase.saved, .saving, .restoring true], ∃ s : State, ∃ a, s.acc 7 = some a ∧ a.stage = .done ∧ Plain a ∧
      (s.teams.find a.team).isSome ∧ (s.team a.team).phase = p ∧ ¬ Here s a.team a.group) ∧
    (∃ s : State, ∃ a, s.acc 7 = some a ∧ a.stage = .done ∧ Plain a ∧ (s.teams.find a.team).isSome ∧
      (s.team a.team).phase = .resident ∧ ¬ Here s a.team a.group) ∧
    (∃ s : State, ∃ a run, s.acc 7 = some a ∧ a.stage = .done ∧ a.op = .attn 9 0 ∧ s.run 9 = some run ∧
      run.asked.contains (0 / linesOf run.f) = true ∧ s.runGoes run = true) ∧
    (∀ p ∈ [Phase.resident, .saved], ∃ s : State, ∃ a, s.acc 7 = some a ∧ a.op = .tset 2 ∧ a.stage = .done ∧ (s.teams.find a.team).isSome ∧
      (s.team a.team).phase = p ∧ (s.group a.team a.group).loading = false ∧
      ∀ b ∈ s.accs, b.team = a.team → b.op = .tset 2 → b.id = a.id) ∧
    (∃ s : State, ∃ a, s.acc 7 = some a ∧ a.op = .tset 2 ∧ a.stage = .done ∧ (s.teams.find a.team).isSome ∧
      ∃ b ∈ s.accs, b.team = a.team ∧ b.op = .tset 2 ∧ b.id < a.id) ∧
    (∃ s : State, ∃ a, s.acc 7 = some a ∧ a.op = .tset 2 ∧ a.stage = .done ∧ (s.teams.find a.team).isSome ∧
      (∀ b ∈ s.accs, b.team = a.team → b.op = .tset 2 → a.id ≤ b.id) ∧ ∃ b ∈ s.accs, b.team = a.team ∧ b.op = .tset 2 ∧ a.id < b.id) ∧
    (∃ s : State, ∃ a L c h k p, Answers s 7 a L ∧ a.op = .launch 4 3 ∧ s.behindLane a = false ∧ (s.lane L).wait = .launch (.go h k p) ∧
      Here s a.team a.group ∧ (s.queues.get Queue.idle 3).enable = true ∧ (s.queues.get Queue.idle 3).owner = a.key ∧
      (s.queues.get Queue.idle 3).backlog ≠ 2 ^ (s.queues.get Queue.idle 3).size ∧ s.ctx a.key = some c) ∧
    (∃ s : State, ∃ a L h k p, Answers s 7 a L ∧ a.op = .launch 4 3 ∧ s.behindLane a = false ∧ (s.lane L).wait = .launch (.go h k p) ∧
      Here s a.team a.group ∧ (s.queues.get Queue.idle 3).enable = false) ∧
    (∃ s : State, ∃ a L h k p, Answers s 7 a L ∧ a.op = .launch 4 3 ∧ s.behindLane a = false ∧ (s.lane L).wait = .launch (.go h k p) ∧
      Here s a.team a.group ∧ (s.queues.get Queue.idle 3).enable = true ∧ (s.queues.get Queue.idle 3).owner = a.key ∧
      (s.queues.get Queue.idle 3).backlog = 2 ^ (s.queues.get Queue.idle 3).size) ∧
    (∃ s : State, ∃ a, s.acc 7 = some a ∧ a.op = .launch 4 3 ∧ a.stage = .done ∧ s.behindLane a = false ∧ (s.teams.find a.team).isSome ∧
      ¬ Here s a.team a.group) := by
  have plain : ∀ p, Plain { anAccess (.ld 4 false) 0 4 .done [] with poison := p } := fun p => ⟨nofun, nofun, nofun, nofun⟩
  refine ⟨⟨withAccess (anAccess (.ld 4 false) 0 4 .done []), _, laneNo, ⟨rfl, rfl, rfl, rfl, rfl, rfl⟩, ⟨rfl, rfl⟩, plain false, rfl,
      by unfold Apart; decide⟩,
    ⟨withAccess { anAccess (.ld 4 false) 0 4 .done [] with poison := true }, _, laneNo, _, ⟨rfl, rfl, rfl, rfl, rfl, rfl⟩, ⟨rfl, rfl⟩, plain true,
      rfl, rfl, rfl⟩,
    fun p h => ⟨{ inPhase p with accs := [anAccess (.ld 4 false) 0 4 .done []] }, _, rfl, rfl, plain false, rfl, rfl, fun x => ?_⟩,
    ⟨{ loadingDemo with accs := [anAccess (.ld 4 false) 0 4 .done []] }, _, rfl, rfl, plain false, rfl, rfl, fun x => nomatch x.2⟩,
    ⟨{ withRun { aRun .attn 3 1 4 [1, 0x1080, 0x10000, 0] 1 with asked := [0] } with accs := [anAccess (.attn 9 0) 0x10000 128 .done []] }, _, _,
      rfl, rfl, rfl, rfl, rfl, rfl⟩,
    fun p _ => ⟨{ inPhase p with accs := [anAccess (.tset 2) 0 64 .done []] }, _, rfl, rfl, rfl, rfl, rfl, rfl,
      fun b hb _ _ => List.mem_singleton.mp hb ▸ rfl⟩,
    ⟨{ demo with accs := [anAccess (.tset 2) 0 64 .done [], { anAccess (.tset 2) 0 64 .core [] with id := 6 }] }, _, rfl, rfl, rfl, rfl,
      { anAccess (.tset 2) 0 64 .core [] with id := 6 }, by decide +kernel⟩,
    ⟨{ demo with accs := [anAccess (.tset 2) 0 64 .done [], { anAccess (.tset 2) 0 64 .core [] with id := 8 }] }, _, rfl, rfl, rfl, rfl,
      by decide +kernel, { anAccess (.tset 2) 0 64 .core [] with id := 8 }, by decide +kernel⟩,
    ⟨launching oneQueue, _, laneNo, _, _, _, _, ⟨rfl, rfl, rfl, rfl, rfl, rfl⟩, rfl, rfl, rfl, ⟨rfl, rfl⟩, rfl, rfl, by decide, rfl⟩,
    ⟨launching Queue.idle, _, laneNo, _, _, _, ⟨rfl, rfl, rfl, rfl, rfl, rfl⟩, rfl, rfl, rfl, ⟨rfl, rfl⟩, rfl⟩,
    ⟨launching { oneQueue with wr := 16 }, _, laneNo, _, _, _, ⟨rfl, rfl, rfl, rfl, rfl, rfl⟩, rfl, rfl, rfl, ⟨rfl, rfl⟩, rfl, rfl, by decide⟩,
    ⟨{ inPhase .saving with accs := [anAccess (.launch 4 3) 0 64 .done []] }, _, rfl, rfl, rfl, rfl, rfl, fun x => nomatch x.1⟩⟩
  simp only [List.mem_cons, List.not_mem_nil, or_false] at h
  rcases h with h | h | h <;> subst h <;> exact nomatch x.1

/-- The hypotheses of AnswerEventsAct (operations and replies) are met: with TE clear, with TE set by a write and by a trap, for a team
that is away, and a reply of firmware. -/
theorem witness_completions :
    (∃ s : State, ∃ p, Pending s p ∧ p.te = false ∧ Apart p.writes) ∧
    (∃ s : State, ∃ p h k prio, Pending s p ∧ p.te = true ∧ p.trap = none ∧ (s.team p.team).phase.holds = false ∧ Apart p.writes ∧
      (s.lane ⟨p.team, p.group, p.lane⟩).wait = .te (.go h k prio)) ∧
    (∃ s : State, ∃ p v, Pending s p ∧ p.te = true ∧ p.trap = some v ∧ (s.team p.team).phase.holds = false ∧ s.trapBar ⟨p.team, p.group, p.lane⟩ = none) ∧
    (∃ s : State, ∃ p, s.pend.find? (fun q => q.id = p.id && q.window = p.window) = some p ∧ p.te = true ∧ (s.team p.team).phase.holds = true) ∧
    (∃ s : State, ∃ c r w0 w1, s.ctx 1 = some c ∧ c.key = 1 ∧ c.reqs.find? (fun x => x.seq = r.seq) = some r ∧ r.reply = some (w0, w1) ∧
      s.receives ⟨r.team, r.group, r.lane⟩ = true ∧ Here s r.team r.group) := by
  refine ⟨⟨{ demo with pend := [aPend false none] }, aPend false none, ⟨rfl, rfl⟩, rfl, by unfold Apart; decide⟩,
    ⟨{ withLane (fun l => { l with wait := .te (.go 0x10008 1 0) }) with pend := [aPend true none] }, aPend true none, _, _, _, ⟨rfl, rfl⟩, rfl,
      rfl, rfl, by unfold Apart; decide, rfl⟩,
    ⟨{ withLane (fun l => { l with wait := .te (.go 0x10008 1 0) }) with pend := [aPend true (some 2)] }, aPend true (some 2), _, ⟨rfl, rfl⟩,
      rfl, rfl, rfl, rfl⟩,
    ⟨{ inPhase .saved with pend := [aPend true none] }, aPend true none, rfl, rfl, rfl⟩,
    ⟨withCtx (fun c => { c with reqs := [aReq 2 [] (some (0, 0))] }), _, aReq 2 [] (some (0, 0)), _, _, rfl, rfl, rfl, rfl, rfl, ⟨rfl, rfl⟩⟩⟩

/-- A page key of the placed machine's context that cluster 0 has reported, and an access that parked on it. -/
def reportedDemo : State :=
  { (demo.setCluster 0 { demo.cluster 0 with pages := [⟨1, 0x10000, true, 5⟩] }) with accs := [anAccess (.ld 4 false) 0x10000 4 .parked []] }

/-- The hypotheses of ParkingEventsAct are met. -/
theorem witness_parking :
    (∃ s : State, ∃ a, (s.parkedIn 0).length < 8192 ∧ a ∈ s.accs ∧ a.stage = .spilled ∧ clusterOf a.core = 0 ∧
      ∀ b ∈ s.accs, b.stage = .spilled → clusterOf b.core = 0 → b = a ∨ a.seq < b.seq) ∧
    (∃ s : State, ∃ w, (s.cluster 0).window = some w ∧ w + 4000 ≤ s.clock ∧ ((s.cluster 0).pages.filter (fun p => !p.reported)).length ≤ 512) ∧
    (∃ s : State, ∃ w, (s.cluster 0).window = some w ∧ s.clock < w + 4000 ∧ ((s.cluster 0).pages.filter (fun p => !p.reported)).length < 512) ∧
    (∃ s : State, ∃ c, s.ctx 1 = some c ∧ ReportedIn s 0 1 0x10000 ∧ c.grants 0x10000 = false ∧ 5 + 1000000000 ≤ s.clock ∧
      s.entriesOn 0 1 0x10000 ≠ [] ∧ (s.cluster 0).pages.find? (fun p => p.key = 1 && p.page = 0x10000 && p.reported) = some ⟨1, 0x10000, true, 5⟩) ∧
    (∃ s : State, ReportedIn s 0 1 0x10000 ∧ s.priOut 1 0x10000 = true) ∧
    (∃ s : State, ∃ a : Access, ((s.replay false a.id).inImage a.team).pendingAcc a.id = true) ∧
    (∃ s : State, ∃ a : Access, ((s.replay false a.id).inImage a.team).pendingAcc a.id = false) ∧
    (∃ s : State, ∃ a b, s.acc 7 = some a ∧ (s.translate a false).acc 7 = some b ∧ b.stage ≠ .ready) ∧
    (∃ s : State, ∃ a b, s.acc 7 = some a ∧ (s.translate a false).acc 7 = some b ∧ b.stage = .ready ∧ b.op = .ld 4 false) := by
  refine ⟨⟨withAccess (anAccess (.ld 4 false) 0x10000 4 .spilled []), _, by decide, List.mem_singleton.mpr rfl, rfl, rfl,
      fun b hb _ _ => Or.inl (List.mem_singleton.mp hb)⟩,
    ⟨{ (demo.setCluster 0 { demo.cluster 0 with window := some 5, pages := [⟨1, 0x10000, false, 5⟩] }) with clock := 5000 }, 5,
      rfl, by decide, by decide⟩,
    ⟨{ (demo.setCluster 0 { demo.cluster 0 with window := some 5, pages := [⟨1, 0x10000, false, 5⟩] }) with clock := 500 }, 5,
      rfl, by decide, by decide⟩,
    ⟨{ reportedDemo with clock := 1000000005 }, _, rfl, rfl, rfl, by decide, by decide, rfl⟩,
    ⟨{ reportedDemo with pri := [(0, 1, 0x10000)] }, rfl, by decide⟩,
    ⟨{ demo with accs := [anAccess (.st 1) 0x10000 4 .parked []] }, anAccess (.st 1) 0x10000 4 .parked [], ?_⟩,
    ⟨{ mappedDemo with accs := [anAccess (.st 1) 0x10000 4 .parked []] }, anAccess (.st 1) 0x10000 4 .parked [], ?_⟩,
    ⟨reportedDemo, _, _, rfl, rfl, nofun⟩,
    ⟨{ mappedDemo with accs := [anAccess (.ld 4 false) 0x10000 4 .parked []] }, _, _, rfl, rfl, rfl, rfl⟩⟩
  · decide +kernel
  · decide +kernel

/-- The placed machine with a second context over the same tables. -/
def twoCtxs : State := { mappedDemo with ctxs := mappedDemo.ctxs ++ mappedDemo.ctxs.map (fun e => (2, { e.2 with key := 2 })) }
/-- The mapped context with a host window. -/
def windowed : State := withCtx (fun c => { c with wins := [(0, 2097152)] })
/-- Core 0 holds a copy of word 4. -/
def copyDemo : State := { demo with copies1 := [((0, 4), ⟨⟨1, 2⟩, 1, 1, [0, 0, 0, 0]⟩)] }

/-- The hypotheses of OrderingEventsAct are met. -/
theorem witness_ordering :
    (∃ s : State, (s.ticks + 1) * 256 ≤ s.clock ∧ (s.lane laneNo).live = true ∧ (s.team teamNo).phase ≠ .saved ∧
      (s.cores.find 0).isSome ∧ s.cores.find 1 = none) ∧
    (∃ s : State, ∃ a g, a ∈ s.accs ∧ a.core = 0 ∧ a.stage = .ready ∧ g ∈ a.locs ∧ frameOf g.1 = 0x40010 ∧ isHbm g.1 = true ∧
      (s.page 0x40010).owner = some 5 ∧ (5 : Nat) ≠ 0 ∧ (s.page 0x40010).shared = false) ∧
    (∃ s : State, ∃ c, s.copies1.find (0, 4) = some c ∧ c.version ≤ 1 ∧ 0 < c.version) ∧
    (∃ s : State, s.copies1.find (0, 4) = none) ∧
    (∃ s : State, copyable (4 * 4) = true ∧ (isHbm (4 * 4) = true → (s.page (frameOf (4 * 4))).shared = true) ∧ s.coreOn 0 = true ∧
      s.deleg.find 4 = none) ∧
    (∃ s : State, ∃ c, s.ctx 1 = some c ∧ s.usesRange 1 (changedRange s c 1 0x10000 []).1 (changedRange s c 1 0x10000 []).2 = false) ∧
    (∃ s : State, ∃ c, s.ctx 1 = some c ∧ s.usesRange 1 (changedRange s c 1 0x10000 []).1 (changedRange s c 1 0x10000 []).2 = true) ∧
    (∃ s : State, ∃ c, s.ctx 1 = some c ∧ c.pasid = some 5) ∧
    (∃ s : State, ∃ c, s.ctx 1 = some c ∧ s.othersMap 1 (tabled s []) (c.runsIn (tabled s [])) = false ∧ s.winsMove c (tabled s []) = false) ∧
    (∃ s : State, ∃ c, s.ctx 1 = some c ∧ s.othersMap 1 (tabled s []) (c.runsIn (tabled s [])) = true) ∧
    (∃ s : State, ∃ c, s.ctx 1 = some c ∧ s.winsMove c (tabled s [(0x5F00100000, 0)]) = true) :=
  ⟨⟨{ demo.setCore 0 { demo.core 0 with checked := 0 } with clock := 300 }, by decide, rfl, by decide, rfl, rfl⟩,
   ⟨{ withAccess (anAccess (.ld 4 false) 0x10000 4 .ready [(0x40010000, 4)]) with pages := [(0x40010, ⟨some 5, false, 3, 0⟩)] }, _,
     (0x40010000, 4), List.mem_singleton.mpr rfl, rfl, rfl, by decide, by decide, by decide, rfl, by decide, rfl⟩,
   ⟨copyDemo, _, rfl, by decide, by decide⟩, ⟨demo, rfl⟩,
   ⟨{ demo with pages := [(0, ⟨none, true, 0, 1⟩)] }, by decide, fun _ => rfl, rfl, rfl⟩,
   ⟨demo, _, rfl, by decide +kernel⟩,
   ⟨{ mappedDemo with accs := [anAccess (.ld 4 false) 0x10000 4 .ready [(0x40010000, 4)]] }, _, rfl, by decide +kernel⟩,
   ⟨bothGiB, _, rfl, rfl⟩, ⟨mappedDemo, _, rfl, by decide +kernel, rfl⟩, ⟨twoCtxs, _, rfl, by decide +kernel⟩,
   ⟨windowed, _, rfl, by decide +kernel⟩⟩

/-- A port that is up, with flits in flight; the mapped context with a binding. -/
def upPort : Port := { Port.idle with enabled := true, up := true, lanes := 8, sendSeq := 3, replay := [0, 1, 2] }
def bound : State := (withCtx (fun c => { c with peers := [(2, 6, 3)] })).setPort 2 upPort

theorem mapped_wf (l : List (Nat × D64)) : (writeTables [] l).wf = true := Memory.wf_writeTables (m := []) rfl l

/-- The hypotheses of OutsideEventsAct are met. -/
theorem witness_outside :
    (∃ s : State, ∃ c, HostAt s c 1 0x10000 8 0x40010000) ∧
    (∃ s : State, ∃ c, s.board.link = .up ∧ s.ctx 1 = some c ∧
      ∀ w ∈ c.wins, ¬ (w.1.toNat ≤ (0x10000 : D64).toNat ∧ (0x10000 : D64).toNat + 8 ≤ w.1.toNat + w.2)) ∧
    (∃ s : State, ∃ c, s.board.link = .up ∧ s.ctx 1 = some c ∧
      ∃ p ∈ pageSplit 0x40000000 8, ∀ x, walk s.mem c.root p.1 = some x → x.home ≠ 0) ∧
    (∃ s : State, ∃ c, PeerAt s c 2 6 3 1 0x40010000 8) ∧
    (∃ s : State, ∃ c l, Inv s ∧ (s.port 2).up = true ∧ s.ctx 1 = some c ∧ c.peers.contains (2, 6, 3) = true ∧
      bits (0xFF03000000000020 : D64).toNat 48 16 = 0xFF03 ∧ s.designated 1 (0xFF03000000000020 : D64).toNat = .at l ∧ l % 16 = 0) ∧
    (∃ s : State, (s.port 2).up = true ∧ ∀ c, s.ctx 1 = some c → (2, 6, 3) ∉ c.peers) ∧
    (∃ s : State, ∃ c, (s.port 2).up = true ∧ s.ctx 1 = some c ∧ (2, 6, 3) ∈ c.peers ∧ Config.firmwareBase < Config.firmwareBase - 4 + 8) ∧
    (∃ s : State, (s.port 2).up = false) :=
  ⟨⟨windowed, _, inv_of (mapped_wf _) rfl, rfl, rfl, ⟨_, List.mem_singleton.mpr rfl, by decide, by decide⟩, by decide, by decide,
     by decide, by decide, _, rfl, rfl, by decide⟩,
   ⟨demo, _, rfl, rfl, fun w hw => absurd hw List.not_mem_nil⟩,
   ⟨bothGiB, _, rfl, rfl, (0x40000000, 8), by decide +kernel, fun x h => by
     have e : walk bothGiB.mem 0x5F00000000 0x40000000 = some ⟨1, 0, 0x40000000, 3, ⟨true, true, true⟩⟩ := by decide +kernel
     have : walk bothGiB.mem 0x5F00000000 0x40000000 = some x := h
     rw [e] at this; cases this; decide⟩,
   ⟨bound, _, inv_of (mapped_wf _) rfl, rfl, rfl, rfl, by decide, by decide, by decide⟩,
   ⟨bound, _, _, inv_of (mapped_wf _) rfl, rfl, rfl, rfl, by decide, rfl, by decide⟩,
   ⟨demo.setPort 2 upPort, rfl, fun c h => by cases h; decide⟩,
   ⟨bound, _, rfl, rfl, List.mem_singleton.mpr rfl, by decide⟩, ⟨demo, rfl⟩⟩

/-- The placed machine as it was before its launch was accepted. -/
def waitingLaunch : State := { mappedDemo with
  launches := mappedDemo.launches.map (fun e => (e.1, { e.2 with dispatched := 0, state := .accepted })), teams := [], groups := [], lanes := [] }
/-- The placed machine's launch changed, over the mapped memory. -/
def withLaunch (f : Launch → Launch) : State := { mappedDemo with launches := mappedDemo.launches.map (fun e => (e.1, f e.2)) }

/-- A kernel of one clause of NOP at 0x30000, and a record at 0x20000 that names a kernel, in the mapped memory. -/
def kernelBytes : List Byte := record64 [(0, 4, 0x314E4B4C), (4, 2, 1), (6, 1, 3), (8, 2, 1), (0xC, 1, 8), (0xE, 1, 8), (0x2C, 4, 64)]
def recordBytes (kernel : Nat) : List Byte := record64 [(0, 8, kernel), (8, 4, 1), (12, 4, 1), (16, 4, 1)]
def recordFor (kernel : Nat) : State :=
  { mappedDemo with
    mem := ((mappedDemo.mem.putN 0x40020000 (recordBytes kernel)).putN 0x40030000
      kernelBytes).putN 0x40030040 (leBytes 4 (oneWord 5).toNat ++ leBytes 4 0xC1800000),
    lineKey := [(0x40020000 / 128, 1), (0x40030000 / 128, 1)], queues := [(3, oneQueue)] }

/-- Whether a verdict accepts, and whether it rejects. -/
def Verdict3.accepts : Verdict3 → Bool
  | .accept _ _ => true
  | _ => false
def Verdict3.rejects : Verdict3 → Bool
  | .reject _ _ _ => true
  | _ => false
theorem rejects_some {v : Verdict3} (h : Verdict3.rejects v = true) : ∃ r s ts, v = .reject r s ts := by
  cases v with
  | reject r s ts => exact ⟨r, s, ts, rfl⟩
  | accept _ _ => cases h
  | stop _ _ _ => cases h
theorem accepts_some {v : Verdict3} (h : Verdict3.accepts v = true) : ∃ l s, v = .accept l s := by
  cases v with
  | accept l s => exact ⟨l, s, rfl⟩
  | reject _ _ _ => cases h
  | stop _ _ _ => cases h

/-- The hypotheses of QueueEventsAct are met. -/
theorem witness_queues :
    (∃ s : State, ∃ c, MayAccept s 3 c ∧ ∃ l s', s.judge 3 (s.queues.get Queue.idle 3) c = .accept l s') ∧
    (∃ s : State, (s.queues.get Queue.idle 3).enable = true ∧ s.board.link = .up ∧
      ((1 : W32) - (s.queues.get Queue.idle 3).rd).toNat ≤ 2 ^ (s.queues.get Queue.idle 3).size) ∧
    (∃ s : State, 2 ^ (s.queues.get Queue.idle 3).size < ((99 : W32) - (s.queues.get Queue.idle 3).rd).toNat) ∧
    (∃ s : State, ∃ c, MayAccept s 3 c ∧ ∃ r s' ts, s.judge 3 (s.queues.get Queue.idle 3) c = .reject r s' ts) ∧
    recordOk (recordBytes 0x30000) = true ∧
    (∃ s : State, ∃ jn l c, s.working = true ∧ s.readyHead 0 = some (jn, l) ∧ (∀ q', q' ≠ 0 → s.readyHead q' = none) ∧
      s.dispatchTo = some c ∧ s.launches.find jn = some l) ∧
    (∃ s : State, ∃ l, s.launches.find 0 = some l ∧ l.state.over = false ∧ s.unfinished 0 l = false) ∧
    (∃ s : State, ∃ l, s.launches.find 0 = some l ∧ l.state.over = false ∧ s.unfinished 0 l = true) ∧
    (∀ x ∈ [JState.terminal 1, .written 1], ∃ s : State, ∃ l, s.launches.find 0 = some l ∧ l.state = x) ∧
    (∃ s : State, ∃ l c tr, Inv s ∧ s.launches.find 0 = some l ∧ l.state.over = false ∧ s.ctx l.key = some c ∧ l.record.status ≠ 0 ∧
      vspace l.record.status = .ordinary ∧ l.record.status.toNat % 8 = 0 ∧ Tabled s c l.record.status tr ∧
      isHbm (transLoc c tr l.record.status) = true) := by
  refine ⟨⟨recordFor 0x30000, _, ⟨rfl, rfl, by decide, by decide, fun a ha => absurd ha List.not_mem_nil, rfl⟩, accepts_some (by decide +kernel)⟩,
   ⟨{ demo with queues := [(3, oneQueue)] }, rfl, rfl, by decide⟩, ⟨demo, by decide⟩,
   ⟨recordFor 0x30001, _, ⟨rfl, rfl, by decide, by decide, fun a ha => absurd ha List.not_mem_nil, rfl⟩, rejects_some (by decide +kernel)⟩,
   by decide +kernel, ⟨waitingLaunch, _, _, _, rfl, rfl, fun q h => ?_, rfl, rfl⟩, ⟨{ demo with lanes := [] }, _, rfl, rfl, rfl⟩,
   ⟨demo, _, rfl, rfl, rfl⟩, fun x _ => ⟨withLaunch (fun l => { l with state := x }), _, rfl, rfl⟩,
   ⟨withLaunch (fun l => { l with record := { l.record with status := 0x10000 } }), _, _, _, inv_of (mapped_wf _) rfl, rfl, rfl, rfl,
     by decide, rfl, by decide, tabled_huge (tr := ⟨0, 0, 0x40010000, 3, ⟨true, true, true⟩⟩) (by decide +kernel) (by decide +kernel)
       (by decide +kernel) (by decide +kernel), by decide +kernel⟩⟩
  have e : waitingLaunch.headOf q = none := by
    simp [State.headOf, waitingLaunch, mappedDemo, demo, slotFor, State.placeWord, State.reset, Tbl.set, JState.over, Ne.symm h, minBy]
  simp [State.readyHead, e]

/-- The launch of the placed machine with one team to start, waiting in cluster 0. -/
def waitingTeam : State := waitingLaunch.setCluster 0 { waitingLaunch.cluster 0 with tcbs := [(0, 0)] }
/-- A launch that waits to start all of its teams at once. -/
def waitingTogether : State := { waitingLaunch with
  launches := waitingLaunch.launches.map (fun e => (e.1, { e.2 with hdr := { e.2.hdr with coRes := true } })) }
/-- The placed machine without cached code, with its code in memory. -/
def uncached : State := { recordFor 0x30000 with
  icache := [], launches := demo.launches.map (fun e => (e.1, { e.2 with
    snap := (recordFor 0x30000).mem, keys := (recordFor 0x30000).lineKey, root := 0x5F00000000 })) }

/-- The hypotheses of StartEventsAct are met. -/
theorem witness_starts :
    (∃ s : State, ∃ l core f, s.working = true ∧ s.firstOf 0 = .tcb 0 0 ∧ s.launches.find 0 = some l ∧
      s.fitIn l.hdr [] (coresOf 0) = some (core, f) ∧ Unused s s.nextId) ∧
    (∃ s : State, ∃ jn l s', s.working = true ∧ s.coTop = some (jn, l) ∧ s.coWaits jn l = true ∧
      s.startAll jn l.hdr allCores 0 l.record.total = some s') ∧
    (∃ s : State, ∃ jn l, s.coTop = some (jn, l) ∧ s.startAll jn l.hdr allCores 0 l.record.total = none) ∧
    (∃ s : State, ∃ b hdr l ws locs home port, s.mayIssue teamNo 0 = true ∧
      (((s.liveLanes teamNo 0).filter (fun i => (s.lane ⟨teamNo, 0, i⟩).wait = .none)).flatMap
        (fun i => s.codeNeeds ⟨teamNo, 0, i⟩)).find? (fun x => x.1 = 0x10000) = some (b, hdr) ∧ lineAddr 0x10000 = 0x10000 ∧ s.icache = [] ∧
      s.accs = [] ∧ s.placeOf (fetchOf s teamNo 0 0x10000 hdr) = .mapped ∧
      s.look (s.team teamNo).key (clusterOf (s.team teamNo).core) (.fetch hdr) false 0x10000 128 (fetchOf s teamNo 0 0x10000 hdr).pieces =
        .ok locs home port ∧ home ≠ 2 ∧ (∀ g ∈ locs, s.linkAway g.1 = false) ∧ s.launches.find (s.team teamNo).jn = some l ∧
      s.codeLine l 0x10000 = some ws) ∧
    (∃ s : State, ∃ l ws locs home port, s.coreOn 0 = true ∧ s.launches.find 0 = some l ∧ vspace (lineAddr 0x30000) = .ordinary ∧
      s.look l.key (clusterOf 0) (.fetch 0) false (lineAddr 0x30000) 128 [(0, 128)] = .ok locs home port ∧
      (∀ g ∈ locs, s.linkAway g.1 = false) ∧ s.icache = [] ∧ s.codeLine l (lineAddr 0x30000) = some ws) ∧
    (∃ s : State, ∃ l locs home port, s.launches.find 0 = some l ∧
      s.look l.key (clusterOf 0) (.fetch 0) false (lineAddr 0x40000000) 128 [(0, 128)] = .ok locs home port ∧
      ∃ g ∈ locs, s.linkAway g.1 = true) ∧
    (∃ s : State, ∃ l c p, s.launches.find 0 = some l ∧
      s.look l.key (clusterOf 0) (.fetch 0) false (lineAddr 0x30000) 128 [(0, 128)] = .park c p) :=
  ⟨⟨waitingTeam, _, _, _, rfl, rfl, rfl, rfl, by unfold Unused; decide +kernel⟩,
    ⟨waitingTogether, _, _, _, rfl, rfl, rfl, rfl⟩,
    ⟨{ waitingTogether with board := { waitingTogether.board with diesOn := [] } }, _, _, rfl, by decide +kernel⟩,
    ⟨uncached, _, _, _, _, _, _, _, rfl, rfl, rfl, rfl, rfl, rfl, rfl, by decide, by decide +kernel, rfl, rfl⟩,
    ⟨uncached, _, _, _, _, _, rfl, rfl, rfl, rfl, by decide +kernel, rfl, rfl⟩,
    ⟨{ bothGiB with ats := [((5, 0x40000000), ⟨true, true, true⟩)], board := { bothGiB.board with link := .down 0 } }, _, _, _, _, rfl, rfl,
      (loc .host 5 0x40000000, 128), by decide +kernel⟩,
    ⟨demo, _, _, _, rfl, rfl⟩⟩

/-- The module with one enabled core, whose Comb a team of a launch at priority 0 fills, and a second launch at priority 5, with what is
placed of it and waits for it. -/
def crowded (co : Bool) (dispatched : Nat) (state : JState) (more : List (Nat × Team)) (tcbs : List (Nat × Nat)) : State :=
  let l := (demo.launches.find 0).getD ⟨0, 0, 0, ⟨0, 0, 0, 0, 0, 0, 0, 0, false, 0⟩, Header.none, [], [], [], 0, 0, 0, .accepted, 0⟩
  { demo.setCluster 0 { demo.cluster 0 with tcbs := tcbs } with
    clock := 100000, board := { demo.board with flash := { demo.board.flash with coresOff := (List.range 3072).filter (· ≠ 0) } },
    teams := (teamNo, { demo.team teamNo with rows := 256 }) :: more,
    launches := [(0, l), (1, { l with
      queue := 1, record := { l.record with prio := 5 }, hdr := { l.hdr with coRes := co }, dispatched := dispatched, state := state })] }
def savedTeam : Nat × Team := (teamNo + 1, { Team.none with key := 1, jn := 1 })

theorem asks_nothing {s : State} {cl : Nat} (h : s.firstOf cl = .none) : FirstAsksNothing s cl := by
  rintro _ _ (⟨_, _, _, e, _⟩ | ⟨_, e, _⟩) <;> rw [h] at e <;> cases e

/-- The hypotheses of PlacementEventsAct (donation and room) are met. -/
theorem witness_donation :
    (∃ s : State, s.working = true ∧ (s.cluster 1).asking = none ∧ (s.cluster 1).tcbs = [] ∧ (s.cluster 1).retryAt ≤ s.clock ∧
      (∃ c ∈ coresOf 1, s.freeSlot c = true) ∧ ∃ v, (victims 1)[(s.cluster 1).round]? = some v ∧ v ≠ 1) ∧
    (∃ s : State, ∃ x, x ∈ s.shipment 0) ∧
    (∃ s : State, (s.cluster 1).asking = some 0 ∧ (s.cluster 1).shipped ≠ []) ∧
    (∃ s : State, (s.cluster 1).asking = some 0 ∧ (s.cluster 1).shipped = [] ∧ (s.cluster 1).round < 14 ∧ (victims 1).length = 15) ∧
    (∃ s : State, (s.cluster 1).asking = some 0 ∧ (s.cluster 1).shipped = [] ∧ (s.cluster 1).round = 14 ∧ (victims 1).length = 15) ∧
    (∃ s : State, FirstAsksNothing s 0 ∧ s.coTop = none) ∧
    (∃ s : State, ∃ e, (s.hdr teamNo).coRes = true ∧ e ∈ s.teams ∧ e.2.jn = (s.team teamNo).jn ∧ s.teamLive e.1 = true ∧
      e.2.phase = .restoring false) :=
  ⟨⟨demo, rfl, rfl, rfl, by decide, ⟨192, List.mem_map.mpr ⟨0, List.mem_range.mpr (by decide), rfl⟩, rfl⟩, _, rfl, by decide⟩,
   ⟨demo.setCluster 0 { demo.cluster 0 with tcbs := [(0, 0), (0, 1)] }, (0, 1), by decide +kernel⟩,
   ⟨demo.setCluster 1 { demo.cluster 1 with asking := some 0, shipped := [(0, 1)] }, rfl, by decide⟩,
   ⟨demo.setCluster 1 { demo.cluster 1 with asking := some 0, round := 3 }, rfl, rfl, by decide, rfl⟩,
   ⟨demo.setCluster 1 { demo.cluster 1 with asking := some 0, round := 14 }, rfl, rfl, rfl, rfl⟩, ⟨demo, asks_nothing rfl, rfl⟩,
   ⟨{ inPhase (.restoring false) with launches := demo.launches.map (fun e => (e.1, { e.2 with hdr := { e.2.hdr with coRes := true } })) }, _,
     rfl, List.mem_singleton.mpr rfl, rfl, by decide +kernel, rfl⟩⟩

/-- The launch at priority 5. -/
def crowdedLaunch (co : Bool) (dispatched : Nat) (state : JState) : Launch :=
  ((crowded co dispatched state [] []).launches.find 1).getD ⟨0, 0, 0, ⟨0, 0, 0, 0, 0, 0, 0, 0, false, 0⟩, Header.none, [], [], [], 0, 0, 0, .accepted, 0⟩

theorem crowded_off {co d st m t c} (h : c ≠ 0) : (crowded co d st m t).coreOn c = false := by
  by_cases hc : c < 3072 <;> simp [State.coreOn, crowded, Config.cores, State.setCluster, h, hc]
theorem crowded_full {co d st m t hd} {l : List Nat} (h : (crowded co d st m t).fitCore hd 0 [] = none) :
    (crowded co d st m t).fitIn hd [] l = none := by
  induction l with
  | nil => rfl
  | cons c l ih =>
    have e : (crowded co d st m t).fitCore hd c [] = none := by
      by_cases h0 : c = 0
      · rw [h0]; exact h
      · simp [State.fitCore, crowded_off h0]
    simp only [State.fitIn, e, ih]
/-- One victim is enough, and none is not. -/
theorem takeUntil_one {more : Nat → List Nat} {enough : List Nat → Bool} {u : Nat} {l vs : List Nat} (hl : l = []) (hv : vs = [u])
    (h0 : enough [] = false) (h1 : enough (more u) = true) : takeUntil more enough l vs = some (more u) := by
  subst hl hv; simp [takeUntil, h0, h1]

/-- The hypotheses of PlacementEventsAct (room for a team that waits to start, that is saved, or of a co-resident launch) are met. -/
theorem witness_room_start : ∃ s : State, ∃ h prio ts, s.working = true ∧ s.firstOf 0 = .tcb 1 0 ∧ FirstNeeds s 0 h prio ∧
    s.fitIn h [] (coresOf 0) = none ∧ victimsFor s 0 h prio = some ts ∧ ∃ u ∈ ts, (s.teams.find u).isSome ∧ (s.team u).phase = .resident :=
  have e := crowded_full (l := coresOf 0) (hd := (crowdedLaunch false 1 .placing).hdr) (co := false) (d := 1) (st := .placing) (m := [])
    (t := [(1, 0)]) (by decide +kernel)
  ⟨crowded false 1 .placing [] [(1, 0)], (crowdedLaunch false 1 .placing).hdr, 5, _, by decide +kernel, by decide +kernel,
    Or.inl ⟨1, 0, crowdedLaunch false 1 .placing, by decide +kernel, by decide +kernel, rfl, by decide +kernel⟩,
    e, takeUntil_one (u := teamNo) (by decide +kernel) (by decide +kernel) (by rw [e]; rfl) (by decide +kernel),
    teamNo, by decide +kernel, by decide +kernel, by decide +kernel⟩
theorem witness_room_restore : ∃ s : State, ∃ u h prio ts, s.working = true ∧ s.firstOf 0 = .team u ∧ FirstNeeds s 0 h prio ∧
    s.fitIn h [] (coresOf 0) = none ∧ victimsFor s 0 h prio = some ts ∧ ∃ v ∈ ts, (s.teams.find v).isSome ∧ (s.team v).phase = .resident :=
  have e := crowded_full (l := coresOf 0) (hd := (crowded false 1 .placing [savedTeam] []).hdr (teamNo + 1)) (co := false) (d := 1)
    (st := .placing) (m := [savedTeam]) (t := []) (by decide +kernel)
  ⟨crowded false 1 .placing [savedTeam] [], teamNo + 1, _, 5, _, by decide +kernel, by decide +kernel,
    Or.inr ⟨teamNo + 1, by decide +kernel, rfl, by decide +kernel⟩, e,
    takeUntil_one (u := teamNo) (by decide +kernel) (by decide +kernel) (by rw [e]; rfl) (by decide +kernel),
    teamNo, by decide +kernel, by decide +kernel, by decide +kernel⟩
theorem witness_room_together : ∃ s : State, ∃ l ts, s.working = true ∧ FirstAsksNothing s 0 ∧ s.coTop = some (1, l) ∧ coFits s 1 l = false ∧
    takeUntil s.broughtBy (fun gone => coFits (s.without gone) 1 l) s.leaving (s.victimTeams l.record.prio (List.range 16)) = some ts :=
  have e : coFits (crowded true 0 .accepted [] []) 1 (crowdedLaunch true 0 .accepted) = false := by
    have w : (crowded true 0 .accepted [] []).coWaits 1 (crowdedLaunch true 0 .accepted) = true := by decide +kernel
    have n : (crowdedLaunch true 0 .accepted).record.total = 1 := by decide +kernel
    rw [coFits, if_pos w, n, State.startAll, crowded_full (by decide +kernel)]; rfl
  ⟨crowded true 0 .accepted [] [], crowdedLaunch true 0 .accepted, _, by decide +kernel, asks_nothing (by decide +kernel), by decide +kernel, e,
    takeUntil_one (u := teamNo) (by decide +kernel) (by decide +kernel) e (by decide +kernel)⟩
theorem witness_victims : ∃ s : State, teamNo ∈ s.victimTeams 5 [0] ∧ (s.teams.find teamNo).isSome ∧ ∀ e ∈ s.teams, s.team e.1 = e.2 :=
  ⟨crowded true 0 .accepted [] [], by decide +kernel, by decide +kernel, by decide +kernel⟩

/-- Lane 0 stands at a word with a source that an unanswered SVC will fill. -/
noncomputable def served (since : Option Nat) (off : Option Nat) (clock : Nat) (filled : Bool) : State :=
  let s := slot (.iadd ⟨5, 4, 4, false, false, 0⟩)
  { s.setGroup teamNo 0 { s.group teamNo 0 with svcSince := since, off := off } with
    clock := clock, marks := [(⟨teamNo, .v, 0, 0, 4⟩, ⟨filled, false⟩)], accs := [anAccess (.svc 4 2 [] 0) 0 64 .core []] }

theorem image_nonempty (s : State) (u : Nat) : 0 < (s.saveImage u).length := by
  simp [State.saveImage, State.imageHeader, layOut, leBytes]

/-- The hypotheses of PlacementEventsAct (pre-emption, saves and restores) are met. -/
theorem witness_placement :
    (∃ s : State, (s.team teamNo).phase = .named) ∧
    (∃ s : State, (s.team teamNo).phase = .halting ∧ ∀ p ∈ s.pend, p.team = teamNo → p.te = true) ∧
    (∃ s : State, (s.team teamNo).phase = .halting ∧ ∃ p ∈ s.pend, p.team = teamNo ∧ p.te = false) ∧
    (∃ s : State, (s.team teamNo).phase = .saving) ∧
    (∃ s : State, ∃ x, Inv s ∧ 0 < (s.saveImage teamNo).length ∧ s.stackParts teamNo = [] ∧ inTeamImage teamNo x = false ∧
      x < loc .save teamNo 0) ∧
    (∃ s : State, s.stackParts teamNo ≠ []) ∧
    (∃ s : State, ∃ core f, s.working = true ∧ (s.team teamNo).phase = .saved ∧ (s.hdr teamNo).coRes = false ∧ s.restoresAlone teamNo = true ∧
      s.firstOf (clusterOf (s.team teamNo).core) = .team teamNo ∧
      s.fitIn (s.hdr teamNo) [] (coresOf (clusterOf (s.team teamNo).core)) = some (core, f)) ∧
    (∃ s : State, ∃ jn l s', s.working = true ∧ (s.team teamNo).phase = .saved ∧ s.restoresAlone teamNo = false ∧ s.coTop = some (jn, l) ∧
      (s.team teamNo).jn = jn ∧ s.reseatAll (s.hdr teamNo) (s.savedOf jn) = some s') ∧
    (∃ s : State, ∃ b, s.working = true ∧ (s.team teamNo).phase = .restoring b ∧ (∀ a ∈ s.delayed, a.team ≠ teamNo) ∧
      ∀ L : LaneId, L.team = teamNo → ∀ n, (s.lane L).wait ≠ .launch n) := by
  refine ⟨⟨inPhase .named, rfl⟩, ⟨{ inPhase .halting with pend := [aPend true none] }, rfl, fun p hp _ => List.mem_singleton.mp hp ▸ rfl⟩,
    ⟨{ inPhase .halting with pend := [aPend false none] }, rfl, _, List.mem_singleton.mpr rfl, rfl, rfl⟩, ⟨inPhase .saving, rfl⟩,
    ⟨demo, 0x40000000, inv_of rfl rfl, image_nonempty _ _, by decide +kernel, by decide +kernel, by decide +kernel⟩,
    ⟨withLane (fun l => { l with stack := List.replicate 9 0x10000 }), by decide +kernel⟩,
    ⟨inPhase .saved, _, _, rfl, rfl, rfl, rfl, rfl, rfl⟩,
    ⟨{ inPhase .saved with launches := demo.launches.map (fun e => (e.1, { e.2 with hdr := { e.2.hdr with coRes := true } })) }, _, _, _,
      rfl, rfl, rfl, rfl, rfl, rfl⟩,
    ⟨{ inPhase (.restoring false) with lanes := [] }, false, rfl, rfl, fun a ha => absurd ha List.not_mem_nil, fun L _ n => nofun⟩⟩

/-- The hypotheses of PlacementEventsAct (waits on service) are met: at each stage of a group's way off its core and back. -/
theorem witness_service_waits :
    (∃ s : State, OnService s teamNo 0 ∧ (s.group teamNo 0).svcSince = none) ∧
    (∃ s : State, OnService s teamNo 0 ∧ (s.group teamNo 0).svcSince = some 5 ∧ s.clock < 5 + 10000) ∧
    (∃ s : State, OnService s teamNo 0 ∧ Inv s ∧ (s.group teamNo 0).svcSince = some 5 ∧ 5 + 10000 ≤ s.clock) ∧
    (∃ s : State, 0 ∈ s.liveLanes teamNo 0 ∧ s.waitsService laneNo = false) ∧
    (∃ s : State, (s.group teamNo 0).off = some 5 ∧ (s.team teamNo).phase = .resident ∧ (s.group teamNo 0).loading = false ∧
      s.admits1 (.offCoreRestore teamNo 0) = true) ∧
    (∃ s : State, (s.group teamNo 0).off = some 5 ∧ (s.team teamNo).phase = .resident ∧ (s.group teamNo 0).loading = true ∧ s.delayed = []) ∧
    (∃ s : State, (s.group teamNo 0).loading = false ∧ s.liveLanes teamNo 0 ≠ [] ∧ ∀ i ∈ s.liveLanes teamNo 0, s.waitsService ⟨teamNo, 0, i⟩ = true) := by
  have one : ∀ {a b c d}, ∀ i ∈ (served a b c d).liveLanes teamNo 0, i = 0 := fun i hi => by
    have : i ∈ [0] := hi; exact List.mem_singleton.mp this
  refine ⟨⟨served none none 9 false, ⟨rfl, by decide +kernel, fun i hi => by rw [one i hi]; rfl, by rfl⟩, rfl⟩,
    ⟨served (some 5) none 9 false, ⟨rfl, by decide +kernel, fun i hi => by rw [one i hi]; rfl, by rfl⟩, rfl, by change 9 < 10005; decide⟩,
    ⟨served (some 5) none 20000 false, ⟨rfl, by decide +kernel, fun i hi => by rw [one i hi]; rfl, by rfl⟩, inv_of rfl rfl, rfl,
      by change 10005 ≤ 20000; decide⟩,
    ⟨served none none 9 true, by decide +kernel, by rfl⟩, ⟨served none (some 5) 9 true, rfl, rfl, rfl, by rfl⟩, ⟨loadingDemo, rfl, rfl, rfl, rfl⟩,
    ⟨served none (some 5) 9 false, rfl, by decide +kernel, fun i hi => by rw [one i hi]; rfl⟩⟩

/-- Memory of zeros: `n` bytes of scratchpad and as many of accumulator storage of the placed team. -/
@[irreducible] def zeros (n : Nat) : Memory :=
  (Memory.putN [] (loc .scratch teamNo 0) (List.replicate n 0)).putN (loc .acc teamNo 0) (List.replicate n 0)
/-- The placed machine with a run of its team that holds the pair, over these zeros. -/
def overZeros (r : Run) : State := { withRun r with mem := zeros 2560 }

theorem zeros_wf (n : Nat) : (zeros n).wf = true := by unfold zeros; exact Memory.wf_putN (Memory.wf_putN rfl _ _) _ _
theorem inv_zeros {s : State} {n : Nat} (h : s.mem = zeros n) (hp : s.proxy = []) : Inv s := inv_of (h ▸ zeros_wf n) hp
theorem replicate_at (m : Memory) (q N off n i : Nat) (h : off + n ≤ N) (hi : i < n) :
    (m.putN q (List.replicate N 0)).get (q + (off + i)) = some 0 := by
  rw [Memory.get_putN _ _ _ _ (by rw [List.length_replicate]; omega), List.getElem_replicate]
theorem zeros_scratch {s : State} {m : Nat} (e : s.mem = zeros m) (off n : Nat) (h : off + n ≤ m) (hm : m < 2 ^ 64) :
    BytesAt s (loc .scratch teamNo off) (List.replicate n 0) := by
  intro i hi
  have hi' : i < n := by rwa [List.length_replicate] at hi
  have hs : loc .scratch teamNo off + i = loc .scratch teamNo 0 + (off + i) := by unfold loc; omega
  rw [List.getElem_replicate, e, hs]
  unfold zeros
  rw [Memory.get_putN_ne _ _ (Or.inl (by unfold loc Space.tag; simp only; omega))]
  exact replicate_at _ _ m off n i h hi'
theorem zeros_acc {s : State} {m : Nat} (e : s.mem = zeros m) (off n : Nat) (h : off + n ≤ m) :
    BytesAt s (loc .acc teamNo off) (List.replicate n 0) := by
  intro i hi
  have hi' : i < n := by rwa [List.length_replicate] at hi
  have hs : loc .acc teamNo off + i = loc .acc teamNo 0 + (off + i) := by unfold loc; omega
  rw [List.getElem_replicate, e, hs]
  unfold zeros
  exact replicate_at _ _ m off n i h hi'

/-- The hypotheses of ProductStepsAct are met. -/
theorem witness_products :
    (∃ s : State, ∃ r, (s.core 0).hold = none ∧ (s.core 0).fifo = 9 :: [] ∧ s.run 9 = some r ∧ r.kind = .mma) ∧
    (∃ s : State, ∃ r z, Inv s ∧ (s.core 0).hold = none ∧ (s.core 0).fifo = 9 :: [] ∧ s.run 9 = some r ∧ r.kind = .attn ∧ r.pos = 0 ∧
      s.tile r.team r.c = some z) ∧
    (∃ s : State, ∃ r x y z, Steps s 0 r 0 ∧ r.kind = .mma ∧ s.tile r.team r.a = some x ∧ s.tile r.team r.b = some y ∧
      s.tile r.team r.c = some z ∧ (List.replicate 66 (0 : Byte)).length = stepBytes x.fmt x.rows false ∧
      (List.replicate 66 (0 : Byte)).length = stepBytes y.fmt y.rows false ∧ [0].length = x.rows * y.rows ∧
      BytesAt s (loc .scratch r.team (blockOff x.off (advA 0) r.pos)) (List.replicate 66 0) ∧
      BytesAt s (loc .scratch r.team (blockOff y.off (advB 0) r.pos)) (List.replicate 66 0) ∧
      BytesAt s (loc .acc r.team z.off) (bytes4 [0])) :=
  ⟨⟨{ demo.setCore 0 { demo.core 0 with fifo := [9] } with runs := [aRun .mma 0 1 2 [0, 0] 1] }, _, rfl, rfl, rfl, rfl⟩,
    ⟨{ demo.setCore 0 { demo.core 0 with fifo := [9] } with runs := [aRun .attn 3 1 4 [1, 0x1080, 0x10000, 0] 1] }, _, _, inv_of rfl rfl,
      rfl, rfl, rfl, rfl, rfl, rfl⟩,
    ⟨overZeros (aRun .mma 0 1 2 [0, 0] 1), aRun .mma 0 1 2 [0, 0] 1, readyTile 1 false 0 1 64, readyTile 1 false 128 1 64,
      readyTile 4 true 0 1 1, ⟨inv_zeros rfl rfl, rfl, rfl, rfl, nofun, by decide⟩, rfl, rfl, rfl, rfl, rfl, rfl, rfl,
      zeros_scratch rfl 0 66 (by decide) (by decide), zeros_scratch rfl 128 66 (by decide) (by decide), zeros_acc rfl 0 4 (by decide)⟩⟩

/-- The hypotheses of QuantiseAttentionAndAccumulatorRunsAct are met. -/
theorem witness_runs :
    (∃ s : State, ∃ r x z, Steps s 0 r 0 ∧ r.kind = .qnt ∧ s.tile r.team r.a = some x ∧ s.tile r.team r.c = some z ∧ z.rows = x.rows ∧
      64 * (r.pos + 1) ≤ x.cols ∧ z.off + (r.pos + 1) * stepBytes z.fmt z.rows false ≤ x.off ∧
      ∀ i < x.rows, (List.replicate 256 (0 : Byte)).length = (if x.fmt = 4 then 256 else 128) ∧
        BytesAt s (loc .scratch r.team (x.off + (if x.fmt = 4 then 4 else 2) * (x.cols * i + 64 * r.pos))) (List.replicate 256 0)) ∧
    (∃ s : State, ∃ r x z, Inv s ∧ s.run 9 = some r ∧ r.kind = .accwr ∧ s.runGoes r = true ∧ s.runs = [r] ∧
      s.tile r.team r.c = some z ∧ s.tile r.team r.a = some x ∧ (List.replicate 256 (0 : Byte)).length = 4 * x.rows * x.cols ∧
      BytesAt s (loc (if x.acc then .acc else .scratch) r.team x.off) (List.replicate 256 0)) ∧
    (∃ s : State, ∃ r, s.run 9 = some r ∧ s.holder (s.team r.team).core = some (r, 0) ∧ r.kind = .attn ∧ s.runGoes r = true ∧
      0 < (s.hdr r.team).lease ∧ r.arrived = none ∧
      (List.range r.total).find? (fun b => !(r.eaten.contains b) && !(r.asked.contains b)) = some 0) ∧
    (∃ s : State, ∃ r x y z, Steps s (s.team r.team).core r 0 ∧ r.kind = .attn ∧ r.arrived = some 0 ∧ s.tile r.team r.a = some x ∧
      s.tile r.team r.b = some y ∧ s.tile r.team r.c = some z ∧ (List.replicate 66 (0 : Byte)).length = stepBytes x.fmt x.rows false ∧
      BytesAt s (loc .scratch r.team x.off) (List.replicate 66 0) ∧ (List.replicate 1040 (0 : Byte)).length = 1040 * z.rows ∧
      BytesAt s (loc .acc r.team (z.off + 256 * z.rows)) (List.replicate 1040 0) ∧ r.pos + 1 < r.total) ∧
    (∃ s : State, ∃ r x y z, Steps s (s.team r.team).core r 0 ∧ r.kind = .attn ∧ r.arrived = some 0 ∧ s.tile r.team r.a = some x ∧
      s.tile r.team r.b = some y ∧ s.tile r.team r.c = some z ∧ (List.replicate 66 (0 : Byte)).length = stepBytes x.fmt x.rows false ∧
      BytesAt s (loc .scratch r.team x.off) (List.replicate 66 0) ∧ (List.replicate 1040 (0 : Byte)).length = 1040 * z.rows ∧
      BytesAt s (loc .acc r.team (z.off + 256 * z.rows)) (List.replicate 1040 0) ∧ r.pos + 1 = r.total ∧
      BytesAt s (loc .scratch r.team y.off) (List.replicate 128 0) ∧ r.team < 2 ^ 40 ∧ y.off + 128 ≤ 2 ^ 64) ∧
    (∃ s : State, ∃ r z, Inv s ∧ s.run 9 = some r ∧ r.kind = .accz ∧ s.runGoes r = true ∧ s.runs = [r] ∧ s.tile r.team r.c = some z) := by
  refine ⟨⟨overZeros (aRun .qnt 1 5 0 [] 1), aRun .qnt 1 5 0 [] 1, readyTile 4 false 512 1 64, readyTile 1 false 0 1 64,
      ⟨inv_zeros rfl rfl, rfl, rfl, rfl, nofun, by decide⟩, rfl, rfl, rfl, rfl, by decide, by decide, fun i hi => ?_⟩,
    ⟨overZeros (aRun .accwr 3 5 0 [] 1), aRun .accwr 3 5 0 [] 1, readyTile 4 false 512 1 64, readyTile 4 true 128 1 64, inv_zeros rfl rfl,
      rfl, rfl, rfl, rfl, rfl, rfl, rfl, zeros_scratch rfl 512 256 (by decide) (by decide)⟩,
    ⟨overZeros (aRun .attn 3 1 4 [1, 0x1080, 0x10000, 0] 1), _, rfl, rfl, rfl, rfl, by decide, rfl, rfl⟩,
    ⟨overZeros { aRun .attn 3 1 4 [2, 0x1080, 0x10000, 0] 2 with asked := [0], lines := (List.range 33).map (fun i => (i, [])) }, 
      { aRun .attn 3 1 4 [2, 0x1080, 0x10000, 0] 2 with asked := [0], lines := (List.range 33).map (fun i => (i, [])) },
      readyTile 1 false 0 1 64, readyTile 6 false 256 1 64, readyTile 4 true 128 1 64, ⟨inv_zeros rfl rfl, rfl, rfl, rfl, fun _ => by decide, by decide⟩, rfl, rfl, rfl, rfl,
      rfl, rfl, zeros_scratch rfl 0 66 (by decide) (by decide), rfl, zeros_acc rfl 384 1040 (by decide), by decide⟩,
    ⟨overZeros { aRun .attn 3 1 4 [1, 0x1080, 0x10000, 0] 1 with asked := [0], lines := (List.range 33).map (fun i => (i, [])) },
      { aRun .attn 3 1 4 [1, 0x1080, 0x10000, 0] 1 with asked := [0], lines := (List.range 33).map (fun i => (i, [])) },
      readyTile 1 false 0 1 64, readyTile 6 false 256 1 64, readyTile 4 true 128 1 64, ⟨inv_zeros rfl rfl, rfl, rfl, rfl, fun _ => by decide, by decide⟩,
      rfl, rfl, rfl, rfl, rfl, rfl, zeros_scratch rfl 0 66 (by decide) (by decide), rfl, zeros_acc rfl 384 1040 (by decide), rfl,
      zeros_scratch rfl 256 128 (by decide) (by decide), by decide, by decide⟩,
    ⟨overZeros (aRun .accz 3 0 0 [] 1), _, _, inv_zeros rfl rfl, rfl, rfl, rfl, rfl, rfl⟩⟩
  have : i = 0 := by have : i < 1 := hi; omega
  subst this
  exact ⟨rfl, zeros_scratch rfl 512 256 (by decide) (by decide)⟩

/-- The hypotheses of CopiesAndWaitsAct (its copies) are met. -/
theorem witness_copies :
    (∃ s : State, ∃ c x h, s.copy 9 = some c ∧ chunkOf s 9 0 = none ∧ 0 ∉ c.sent ∧ s.copyGoes c = true ∧ c.kind ≠ .gather ∧
      s.tile c.team c.tile = some x ∧ (c.chunks x.off x.bytes)[0]? = some h ∧ (c.inBounds h).2 ≠ 0) ∧
    (∃ s : State, ∃ c x y h, s.copy 9 = some c ∧ chunkOf s 9 0 = none ∧ 0 ∉ c.sent ∧ s.copyGoes c = true ∧ c.kind = .gather ∧
      c.index = none ∧ s.tile c.team c.tile = some x ∧ s.tile c.team c.idx = some y ∧ [0].length = c.desc.box.getD 1 1 ∧
      BytesAt s (loc .scratch c.team y.off) (bytes4 [0]) ∧ (Copy.chunks { c with index := some [0] } x.off x.bytes)[0]? = some h ∧
      (Copy.inBounds { c with index := some [0] } h).2 ≠ 0) ∧
    (∃ s : State, ∃ c x h, Inv s ∧ s.copy 9 = some c ∧ chunkOf s 9 0 = none ∧ s.copyGoes c = true ∧ c.kind = .inn ∧
      s.tile c.team c.tile = some x ∧ (c.chunks x.off x.bytes)[0]? = some h ∧ (c.inBounds h).2 = 0 ∧
      s.chunkRoom c none = true ∧ s.barrierGone c (s.copyHome c) = false) ∧
    (∃ s : State, ∃ c x h a, Inv s ∧ s.copy 9 = some c ∧ chunkOf s 9 0 = some a ∧ FarPiece s c a 0x40020000 64 ∧
      (∀ p, (s.touch 0x40020000 a.core).hit a.core (s.drawOf a.key) 0x40020000 64 p = none) ∧ c.kind.outward = false ∧
      s.tile c.team c.tile = some x ∧ (c.chunks x.off x.bytes)[0]? = some h ∧ (c.inBounds h).1 + 64 ≤ h.n ∧
      s.barrierGone c (chunkPort (some a)) = false) ∧
    (∃ s : State, ∃ c x h a, Inv s ∧ s.copy 9 = some c ∧ chunkOf s 9 0 = some a ∧ FarPiece s c a 0x40020000 64 ∧ c.kind.outward = true ∧
      s.tile c.team c.tile = some x ∧ (c.chunks x.off x.bytes)[0]? = some h ∧ (List.replicate 64 (0 : Byte)).length = h.n ∧
      BytesAt s (loc .scratch c.team (x.off + h.r)) (List.replicate 64 0) ∧ 64 = (c.inBounds h).2 ∧ (c.inBounds h).1 + 64 ≤ h.n ∧
      s.barrierGone c (chunkPort (some a)) = false) ∧
    (∃ s : State, ∃ c a, FarPiece s c a (loc .scratch teamNo 1024) 64) ∧
    (∃ s : State, ∃ c a, s.copy 9 = some c ∧ chunkOf s 9 0 = some a ∧ FarPiece s c a 0x40020000 64 ∧
      s.barrierGone c (chunkPort (some a)) = true) ∧
    (∃ s : State, ∃ c a, s.copy 9 = some c ∧ chunkOf s 9 0 = some a ∧ (s.team c.team).phase.moving = true) ∧
    (∃ s : State, ∃ c, s.copy 9 = some c ∧ c.failed = true ∧ s.chunkRoom c none = true) :=
  ⟨⟨withCopy (aCopy .inn), _, _, _, rfl, rfl, by decide, rfl, nofun, rfl, rfl, by decide⟩,
   ⟨{ withCopy (aCopy .gather) with mem := zeros 2560 }, _, _, _, _, rfl, rfl, by decide, rfl, rfl, rfl, rfl, rfl, rfl,
     zeros_scratch rfl 2048 4 (by decide) (by decide), rfl, by decide⟩,
   ⟨withCopy { aCopy .inn with quad := [64, 0, 0, 0] }, _, _, _, inv_of rfl rfl, rfl, rfl, rfl, rfl, rfl, rfl, by decide, rfl, rfl⟩,
   ⟨{ withCopy (aCopy .inn) with accs := [anAccess (.chunk 9 0 false) 0x20000 64 .ready [(0x40020000, 64)]] }, _, _, _, _, inv_of rfl rfl, rfl, rfl,
     ⟨rfl, rfl, rfl, by decide, by decide, Or.inl ⟨rfl, rfl, by decide, by decide⟩⟩, fun p => rfl, rfl, rfl, rfl, by decide, rfl⟩,
   ⟨{ withCopy (aCopy .out) with accs := [anAccess (.chunk 9 0 true) 0x20000 64 .ready [(0x40020000, 64)]], mem := zeros 2560 }, _, _, _, _,
     inv_zeros rfl rfl, rfl, rfl, ⟨rfl, rfl, rfl, by decide, by decide, Or.inl ⟨rfl, rfl, by decide, by decide⟩⟩, rfl, rfl, rfl, rfl,
     zeros_scratch rfl 1024 64 (by decide) (by decide), by decide, by decide, rfl⟩,
   ⟨withAccess (anAccess (.chunk 9 0 true) 0xFF00000000000400 64 .ready []), aCopy .out, anAccess (.chunk 9 0 true) 0xFF00000000000400 64 .ready [], rfl,
     rfl, rfl, by decide, by decide, Or.inr ⟨loc .scratch teamNo 1024, rfl, by decide⟩⟩,
   ⟨{ withCopy { aCopy .inn with count := true, quad := [0, 0, 0xFF01005000000000, 0] } with accs := [anAccess (.chunk 9 0 false) 0x20000 64 .ready [(0x40020000, 64)]] },
     _, _, rfl, rfl, ⟨rfl, rfl, rfl, by decide, by decide, Or.inl ⟨rfl, rfl, by decide, by decide⟩⟩, by decide⟩,
   ⟨{ inPhase .saving with copies := [aCopy .inn], accs := [anAccess (.chunk 9 0 false) 0x20000 64 .ready [(0x40020000, 64)]] }, _, _, rfl, rfl, rfl⟩,
   ⟨withCopy { aCopy .inn with failed := true }, _, rfl, rfl, rfl⟩⟩

/-- The placed machine with an armed object of a generation, watched at exponent 12, at a time. -/
@[irreducible] def armed (gen : Nat) : Memory := Memory.putN [] (loc .scratch teamNo 32) (Barrier.bytes ⟨0, 12, 0, 0, 1, 1, false, false, true, false, gen⟩)
def objectDemo (gen clock : Nat) : State := { demo with mem := armed gen, watch := [(teamNo, [0xFF00000000000020])], clock := clock }
theorem armed_wf (gen : Nat) : (armed gen).wf = true := by unfold armed; exact Memory.wf_putN (m := ([] : Memory)) (by decide) _ _
theorem objectDemo_inv (gen clock : Nat) : Inv (objectDemo gen clock) := inv_of (armed_wf gen) rfl

/-- Lane 0 in BWAITT, with deadline 50, at a time. -/
def timedDemo (clock : Nat) : State :=
  { withLane (fun l => { l with wait := .timed 0xFF00000000000020 1 50 2 (.go 0x10008 1 0) }) with clock := clock }

/-- The hypotheses of CopiesAndWaitsAct (its waits) are met. -/
theorem witness_waits :
    (∃ s : State, (s.lane laneNo).wait = .barrier 0xFF00000000000020 1 (.go 0x10008 1 0) ∧
      BarrierSeen s laneNo 0xFF00000000000020 (Barrier.of (s.readSegs 0 [(loc .scratch teamNo 32, 16)]))) ∧
    (∀ clock ∈ [40, 60], ∃ s : State, (s.lane laneNo).wait = .timed 0xFF00000000000020 1 50 2 (.go 0x10008 1 0) ∧ s.clock = clock ∧
      BarrierSeen s laneNo 0xFF00000000000020 (Barrier.of (s.readSegs 0 [(loc .scratch teamNo 32, 16)]))) ∧
    (∃ s : State, ∃ b, BarrierSeen s laneNo 0xFF00000000000020 b ∧ b.gen = 1 % 16) ∧
    (∃ s : State, ∃ b, BarrierSeen s laneNo 0xFF00000000000020 b ∧ b.gen ≠ 1 % 16) ∧
    (∃ s : State, s.coreOn 0 = true ∧ (s.core 0).checked < s.clock / 1024 ∧ s.watch = [] ∧ ∀ u ∈ s.teams, s.team u.1 = u.2) ∧
    (∃ s : State, Inv s ∧ s.coreOn 0 = true ∧ (s.core 0).checked < s.clock / 1024 ∧ (s.team teamNo).core = 0 ∧ (s.teams.find teamNo).isSome ∧
      (s.team teamNo).phase ≠ .saved ∧ (∀ b, (s.team teamNo).phase ≠ .restoring b) ∧ s.teamLive teamNo = true ∧ s.watch.get [] teamNo = [0xFF00000000000020] ∧
      (∀ v ∈ s.teams, v.2.core = 0 → v.1 = teamNo) ∧ (∀ c, s.ctx (s.team teamNo).key = some c → c.key = (s.team teamNo).key) ∧
      Barrier.overdue (Barrier.of (s.readSegs 0 [(loc .scratch teamNo ((0xFF00000000000020 : D64).toNat % 2 ^ 48), 16)])) s.clock = true) ∧
    (∃ s : State, CanTrap s ∧ s.sel.lanes ≠ [] ∧
      s.clauseAtFault s.sel.team (s.lane (s.sel.lane (s.sel.lanes.headD 0))) = none) ∧
    (∃ s : State, ∃ r i w, CanTrap s ∧ s.clauseAtFault s.sel.team (s.lane (s.sel.lane (s.sel.lanes.headD 0))) = some (r, i, w) ∧ r ≠ 8) ∧
    (∃ s : State, ∃ i w, s.clauseAtFault s.sel.team (s.lane (s.sel.lane (s.sel.lanes.headD 0))) = some (8, i, w) ∧
      ∀ c, s.ctx (s.team s.sel.team).key = some c → c.key = (s.team s.sel.team).key) :=
  ⟨⟨withLane (fun l => { l with wait := .barrier 0xFF00000000000020 1 (.go 0x10008 1 0) }), rfl, rfl, Or.inl rfl, by decide,
     loc .scratch teamNo 32, rfl, by decide, by decide, rfl⟩,
   fun clock h => ⟨timedDemo clock, rfl, rfl, by simp only [List.mem_cons, List.not_mem_nil, or_false] at h; rcases h with h | h <;> subst h <;> rfl,
     Or.inl rfl, by decide, loc .scratch teamNo 32, rfl, by decide, by decide, rfl⟩,
   ⟨objectDemo 1 0, _, ⟨rfl, Or.inl rfl, by decide, loc .scratch teamNo 32, rfl, by decide, by decide, rfl⟩, by decide +kernel⟩,
   ⟨objectDemo 2 0, _, ⟨rfl, Or.inl rfl, by decide, loc .scratch teamNo 32, rfl, by decide, by decide, rfl⟩, by decide +kernel⟩,
   ⟨{ demo with clock := 2048 }, rfl, by decide, rfl, by decide⟩,
   ⟨objectDemo 1 9000000, objectDemo_inv _ _, rfl, by decide +kernel, rfl, rfl, by decide, nofun, by decide +kernel, rfl,
     fun v hv _ => List.mem_singleton.mp hv ▸ rfl, fun c h => by cases h; rfl, by decide +kernel⟩,
   ⟨demo, ⟨by decide, rfl, fun l hl => by have := List.mem_singleton.mp hl; subst this; rfl⟩, nofun, rfl⟩,
   ⟨{ demo with icache := [⟨0, 0, 0x10000, oneWord 5 :: oneWord 5 :: List.replicate 30 (oneWord 5)⟩] }, _, _, _,
     ⟨by decide, rfl, fun l hl => by have := List.mem_singleton.mp hl; subst this; rfl⟩, rfl, by decide⟩,
   ⟨{ demo with icache := [⟨0, 0, 0x10000, List.replicate 32 0⟩] }, _, _, rfl, fun c h => by cases h; rfl⟩⟩

/-- The hypotheses of YieldMarks are met: by entries with and without the mark, by one of marked lanes none of which is ready, by a
team that is saved, and by one whose restore answers while no lane waits on a launch word of a bad clause. -/
theorem witness_marks :
    (∃ s : State, ∃ e : Entry, e.lane.mark = false ∧ 0 ∈ s.liveLanes teamNo 0) ∧ (∃ e : Entry, e.lane.mark = true) ∧
    (∃ e : Entry, e.lane.mark = true ∧ e.ready = []) ∧ (∃ s t : State, exec (.teamSave teamNo) s = .next t) ∧
    (∃ s t : State, exec (.teamRestore teamNo) s = .next t ∧ ∀ L x, (s.lane L).wait ≠ .launch (.bad x)) ∧
    (∀ b : Bool, ∃ s : State, ∃ i s' e, State.nextIssue s = some (i, s') ∧ s.groupChoice teamNo 0 = some e ∧ s.entryNeeds teamNo 0 e = [] ∧
      e.lane.mark = b) ∧
    (∃ s : State, ∃ i s' e, State.nextIssue s = some (i, s') ∧ s.groupChoice teamNo 0 = some e ∧ s.entryNeeds teamNo 0 e ≠ []) :=
  ⟨⟨demo, ⟨Lane.none, [], []⟩, rfl, by decide +kernel⟩, ⟨⟨{ Lane.none with mark := true }, [], []⟩, rfl⟩,
   ⟨⟨{ Lane.none with mark := true }, [0], []⟩, rfl, rfl⟩, ⟨demo, _, rfl⟩, ⟨State.reset, _, rfl, fun _ _ => nofun⟩,
   by
     intro b; cases b
     · exact ⟨withLane (fun l => { l with mark := false }), _, _, _, rfl, rfl, rfl, rfl⟩
     · exact ⟨withLane (fun l => { l with mark := true }), _, _, _, rfl, rfl, rfl, rfl⟩,
   ⟨{ demo with icache := [] }, _, _, _, rfl, rfl, nofun⟩⟩

/-- The placed machine with its team changed. -/
def withTeam (f : Team → Team) : State := demo.setTeam teamNo (f (demo.team teamNo))

/-- The hypotheses of PartFailuresAct (cores and Comb rows) are met: by a team that is run again, and by one whose launch ends. -/
theorem witness_core_failures :
    (∀ again : Bool, ∃ s : State, ∃ u x l, s.coreOn 0 = true ∧ s.teamsOn 0 [] = [(u, x)] ∧ s.team u = x ∧ s.allOff u = false ∧
      s.launches.find x.jn = some l ∧ l.state.over = false ∧ l.hdr.restart = again ∧ (s.hdr u).restart = again ∧ (s.teams.find u).isSome ∧
      ∃ c, s.ctx x.key = some c ∧ c.key = x.key) ∧
    (∃ s : State, s.coreOn 0 = false) ∧
    (∃ s : State, ∃ u tm, s.teams.find? (fun e => e.2.core = 0 && s.occupies e.1 && e.2.base ≤ 0 && 0 < e.2.base + e.2.rows) =
      some (u, tm) ∧ ∀ c, s.ctx tm.key = some c → c.key = tm.key) := by
  refine ⟨fun again => ?_, ⟨demo.setCore 0 { demo.core 0 with failed := true }, rfl⟩,
    ⟨withTeam (fun t => { t with rows := 4 }), _, _, rfl, fun c h => by cases h; rfl⟩⟩
  cases again
  · exact ⟨demo, _, _, _, rfl, rfl, rfl, rfl, rfl, rfl, rfl, rfl, rfl, _, rfl, rfl⟩
  · exact ⟨{ demo with launches := demo.launches.map (fun e => (e.1, { e.2 with hdr := { e.2.hdr with restart := true } })) }, _, _, _,
      rfl, rfl, rfl, rfl, rfl, rfl, rfl, rfl, rfl, _, rfl, rfl⟩

/-- A line of a slice that a context has written, as its tag. -/
def dirtyTag : L2Tag := { line := 1, key := 1, dirty := true, enc := .zero, way := none, check := [] }

/-- The hypotheses of PartFailuresAct (slices and lines) are met. -/
theorem witness_slice_failures :
    (∃ s : State, ∃ e, s.sliceOn 5 = true ∧ (∀ x ∈ s.ctxs, x.2.key = x.1) ∧ e ∈ s.ctxs ∧ 0 < s.lostLines 5 e.1 []) ∧
    (∃ s : State, s.sliceOn (4 ^^^ 1) = true) ∧
    (∃ s : State, s.sliceOn (sliceOf 0) = true ∧ (∀ e ∈ s.ctxs, s.lostLines (sliceOf 0) e.1 [] = 0) ∧
      ServedBy s (sliceOf 0) 0 ∧ copyable (4 * 0) = true ∧ (s.page (frameOf (4 * 0))).shared = true) ∧
    (∃ s : State, ∃ k, ¬ ServedBy s (sliceOf 0) k) ∧
    (∃ line : Nat, line < Config.firmwareBase / 128) ∧
    (∃ s : State, ∃ c : Ctx, Config.firmwareBase ≤ 128 * (0x5F00000000 / 128) ∧ 128 * (0x5F00000000 / 128) < Config.hbmBytes ∧
      s.ctxs = [(c.key, c)] ∧ s.tableLine c (0x5F00000000 / 128) = true) ∧
    (∃ s : State, ∃ line u x, inSpace .save (128 * line) = true ∧ 128 * line / 2 ^ 64 % 2 ^ 40 = u ∧ s.teams.find u = some x ∧
      ∀ c, s.ctx x.key = some c → c.key = x.key) ∧
    (∀ sp ∈ [Space.ring, .spill], ∃ s : State, ∃ line, inSpace sp (128 * line) = true ∧ 128 * line / 2 ^ 64 % 2 ^ 40 = 1 ∧
      ∃ c, s.ctx 1 = some c ∧ c.key = 1) ∧
    (∃ s : State, ∃ jn l code, 3 ∈ s.preronsOn ∧ s.launches = [(jn, l)] ∧ l.state = .terminal code) ∧
    (∃ s : State, 64 ∉ s.preronsOn) := by
  refine ⟨⟨{ demo with l2 := [((5, 0), ⟨[dirtyTag], 0⟩)] }, _, by decide +kernel, by decide +kernel, List.mem_singleton.mpr rfl, by decide +kernel⟩,
    ⟨demo, by decide +kernel⟩,
    ⟨{ demo with pages := [(0, ⟨none, true, 0, 1⟩)] }, by decide +kernel, by decide +kernel, by unfold ServedBy; decide +kernel, by decide, rfl⟩,
    ⟨demo, 32, by unfold ServedBy; decide +kernel⟩, ⟨0, by decide⟩, ⟨mappedDemo, (mappedDemo.ctx 1).get rfl, by decide, by decide, rfl, by decide +kernel⟩,
    ⟨demo, loc .save teamNo 0 / 128, teamNo, _, by decide +kernel, by decide +kernel, rfl, fun c h => by cases h; rfl⟩, fun sp h => ?_,
    ⟨withLaunch (fun l => { l with state := .terminal 1 }), _, _, 1, by decide +kernel, rfl, rfl⟩, ⟨demo, by decide +kernel⟩⟩
  simp only [List.mem_cons, List.not_mem_nil, or_false] at h
  rcases h with h | h <;> subst h
  · exact ⟨demo, loc .ring 1 0 / 128, by decide +kernel, by decide +kernel, _, rfl, rfl⟩
  · exact ⟨demo, loc .spill 1 0 / 128, by decide +kernel, by decide +kernel, _, rfl, rfl⟩

/-- A load in flight through port 2, and a store. -/
def farAccess (op : AccOp) : Access := { anAccess op 0x10000 4 .ready [(loc .peer 2 0, 4)] with home := 2, port := 2 }

/-- The hypotheses of LinkEventsAct (ports) are met. -/
theorem witness_ports :
    (∃ s : State, (s.port 2).up = true) ∧
    (∀ op ∈ [AccOp.ld 4 false, .st 7], ∃ s : State, ∃ a, s.accs.filter (fun b => b.through a.port) = [a] ∧ a.through a.port = true ∧
      (s.port a.port).up = true ∧ s.copies = [] ∧ (∃ c, s.ctx a.key = some c ∧ c.key = a.key) ∧ (∀ x y z, a.op ≠ .chunk x y z) ∧
      a.op = op ∧ a.size = 4 ∧ a.lanes = [0] ∧ s.receives ⟨a.team, a.group, 0⟩ = true ∧ Here s a.team a.group) ∧
    (∃ s : State, (s.port 2).enabled = true ∧ (s.port 2).up = false) ∧
    (∃ s : State, (s.port 2).up = true ∧ (s.port 2).nak = none ∧ (5 + 4096 - (s.port 2).recvSeq) % 4096 < 2048) ∧
    (∃ s : State, (s.port 2).up = true ∧ (s.port 2).nak ≠ none ∧ 0 = (s.port 2).recvSeq) ∧
    (∃ s : State, 5 ≠ (s.port 2).recvSeq ∧ (s.port 2).nak ≠ none) ∧
    (∃ s : State, 4095 ≠ (s.port 2).recvSeq ∧ 2048 ≤ (4095 + 4096 - (s.port 2).recvSeq) % 4096) ∧
    (∃ s : State, ∃ x : Flit, (s.port 2).up = true ∧ x.good = false) ∧
    (∃ s : State, (s.port 2).up = true ∧ (s.port 2).replay = [0] ++ 1 :: [2] ∧ 1 ∉ [0]) := by
  refine ⟨⟨demo.setPort 2 upPort, rfl⟩, fun op h => ⟨{ demo.setPort 2 upPort with accs := [farAccess op] }, farAccess op, rfl, rfl, rfl, rfl,
      ⟨_, rfl, rfl⟩, ?_, rfl, rfl, rfl, rfl, rfl, rfl⟩,
    ⟨demo.setPort 2 { upPort with up := false }, rfl, rfl⟩, ⟨demo.setPort 2 upPort, rfl, rfl, by decide⟩,
    ⟨demo.setPort 2 { upPort with nak := some 0 }, rfl, nofun, rfl⟩, ⟨demo.setPort 2 { upPort with nak := some 0 }, by decide, nofun⟩,
    ⟨demo.setPort 2 upPort, by decide, by decide⟩, ⟨demo.setPort 2 upPort, ⟨5, 0, 0, 0, [], 0⟩, rfl, rfl⟩, ⟨demo.setPort 2 upPort, rfl, rfl, by decide⟩⟩
  simp only [List.mem_cons, List.not_mem_nil, or_false] at h
  rcases h with h | h <;> subst h <;> nofun

/-- The hypotheses of LinkEventsAct (the host link) are met. -/
theorem witness_host_link :
    (∃ s : State, s.board.link = .up) ∧ (∃ s : State, s.board.link = .down 0 ∧ s.clock < 0 + 10000000) ∧
    (∃ s : State, ∃ e, s.board.link = .down 0 ∧ 0 + 10000000 ≤ s.clock ∧ (∀ e ∈ s.ctxs, e.2.key = e.1) ∧ e ∈ hostHeld s) ∧
    (∃ s : State, ∃ a, s.board.link = .down 0 ∧ 0 + 10000000 ≤ s.clock ∧ (∀ e ∈ s.ctxs, e.2.key = e.1) ∧ a ∈ s.accs ∧ a.stage = .ats) ∧
    (∃ s : State, ∃ a, s.board.link = .down 0 ∧ 0 + 10000000 ≤ s.clock ∧ (∀ e ∈ s.ctxs, e.2.key = e.1) ∧ a ∈ s.accs ∧ a.stage = .ready ∧
      ∃ g ∈ a.locs, inSpace .host g.1 = true) :=
  ⟨⟨demo, rfl⟩, ⟨withBoard (fun b => { b with link := .down 0 }), rfl, by decide⟩,
   ⟨{ withBoard (fun b => { b with link := .down 0 }) with clock := 10000000, dirty := [(loc .host 0 0 / 128, (1, 0x10000, 1))] },
     (loc .host 0 0 / 128, (1, 0x10000, 1)), rfl, by decide, by decide +kernel, by decide +kernel⟩,
   ⟨{ withBoard (fun b => { b with link := .down 0 }) with clock := 10000000, accs := [anAccess (.ld 4 false) 0x40000000 4 .ats []] }, _,
     rfl, by decide, by decide +kernel, List.mem_singleton.mpr rfl, rfl⟩,
   ⟨{ withBoard (fun b => { b with link := .down 0 }) with
       clock := 10000000, accs := [anAccess (.ld 4 false) 0x40000000 4 .ready [(loc .host 5 0, 4)]] }, _,
     rfl, by decide, by decide +kernel, List.mem_singleton.mpr rfl, rfl, _, List.mem_singleton.mpr rfl, by decide +kernel⟩⟩

/-- The mapped context with one request of a service. -/
def asked (code : Nat) (args : List W32) : State := withCtx (fun c => { c with quota := 1048576, reqs := [aReq code args none] })

/-- The hypotheses of BoardAndServiceEventsAct (the board) are met. -/
theorem witness_board :
    (∃ s : State, ∃ e, s.board.flash.portsOff = [5] ∧ e ∈ s.ports ∧ e.2.enabled = true ∧ e.2.up = true) ∧
    (∃ s : State, s.board.state = .ready ∧ s.board.powered = true ∧ s.board.cap < 2000 ∧ 900 ≤ s.board.cap) ∧
    (∃ s : State, s.board.state = .reset ∧ s.board.imageOk = true ∧ s.board.confOk = true) ∧
    (∃ s : State, s.board.state = .recovery ∧ s.board.imageOk = true ∧ s.board.confOk = true) ∧
    (∃ s : State, s.board.state = .reset ∧ s.board.imageOk = false) ∧ (∃ s : State, s.board.state = .recovery ∧ s.board.confOk = false) :=
  ⟨⟨{ withBoard (fun b => { b with flash := { b.flash with portsOff := [5] } }) with ports := [(2, upPort)] }, _, rfl,
     List.mem_singleton.mpr rfl, rfl, rfl⟩, ⟨demo, rfl, rfl, by decide, by decide⟩, ⟨State.reset, rfl, rfl, by decide +kernel⟩,
   ⟨{ State.reset with board := { State.reset.board with state := .recovery } }, rfl, rfl, by decide +kernel⟩,
   ⟨{ State.reset with board := { State.reset.board with fused := 2 } }, rfl, rfl⟩,
   ⟨{ State.reset with board := { State.reset.board with state := .recovery, flash := { State.reset.board.flash with confOk := false } } }, rfl, rfl⟩⟩

/-- The hypotheses of BoardAndServiceEventsAct (ALLOC, FREE and HOSTCALL) are met. -/
theorem witness_services :
    (∃ s : State, ∃ c r, s.ctx 1 = some c ∧ c.reqs = [] ++ r :: [] ∧ r.reply = none ∧ c.nextReq 1 = some r ∧ r.arg64 = 0) ∧
    (∃ s : State, ∃ c r, s.ctx 1 = some c ∧ c.nextReq 1 = some r ∧ r.args.getD 2 0 ≠ 0 ∧ 21 < (r.args.getD 2 0).toNat) ∧
    (∃ s : State, ∃ c r, s.ctx 1 = some c ∧ c.nextReq 1 = some r ∧ r.arg64 ≠ 0 ∧ 8 = (if r.args.getD 2 0 = 0 then 8 else (r.args.getD 2 0).toNat) ∧
      c.freeBlock (roundUp r.arg64 256) (2 ^ 8) = none) ∧
    (∃ s : State, ∃ c r a, s.ctx 1 = some c ∧ c.nextReq 1 = some r ∧ r.arg64 ≠ 0 ∧
      21 = (if r.args.getD 2 0 = 0 then 8 else (r.args.getD 2 0).toNat) ∧ c.freeBlock (roundUp r.arg64 256) (2 ^ 21) = some a ∧
      ∀ b ∈ c.heap, 2 ^ 40 ≤ b.1) ∧
    (∃ s : State, ∃ c r, s.ctx 1 = some c ∧ c.nextReq 2 = some r ∧ ∃ n, (r.arg64, n) ∈ c.heap) ∧
    (∃ s : State, ∃ c r, s.ctx 1 = some c ∧ c.nextReq 2 = some r ∧ ∀ b ∈ c.heap, b.1 ≠ r.arg64) ∧
    (∃ s : State, ∃ c r, s.ctx 1 = some c ∧ c.nextReq 3 = some r ∧ s.board.link = .up) ∧
    (∃ s : State, ∃ c r, s.ctx 1 = some c ∧ c.nextReq 3 = some r ∧ s.board.link ≠ .up) :=
  ⟨⟨asked 1 [0, 0, 0, 0], _, _, rfl, rfl, rfl, rfl, rfl⟩, ⟨asked 1 [64, 0, 22, 0], _, _, rfl, rfl, by decide, by decide⟩,
   ⟨asked 1 [1048577, 0, 0, 0], _, _, rfl, rfl, by decide, rfl, by decide +kernel⟩,
   ⟨asked 1 [64, 0, 21, 0], _, _, _, rfl, rfl, by decide, rfl, rfl, fun b hb => absurd hb List.not_mem_nil⟩,
   ⟨withCtx (fun c => { c with heap := [(64, 256)], reqs := [aReq 2 [64, 0, 0, 0] none] }), _, _, rfl, rfl, 256, List.mem_singleton.mpr rfl⟩,
   ⟨asked 2 [64, 0, 0, 0], _, _, rfl, rfl, fun b hb => absurd hb List.not_mem_nil⟩, ⟨asked 3 [0, 0, 0, 0], _, _, rfl, rfl, rfl⟩,
   ⟨{ asked 3 [0, 0, 0, 0] with board := { demo.board with link := .lost } }, _, _, rfl, rfl, nofun⟩⟩

/-- The mapped context, with a PASID and a byte in its first page, that asks for that page's move. -/
def movesTo (home : W32) : State := { withCtx (fun c => { c with pasid := some 5, reqs := [aReq 4 [0, 0, home, 0] none] }) with
  mem := mappedDemo.mem.putN 0x40000000 [7], lineKey := [(0x40000000 / 128, 1)] }
theorem movesTo_inv (home : W32) : Inv (movesTo home) := inv_of (Memory.wf_putN (mapped_wf _) _ _) rfl

/-- The hypotheses of BoardAndServiceEventsAct (MIGRATE) are met: a page that cannot move, for each reason, a home that is none, and a
page that moves within device memory, and to the host. -/
theorem witness_migrations :
    (∃ s : State, ∃ c r, s.ctx 1 = some c ∧ c.nextReq 4 = some r ∧ migrateHome r ≤ 1 ∧ walk s.mem c.root (migrateVa r) = none) ∧
    (∃ s : State, ∃ c r, s.ctx 1 = some c ∧ c.nextReq 4 = some r ∧ migrateHome r ≤ 1 ∧ vspace (migrateVa r) ≠ .ordinary) ∧
    (∃ s : State, ∃ c r, s.ctx 1 = some c ∧ c.nextReq 4 = some r ∧ migrateHome r = 1 ∧ c.pasid = none) ∧
    (∃ s : State, ∃ c r x, s.ctx 1 = some c ∧ c.nextReq 4 = some r ∧ migrateHome r ≤ 1 ∧
      walk s.mem c.root (migrateVa r) = some x ∧ 1 < x.home) ∧
    (∃ s : State, ∃ c r x, s.ctx 1 = some c ∧ c.nextReq 4 = some r ∧ migrateHome r ≤ 1 ∧ walk s.mem c.root (migrateVa r) = some x ∧
      c.pinned (leafRange (some x) (migrateVa r)).1 (leafRange (some x) (migrateVa r)).2 = true) ∧
    (∃ s : State, ∃ c r, s.ctx 1 = some c ∧ c.nextReq 4 = some r ∧ 1 < migrateHome r) ∧
    (∃ s : State, ∃ c r x y, Moves s 1 c r (some 0x80000000) [(0x5F00100000, 0x8000001F)] x y ∧
      spanOf c x (migrateVa r) ≠ spanOf c y (migrateVa r) ∧ (spanOf c x (migrateVa r)).has 0x40000000 = true ∧ isHbm 0x40000000 = true ∧ s.lineKey.get 0 (lineOf 0x40000000) = c.draw ∧
      (tabled s [(0x5F00100000, 0x8000001F)]).get 0x40000000 = some 7) ∧
    (∃ s : State, ∃ c r x y, Moves s 1 c r (some 0x80000000) [(0x5F00100000, 0x11F)] x y ∧
      (spanOf c x (migrateVa r)).has 0x40000000 = true ∧ isHbm 0x40000000 = true ∧ s.lineKey.get 0 (lineOf 0x40000000) = c.draw ∧
      (tabled s [(0x5F00100000, 0x11F)]).get 0x40000000 = some 7) :=
  ⟨⟨{ asked 4 [0, 0, 0, 0] with mem := [] }, _, _, rfl, rfl, by decide, by decide +kernel⟩,
   ⟨asked 4 [0, 0xFF000000, 0, 0], _, _, rfl, rfl, by decide, by decide⟩, ⟨asked 4 [0, 0, 1, 0], _, _, rfl, rfl, rfl, rfl⟩,
   ⟨{ asked 4 [0, 0, 0, 0] with mem := writeTables [] [(0x5F00000000, 0x5F00100001), (0x5F00100000, 0x21F)] }, _, _, ⟨2, 0, 0, 3, ⟨true, true, true⟩⟩,
     rfl, rfl, by decide, by decide +kernel, by decide⟩,
   ⟨withCtx (fun c => { c with wins := [(2097152, 2097152)], reqs := [aReq 4 [0, 0, 0, 0] none] }), _, _, ⟨0, 0, 0x40000000, 3, ⟨true, true, true⟩⟩,
     rfl, rfl, by decide, by decide +kernel, by decide +kernel⟩,
   ⟨asked 4 [0, 0, 2, 0], _, _, rfl, rfl, by decide⟩,
   ⟨movesTo 0, _, _, ⟨0, 0, 0x40000000, 3, ⟨true, true, true⟩⟩, ⟨0, 0, 0x80000000, 3, ⟨true, true, true⟩⟩, ⟨movesTo_inv _, rfl, rfl, rfl,
     by decide, by decide, by decide +kernel, by decide, fun _ => nofun, nofun, rfl, rfl, by decide +kernel, rfl, rfl,
     by decide +kernel, fun _ => ⟨by decide, by decide⟩⟩,
     by decide, by decide +kernel, by decide, by decide +kernel, by decide +kernel⟩,
   ⟨movesTo 1, _, _, ⟨0, 0, 0x40000000, 3, ⟨true, true, true⟩⟩, ⟨1, 0, 0, 3, ⟨true, true, true⟩⟩, ⟨movesTo_inv _, rfl, rfl, rfl,
     by decide, by decide, by decide +kernel, by decide, fun _ => nofun, nofun, rfl, rfl, by decide +kernel, rfl, rfl,
     by decide +kernel, fun h => absurd h (by decide)⟩,
     by decide +kernel, by decide, by decide +kernel, by decide +kernel⟩⟩

/-- A command in service, for the mapped context changed. -/
def commanded (code : Byte) (f : Ctx → Ctx) : State := { serving code with ctxs := (serving code).ctxs.map (fun e => (e.1, f e.2)) }

/-- The hypotheses of ManagementCommandsAct (the registers and the mailbox) are met. -/
theorem witness_mailbox :
    (∃ s : State, ∃ m rest, s.board.later = m :: rest) ∧ (∃ s : State, s.board.later = []) ∧
    (∃ b : Board, b.now = none) ∧ (∃ b : Board, ∃ m, b.now = some m) ∧
    (∃ s : State, s.board.state ≠ .reset ∧ s.board.link = .up ∧ s.board.powered = true ∧ s.board.mbdb = false ∧ 1 ≤ s.board.mailCode ∧
      s.board.mailCode ≤ 15 ∧ mailFits s.board.mailbox = true) ∧
    (∃ s : State, s.board.state ≠ .reset ∧ s.board.link = .up ∧ s.board.powered = true ∧ s.board.mbdb = false ∧ s.board.mailCode = 0) ∧
    (∃ s : State, s.board.state ≠ .reset ∧ s.board.link = .up ∧ s.board.powered = true ∧ s.board.mbdb = false ∧ 15 < s.board.mailCode) ∧
    (∃ s : State, s.board.state ≠ .reset ∧ s.board.link = .up ∧ s.board.powered = true ∧ s.board.mbdb = false ∧
      mailFits s.board.mailbox = false) ∧
    (∃ s : State, s.board.state ≠ .reset ∧ s.board.link = .up ∧ s.board.powered = true ∧ s.board.mbdb = true ∧
      mailCodeOf s.board.staged = 14) ∧
    (∃ s : State, s.board.state ≠ .reset ∧ s.board.link = .up ∧ s.board.powered = true ∧ s.board.mbdb = true ∧
      mailCodeOf s.board.staged ≠ 14) ∧
    (∃ s : State, s.board.powered = false) :=
  ⟨⟨withBoard (fun b => { b with later := [[]] }), _, _, rfl⟩, ⟨demo, rfl⟩, ⟨demo.board, rfl⟩, ⟨{ demo.board with now := some [] }, _, rfl⟩,
   ⟨withBoard (fun b => { b with mailbox := [(0, 1)] }), nofun, rfl, rfl, rfl, by decide, by decide, by decide⟩,
   ⟨demo, nofun, rfl, rfl, rfl, rfl⟩, ⟨withBoard (fun b => { b with mailbox := [(0, 16)] }), nofun, rfl, rfl, rfl, by decide⟩,
   ⟨withBoard (fun b => { b with mailbox := [(3, 16)] }), nofun, rfl, rfl, rfl, by decide⟩,
   ⟨withBoard (fun b => { b with mbdb := true, staged := [(0, 14)] }), nofun, rfl, rfl, rfl, rfl⟩,
   ⟨withBoard (fun b => { b with mbdb := true }), nofun, rfl, rfl, rfl, by decide⟩, ⟨withBoard (fun b => { b with powered := false }), rfl⟩⟩

/-- The hypotheses of ManagementCommandsAct (contexts, queues, windows, bindings, checkpoints, debuggers, reports) are met. -/
theorem witness_management :
    (∀ b : Bool, ∃ s : State, ∃ a : CtxArgs, s.serving 1 = true ∧ s.board.state = .ready ∧ ctxArgsOk a = true ∧ s.ctx a.key = none ∧
      s.othersMap a.key s.mem (mappedRuns s.mem a.root) = b) ∧
    (∃ a : CtxArgs, ctxArgsOk a = false) ∧
    (∃ s : State, ∃ a : CtxArgs, s.serving 1 = true ∧ s.board.state = .ready ∧ ctxArgsOk a = true ∧ (s.ctx a.key).isSome) ∧
    (∃ s : State, s.serving 2 = true ∧ s.board.state = .ready ∧ s.ctx 9 = none) ∧
    (∀ code : Byte, code ∈ [2, 3, 6, 7, 8, 9, 10, 13, 14] → ∃ s : State, ∃ c, s.serving code.toNat = true ∧ s.board.state = .ready ∧
      s.ctx 1 = some c ∧ c.key = 1 ∧ c.held = false ∧ c.peers = [] ∧ Inv s) ∧
    (∃ s : State, ∃ c x, s.serving 3 = true ∧ s.board.state = .ready ∧ s.ctx 1 = some c ∧ (s.queues.get Queue.idle 3).owner = 1 ∧
      x = s.queues.get Queue.idle 3 ∧ 2 ^ 4 < x.backlog) ∧
    (∃ s : State, ∃ c, s.serving 3 = true ∧ s.board.state = .ready ∧ s.ctx 1 = some c ∧ (s.queues.get Queue.idle 3).owner ≠ 1 ∧
      Queue.idle.backlog ≤ 2 ^ 4) ∧
    (∃ s : State, ∃ c, s.serving 6 = true ∧ s.board.state = .ready ∧ s.ctx 1 = some c ∧ c.peers = [] ∧ (s.port 2).up = true) ∧
    (∃ s : State, ∃ c, s.serving 6 = true ∧ s.board.state = .ready ∧ s.ctx 1 = some c ∧ 16 ≤ c.peers.length) ∧
    (∃ s : State, ∃ c, s.serving 7 = true ∧ s.board.state = .ready ∧ s.ctx 1 = some c ∧ c.key = 1 ∧ c.held = true) ∧
    (∀ code : Byte, code ∈ [11, 12] → ∃ s : State, ∃ c, s.serving code.toNat = true ∧ s.board.state = .ready ∧ s.ctx 1 = some c ∧ c.dbg = true ∧
      (s.team teamNo).key = c.key ∧ (s.teams.find teamNo).isSome ∧ 0 < (s.hdr teamNo).groups) ∧
    (∀ code : Byte, code ∈ [11, 12] → ∃ s : State, ∃ c, s.serving code.toNat = true ∧ s.board.state = .ready ∧ s.ctx 1 = some c ∧ c.dbg = false) ∧
    (∃ s : State, s.serving 14 = true ∧ s.board.state = .ready ∧ s.ctx 9 = none) ∧
    (∃ s : State, s.serving 15 = true ∧ s.board.state = .recovery) ∧ (∃ s : State, s.serving 15 = true ∧ s.board.state = .ready) ∧
    (∃ s : State, s.serving 5 = true ∧ s.board.state ≠ .ready) := by
  refine ⟨fun b => ⟨serving 1, ⟨2, if b then 0x5F00000000 else 0x5F00200000, none, 65536, 0, 256, 0, 0⟩, rfl, rfl, ?_, rfl, ?_⟩,
   ⟨⟨0, 0x5F00000000, none, 65536, 0, 256, 0, 0⟩, by decide⟩, ⟨serving 1, ⟨1, 0x5F00000000, none, 65536, 0, 256, 0, 0⟩, rfl, rfl, by decide, rfl⟩,
   ⟨serving 2, rfl, rfl, rfl⟩, fun code h => ⟨serving code, _, ?_, rfl, rfl, rfl, rfl, rfl, inv_of (mapped_wf _) rfl⟩,
   ⟨{ serving 3 with queues := [(3, { oneQueue with size := 5, wr := 17 })] }, _, _, rfl, rfl, rfl, rfl, rfl, by decide⟩,
   ⟨serving 3, _, rfl, rfl, rfl, by decide, by decide⟩,
   ⟨(serving 6).setPort 2 upPort, _, rfl, rfl, rfl, rfl, rfl⟩,
   ⟨commanded 6 (fun c => { c with peers := List.replicate 16 (2, 6, 3) }), _, rfl, rfl, rfl, by decide⟩,
   ⟨commanded 7 (fun c => { c with held := true }), _, rfl, rfl, rfl, rfl, rfl⟩,
   fun code h => ⟨commanded code (fun c => { c with dbg := true }), _, ?_, rfl, rfl, rfl, rfl, rfl, (by decide : 0 < (demo.hdr teamNo).groups)⟩,
   fun code h => ⟨serving code, _, ?_, rfl, rfl, rfl⟩, ⟨serving 14, rfl, rfl, rfl⟩,
   ⟨{ serving 15 with board := { (serving 15).board with state := .recovery } }, rfl, rfl⟩, ⟨serving 15, rfl, rfl⟩,
   ⟨{ serving 5 with board := { (serving 5).board with state := .failed } }, rfl, nofun⟩⟩
  · cases b <;> decide
  · cases b <;> decide +kernel
  · simp only [List.mem_cons, List.not_mem_nil, or_false] at h
    rcases h with h | h | h | h | h | h | h | h | h <;> subst h <;> rfl
  · simp only [List.mem_cons, List.not_mem_nil, or_false] at h
    rcases h with h | h <;> subst h <;> rfl
  · simp only [List.mem_cons, List.not_mem_nil, or_false] at h
    rcases h with h | h <;> subst h <;> rfl

/-- The hypotheses of ManagementCommandsAct (PAGEMAP) are met: with tables that map no other context's page, with tables that do, for a
range that nothing uses, for one in use, and for one that a window pins. -/
theorem witness_pagemap :
    (∃ s : State, ∃ c, s.serving 4 = true ∧ s.board.state = .ready ∧ s.ctx 1 = some c ∧ c.key = 1 ∧
      s.othersMap 1 (tabled s []) (c.runsIn (tabled s [])) = false ∧ s.winsMove c (tabled s []) = false ∧ c.pinned 0 4096 = false ∧ s.usesRange 1 0 4096 = false) ∧
    (∃ s : State, ∃ c, s.serving 4 = true ∧ s.board.state = .ready ∧ s.ctx 1 = some c ∧ c.key = 1 ∧
      s.othersMap 1 (tabled s []) (c.runsIn (tabled s [])) = true) ∧
    (∃ s : State, ∃ c, s.serving 4 = true ∧ s.board.state = .ready ∧ s.ctx 1 = some c ∧ c.key = 1 ∧
      s.othersMap 1 (tabled s []) (c.runsIn (tabled s [])) = false ∧ s.winsMove c (tabled s []) = false ∧ c.pinned 0 4096 = false ∧ s.usesRange 1 0 4096 = true) ∧
    (∃ s : State, ∃ c, s.serving 4 = true ∧ s.board.state = .ready ∧ s.ctx 1 = some c ∧ c.key = 1 ∧
      s.othersMap 1 (tabled s []) (c.runsIn (tabled s [])) = false ∧ s.winsMove c (tabled s []) = false ∧ c.pinned 0 4096 = true) ∧
    (∃ s : State, ∃ c, s.serving 4 = true ∧ s.board.state = .ready ∧ s.ctx 1 = some c ∧ c.key = 1 ∧
      s.winsMove c (tabled s [(0x5F00100000, 0)]) = true) :=
  ⟨⟨serving 4, _, rfl, rfl, rfl, rfl, by decide +kernel, rfl, rfl, by decide +kernel⟩,
   ⟨{ serving 4 with ctxs := twoCtxs.ctxs }, _, rfl, rfl, rfl, rfl, by decide +kernel⟩,
   ⟨{ serving 4 with accs := [anAccess (.ld 4 false) 0 4 .ready [(0x40000000, 4)]] }, _, rfl, rfl, rfl, rfl, by decide +kernel, rfl, rfl, by decide +kernel⟩,
   ⟨commanded 4 (fun c => { c with wins := [(0, 2097152)] }), _, rfl, rfl, rfl, rfl, by decide +kernel, by decide +kernel, by decide +kernel⟩,
   ⟨commanded 4 (fun c => { c with wins := [(0, 2097152)] }), _, rfl, rfl, rfl, rfl, by decide +kernel⟩⟩

/-- The walk to a 1 GiB leaf. -/
theorem walk_huge {m : Memory} {root e3 e2 : Nat} {va : D64} (h3 : pteAt m (root + 8 * bits va.toNat 39 17) = e3) (ht : pteTable e3 = true)
    (h2 : pteAt m (pteAddr e3 + 8 * bits va.toNat 30 9) = e2) (hl : bits e2 4 1 = 1) (hv : (pteLeaf e2 30 && bits e2 5 2 = 0) = true) :
    walk m root va = some (leafTrans e2 30 3 va.toNat) := by
  simp only [walk, h3, h2, ht, hl, hv, Bool.not_true, Bool.false_eq_true, if_false, if_true]

theorem first_mapped {s : State} {c : Ctx} (hm : s.mem = mappedDemo.mem) (hr : c.root = 0x5F00000000) : s.allMapped c 0 2097152 = true := by
  refine List.all_eq_true.mpr (fun i hi => ?_)
  have hi : i < 512 := by simpa using List.mem_range.mp hi
  have e : ((0 : D64) + BitVec.ofNat 64 (4096 * i)).toNat = 4096 * i := by simp; omega
  have b3 : bits (4096 * i) 39 17 = 0 := by unfold bits; omega
  have b2 : bits (4096 * i) 30 9 = 0 := by unfold bits; omega
  rw [hm, hr, walk_huge (e3 := 0x5F00100001) (e2 := 0x4000001F) (by rw [e, b3]; decide +kernel) (by decide +kernel)
    (by rw [e, b2]; decide +kernel) (by decide) (by decide +kernel)]
  rfl

/-- The hypotheses of ManagementCommandsAct (HWIN) are met. -/
theorem witness_windows_of_hosts :
    (∃ s : State, ∃ c, s.serving 5 = true ∧ s.board.state = .ready ∧ s.ctx 1 = some c ∧ s.allMapped c 0 2097152 = true ∧ c.wins.length < 4 ∧
      s.board.link = .up) ∧
    (∃ s : State, ∃ c, s.serving 5 = true ∧ s.board.state = .ready ∧ s.ctx 1 = some c ∧ s.allMapped c 0 2097152 = true ∧ 4 ≤ c.wins.length ∧
      (0, 2097152) ∈ c.wins) ∧
    (∃ s : State, ∃ c, s.serving 5 = true ∧ s.board.state = .ready ∧ s.ctx 1 = some c ∧ s.allMapped c 0x40000000 2097152 = false) :=
  ⟨⟨serving 5, _, rfl, rfl, rfl, first_mapped rfl rfl, by decide, rfl⟩,
   ⟨commanded 5 (fun c => { c with wins := List.replicate 4 (0, 2097152) }), _, rfl, rfl, rfl, first_mapped rfl rfl, by decide, by decide +kernel⟩,
   ⟨serving 5, _, rfl, rfl, rfl, by decide +kernel⟩⟩

/-- The hypotheses of StepRunsTheDecodedWord, StepRunsTheEvent and StepKeepsMemoryCanonical are met. -/
theorem witness_steps :
    (∃ s : State, ∃ i s', s.overdue = none ∧ s.agenda = [] ∧ s.board.state ≠ .reset ∧ s.turn % 2 = 0 ∧
      State.nextIssue { s with clock := s.clock + 1 } = some (i, s')) ∧
    (∃ s : State, (s.ticks + 1) * 256 ≤ s.clock) ∧
    (∃ s : State, s.clock < (s.ticks + 1) * 256 ∧ s.board.link = .down 5 ∧ 5 + 10000000 ≤ s.clock) ∧
    (∃ s : State, s.clock < (s.ticks + 1) * 256 ∧ (∀ since, s.board.link = .down since → s.clock < since + 10000000) ∧ (∀ e ∈ s.teams, s.watch.get [] e.1 ≠ [] → s.coreOn e.2.core = true →
        (s.core e.2.core).checked < s.clock / 1024 → e.2.core = 0) ∧
      ∃ e ∈ s.teams, s.watch.get [] e.1 ≠ [] ∧ s.coreOn e.2.core = true ∧ (s.core e.2.core).checked < s.clock / 1024) ∧
    (∃ s : State, ∃ rest, s.overdue = none ∧ s.agenda = .happen .hostLinkDown :: rest ∧
      State.admits1 { s with agenda := rest, clock := s.clock + 1 } .hostLinkDown = true) ∧
    (∀ off ∈ [none, some 5], ∃ s : State, ∃ x, (s.team teamNo).phase = .halting ∧ s.lanes.find laneNo = some x ∧ (s.group teamNo 0).off = off) ∧
    (∃ s : State, ∃ e a, s.groupChoice teamNo 0 = some e ∧ a ∈ s.missing (s.team teamNo).core (s.team teamNo).jn e.lane.hdr) ∧
    (∃ s : State, ∃ i, s.overdue = none ∧ s.agenda = [] ∧ s.board.state ≠ .reset ∧ s.turn % 2 = 1 ∧
      State.nextEvent { s with clock := s.clock + 1 } = some i) ∧
    (∃ s : State, s.overdue = none ∧ s.agenda = [] ∧ s.board.state = .reset ∧ s.board.powered = true) ∧
    (∃ s t : State, Inv s ∧ step s = .next t) :=
  ⟨⟨State.reset.withFetchWord 32 0xC1800000, _, _, rfl, rfl, nofun, rfl, rfl⟩, ⟨{ demo with clock := 256 }, by decide⟩,
   ⟨{ withBoard (fun b => { b with link := .down 5 }) with clock := 10000005, ticks := 100000 }, by decide, rfl, by decide⟩,
   ⟨{ demo with clock := 1024, ticks := 4, watch := [(teamNo, [0])] }, by decide, nofun, fun e he _ _ _ => by
     have := List.mem_singleton.mp he; subst this; rfl, _, List.mem_singleton.mpr rfl, by decide, rfl, by decide⟩,
   ⟨{ demo with agenda := [.happen .hostLinkDown] }, [], rfl, rfl, rfl⟩, fun off h => ⟨(inPhase .halting).setGroup teamNo 0 { demo.group teamNo 0 with off := off }, _, rfl, rfl, rfl⟩,
   ⟨{ demo with icache := [] }, _, 0x10000, rfl, by decide +kernel⟩,
   ⟨{ withAccess (anAccess (.ld 4 false) 0x10000 4 .core []) with turn := 1 }, _, rfl, rfl, nofun, rfl, rfl⟩, ⟨State.reset, rfl, rfl, rfl, rfl⟩,
   ⟨{ State.reset with agenda := [.pass 5] }, _, inv_of rfl rfl, rfl⟩⟩

/-- The hypotheses of WordsLeaveMemoryAlone are met. -/
theorem witness_words_leave_memory : ∃ i w, ∃ s t : State, encode i = some w ∧ s.sel.lanes.Nodup ∧
    (∀ l ∈ s.sel.lanes, s.trapBar (s.sel.lane l) = none) ∧ exec i s = .next t :=
  ⟨.nop, _, slot .nop, _, rfl, by decide, fun l hl => by have := List.mem_singleton.mp hl; subst this; rfl, rfl⟩

/-- A state whose lane stands at a word, in its trap handler. -/
noncomputable def inHandler (i : Instr) : State := (slot i).setLane laneNo { (slot i).lane laneNo with inHandler := true }

/-- The hypotheses of BarredTrapsEndTheContext are met, by TRAP, by the illegal word, and by a log in a mapped page. -/
theorem witness_barred :
    (∃ s : State, ∃ c, Passes s (.trap 5) ∧ s.sel.lanes = [0] ∧ Barred s (s.sel.lane 0) 1 c) ∧
    (∃ s : State, ∃ c, s.sel.lanes = [0] ∧ s.sel.word = 0xD1400000 ∧ Barred s (s.sel.lane 0) 1 c) ∧
    (∃ s : State, ∃ c, Inv s ∧ s.ctx 1 = some c ∧ c.key = 1 ∧ LogSlot s c 0x40010040) := by
  have one : ∀ {i}, ∀ e ∈ (inHandler i).teams, (inHandler i).team e.1 = e.2 := fun e he => by
    have := List.mem_singleton.mp he; subst this; rfl
  refine ⟨⟨inHandler (.trap 5), _, (meets_passes (by rfl)).1, rfl, inv_of rfl rfl, rfl, one, rfl, rfl, rfl⟩,
    ⟨inHandler .illeg, _, rfl, rfl, inv_of rfl rfl, rfl, one, rfl, rfl, rfl⟩,
    ⟨withCtx (fun c => { c with log := 0x10000, logCap := 64 }), _, inv_of (mapped_wf _) rfl, rfl, rfl, by decide, by decide, by decide, Or.inl (by decide),
     ⟨⟨0, 0, 0x40010000, 3, ⟨true, true, true⟩⟩, tabled_huge (by decide +kernel) (by decide +kernel) (by decide +kernel) (by decide +kernel), rfl⟩,
     fun tr h => ?_⟩⟩
  have e : walk mappedDemo.mem 0x5F00000000 0x10000 = some ⟨0, 0, 0x40010000, 3, ⟨true, true, true⟩⟩ := by decide +kernel
  have : walk mappedDemo.mem 0x5F00000000 0x10000 = some tr := h
  rw [e] at this
  cases this
  left; decide

/-- The hypotheses of SleepWaits (the last clauses) are met: before the time has come, and when it has. -/
theorem witness_sleep_over : (∃ s : State, (s.lane laneNo).wait = .sleep 5 (.go 0x10008 1 0) ∧ s.clock < 5) ∧
    ∃ s : State, (s.lane laneNo).wait = .sleep 5 (.go 0x10008 1 0) ∧ 5 ≤ s.clock ∧ s.mayIssue teamNo 0 = true :=
  ⟨⟨{ withLane (fun l => { l with wait := .sleep 5 (.go 0x10008 1 0) }) with clock := 4 }, rfl, by decide⟩,
   ⟨{ withLane (fun l => { l with wait := .sleep 5 (.go 0x10008 1 0) }) with clock := 5 }, rfl, by decide, rfl⟩⟩

/-- The placed machine at MREL, or between words, with a run that holds the pair for some steps of its lease. -/
noncomputable def leasing (i : Instr) (n : Nat) (waiters : List Nat) : State :=
  { (slot i).setCore 0 { (slot i).core 0 with hold := some (9, n), fifo := waiters } with runs := [aRun .mloop 0 1 2 [1, 0] 1] }

/-- The hypotheses of MrelYields are met: with a run of the team as the holder, with none, and at the end of a lease with and without a
waiter. -/
theorem witness_mrel :
    (∃ s : State, ∃ hdr k prio r n, Passes s .mrel ∧ s.fall = some (.go hdr k prio) ∧ s.holder (s.team s.sel.team).core = some (r, n) ∧
      r.team = s.sel.team ∧ r.kind.leased = true) ∧
    (∃ s : State, ∃ hdr k prio, Passes s .mrel ∧ s.fall = some (.go hdr k prio) ∧ s.holder (s.team s.sel.team).core = none) ∧
    (∀ waiters, ∃ s : State, ∃ r, s.holder 0 = some (r, 256) ∧ r.kind.leased = true ∧ (s.hdr r.team).lease ≤ 256 ∧ (s.core 0).fifo = waiters) :=
  ⟨⟨leasing .mrel 3 [], _, _, _, _, _, (meets_passes (by rfl)).1, rfl, rfl, rfl, rfl⟩,
   ⟨slot .mrel, _, _, _, (meets_passes (by rfl)).1, rfl, rfl⟩, fun w => ⟨leasing .nop 256 w, _, rfl, rfl, (by decide : (demo.hdr teamNo).lease ≤ 256), rfl⟩⟩

/-- The hypotheses of BlockSumsAreExact are met. -/
theorem witness_block_sums : (List.replicate 64 (127 : Int)).length ≤ 64 ∧ (∀ x ∈ List.replicate 64 (127 : Int), -127 ≤ x ∧ x ≤ 127) ∧
    (none : Option Int) ∈ [none, some 1] :=
  ⟨by decide, fun x hx => by rw [List.eq_of_mem_replicate hx]; decide, by decide⟩

/-- The hypotheses of DecodeOfEncode are met. -/
theorem witness_round_trip : ∃ i w, i.wellFormed = true ∧ encode i = some w := ⟨.attn 3 1 4 12 2, _, rfl, rfl⟩

/-- The hypotheses of TrapWordsTrap are met. -/
theorem witness_traps : ∃ s : State, Passes s (.trap 5) ∧ CanTrap s :=
  ⟨slot (.trap 5), (meets_passes (by rfl)).1, by decide, rfl, fun l hl => by have := List.mem_singleton.mp hl; subst this; rfl⟩

/-! ### Words and results of the manual -/

/-- The next state of an outcome. -/
def nextOf : Host.Outcome State Fault Refusal → State
  | .next t => t
  | _ => State.reset

/-- R94 to R106: words that the manual writes out. -/
theorem test_manual_words :
    decode 0x08020BFF = .ok (.iaddi ⟨2, 2, 0x3FF⟩) ∧ decode 0x18020C40 = .ok (.hadd2 ⟨2, 3, 4, false, false, 0⟩) ∧
    decode 0x21C41880 = .ok (.fdivF64 ⟨4, 6, 8, false, false, 0⟩) ∧ decode 0x30820450 = .ok (.cvtS32F32 ⟨2, 1, some 1, false, false⟩) ∧
    decode 0x40810870 = .ok (.iset ⟨0, 1, 2, 7, false, false, 0⟩) ∧ decode 0x40B30480 = .ok (.iset ⟨6, 3, 1, 8, false, false, 0⟩) ∧
    decode 0x41491056 = .ok (.sel ⟨9, 4, 5, 3, false⟩) ∧ decode 0x49830024 = .ok (.bcast ⟨3, true, 4⟩) ∧
    decode 0x49C60149 = .ok (.laneget ⟨6, 5, 9⟩) ∧ decode 0x50C30810 = .ok (.shflXor ⟨3, 2, 1, false, false, 0⟩) ∧
    decode 0x58041060 = .ok (.sadd ⟨4, 4, 6, false, false, 0⟩) ∧ decode 0x5B851100 = .ok (.saddi ⟨5, 4, 256⟩) ∧
    decode 0x62882042 = .ok (.ldB64 ⟨4, 2, 1, 2⟩) := by
  refine ⟨?_, ?_, ?_, ?_, ?_, ?_, ?_, ?_, ?_, ?_, ?_, ?_, ?_⟩ <;> rfl

/-- R120 to R175: more words that the manual writes out. -/
theorem test_manual_words_more :
    decode 0x80100218 = .ok (.mma 8 0 4 6) ∧ decode 0x81062002 = .ok (.hadq 3 2 2) ∧ decode 0x80D21120 = .ok (.attn 9 1 2 8 0) ∧
    decode 0x81CA8000 = .ok (.accrd 5 8 false) ∧ decode 0x99540420 = .ok (.dmix 5 0 1 2) ∧ decode 0x99C40040 = .ok (.daff 1 0 4) ∧
    decode 0xA0440101 = .ok (.dfroms 1 16 1) ∧ decode 0xA0C08051 = .ok (.dmom 2 5 1) ∧ decode 0xA18C0060 = .ok (.dtag 3 0 6) ∧
    decode 0xA20040A5 = .ok (.datom 1 10 5) ∧ decode 0xA8040081 = .ok (.wadd 2 0 1 true) ∧ decode 0xAA00300E = .ok (.wcmp 3 0 7 false) ∧
    decode 0xAAC00102 = .ok (.wfrom 0 2 1 false) ∧ decode 0xB0006000 = .ok (.wcfg 6 false) ∧ decode 0xB0C04008 = .ok (.winfo 4 4 false) ∧
    decode 0x648440C2 = .ok (.wld ⟨2, 4, 3, 2⟩) ∧ decode 0xBF000000 = .ok (.exit 0 false) ∧ decode 0xD0810000 = .ok (.sread 1 0) := by
  refine ⟨?_, ?_, ?_, ?_, ?_, ?_, ?_, ?_, ?_, ?_, ?_, ?_, ?_, ?_, ?_, ?_, ?_, ?_⟩ <;> rfl

/-- R66: 1 + 2^-24 and 2^-130 in the four modes, in f32. -/
theorem test_rounding :
    [Rm.rne, .rz, .ru, .rd].map (fun m => Fmt.f32.put m false (.fin false ⟨2 ^ 24 + 1, -24, false⟩)) =
      [0x3F800000, 0x3F800000, 0x3F800001, 0x3F800000] ∧
    [Rm.rne, .rz, .ru, .rd].map (fun m => Fmt.f32.put m false (.fin true ⟨2 ^ 24 + 1, -24, false⟩)) =
      [0xBF800000, 0xBF800000, 0xBF800000, 0xBF800001] ∧
    Fmt.f32.put .rne false (.fin false ⟨1, -130, false⟩) = 0x00080000 ∧ Fmt.f32.put .rne true (.fin false ⟨1, -130, false⟩) = 0 := by
  decide

/-- R72: conversions of NaNs. -/
theorem test_nan_conversions :
    convert .f32 .f16 .rne false false 0xFFC12345 = 0xFE09 ∧ convert .f32 .b16 .rne false false 0xFFC12345 = 0xFFC1 ∧
    convert .f16 .f32 .rne false false 0x7D01 = 0x7FE02000 := by decide

/-- R75 and R77: four RX6 elements packed, the scales of 1.0 and 0.5, and the scales chosen for 3.0 and 2.0 in RX8. -/
theorem test_elements_and_scales :
    packElems 2 [some 1, some (-1), some 31, none] = [0xC1, 0xFF, 0x81] ∧
    (sc16 0x7E00).cmp (.ofInt 1) = .eq ∧ (sc16 0x7C00).cmp (.fin false ⟨1, -1, false⟩) = .eq ∧
    scaleFor 0x40400000 127 = 0x7307 ∧ scaleFor 0x40000000 127 = 0x7205 := by decide +kernel

/-- R94: IADD wraps, BFX.s takes a signed field of four bits at bit 8. -/
theorem test_integer_values :
    (nextOf (exec (.iadd ⟨5, 8, 16, false, false, 0⟩) { slot (.iadd ⟨5, 8, 16, false, false, 0⟩) with
        v := [(⟨teamNo, .v, 0, 0, 8⟩, 0xFFFFFFFF), (⟨teamNo, .v, 0, 0, 16⟩, 2)] })).getV laneNo 5 = 1 ∧
    (nextOf (exec (.bfxS ⟨5, 8, 16, false, false, 0⟩) { slot (.bfxS ⟨5, 8, 16, false, false, 0⟩) with
        v := [(⟨teamNo, .v, 0, 0, 8⟩, 0xF00), (⟨teamNo, .v, 0, 0, 16⟩, 0x408)] })).getV laneNo 5 = 0xFFFFFFFF :=
  ⟨rfl, rfl⟩

/-- R96, R97, R99: examples of the manual. -/
theorem test_float_values :
    numOr .f32 (modeOf 0) fminOf 0x7FC01234 0x40000000 = 0x40000000 ∧ fminOf .f32 (modeOf 0) 0x7FC01234 0x40000000 = 0x7FC01234 ∧
    fexpo (modeOf 0) 1 = -149 ∧ fexpo (modeOf 4) 1 = 0x80000000 ∧
    halves (flop2 .f16 (modeOf 0) opAdd) 0x3C007BFF 0x3C000020 = 0x40007BFF ∧
    flop3 .f32 (modeOf 0) opFma 0x3F800800 0x3F800800 0xBF801000 = 0x33800000 ∧
    flop2 .f32 (modeOf 0) opMul 0x3FC00001 0x3FC00001 = 0x40100002 ∧ flop2 .f32 (modeOf 1) opMul 0x3FC00001 0x3FC00001 = 0x40100001 := by
  decide +kernel

/-- R101: FEXP2 of 0.5. -/
theorem test_exp2 : flop1 .f32 (modeOf 0) (Fval.exp2 .f32 .rne) 0x3F000000 = 0x3FB504F3 := by decide +kernel

/-- R101, R102: FCOSPI of an even integer is 1 and of an odd one -1, below 2^24 and beyond. -/
theorem test_cospi_of_integers : [0x4B800000, 0x4B7FFFFF, 0x3F800000, 0x5F000000].map (flop1 .f32 (modeOf 0) (Fval.cospi .f32 .rne)) =
    [0x3F800000, 0xBF800000, 0xBF800000, 0x3F800000] := by decide +kernel

/-- R361: lines of zeros, of 64-bit values one apart, of 32-bit values one apart, and of bytes that fit no base. -/
theorem test_line_encodings :
    [List.replicate 128 0, (List.range 16).flatMap (fun i => leBytes 8 (0x123456789ABCDE00 + i)), (List.range 32).flatMap (fun i => leBytes 4 i),
      (List.range 128).map (fun i => BitVec.ofNat 8 (i * i * 7 + 3 * i))].map (fun b => ((encodingOf b).code, (encodingOf b).bytes)) =
      [(1, 0), (2, 24), (5, 36), (0, 128)] := by decide +kernel

/-- A line of RX8 elements with ones at three places, and other lines of the table under R125. -/
def ones : Line := ⟨[some 1, some 1, some 1] ++ List.replicate 61 (some 0), 0x7E00⟩
def zeroLine : Line := ⟨List.replicate 64 (some 0), 0x7E00⟩

/-- R125: the accumulator of the manual's example, and the table of changes to it. -/
theorem test_accumulator :
    accUpdate 0x4B800000 ones ones 0 = 0x4B800002 ∧
    accUpdate 0x4B800000 { ones with xs := [some 1, some 1, none] ++ List.replicate 61 (some 0) } { ones with scale := 0xFE01 } 0 = 0x7FC00001 ∧
    accUpdate 0x4B800000 ones { ones with scale := 0xFE00 } 0 = 0x7F800000 ∧
    accUpdate 0x4B800000 zeroLine { zeroLine with scale := 0xFE00 } 0 = 0x7FC00004 ∧
    accUpdate 0xFF800000 ones { ones with scale := 0xFE00 } 0 = 0x7FC00003 ∧
    accUpdate 0x7FC00002 ones ones 0 = 0x7FC00002 ∧ productStep true 0 [ones] [ones] [0xFF800000] = [0x40400000] := by
  decide +kernel

/-- R131: HADQ.h16 of a row with 1.0 at positions 0 and 1. -/
theorem test_transform :
    (hadamard 16 ([0x3F800000, 0x3F800000] ++ List.replicate 62 0)).take 4 = [0x40000000, 0, 0x40000000, 0] ∧
    (quantRow 1 16 ([0x3F800000, 0x3F800000] ++ List.replicate 62 0)).2 = 0x7205 ∧
    (quantRow 1 16 ([0x3F800000, 0x3F800000] ++ List.replicate 62 0)).1.take 3 = [127, 0, 127] := by decide +kernel

/-- R134: the two weights of the manual's example, and its output. -/
theorem test_attention :
    weightOf (.fin false ⟨5, -1, false⟩) = .weight (2896 * 2 ^ 34) false ∧ weightOf (.fin false ⟨1, -1, false⟩) = .weight (2896 * 2 ^ 32) false ∧
    attnOut (10 * (2896 * 2 ^ 34) - 6 * (2896 * 2 ^ 32)) (2896 * 2 ^ 34 + 2896 * 2 ^ 32) 0 0x7E00 = 0x40D9999A := by decide +kernel

/-- R147: the mixture of the point masses at 0 and 8 with λ = 20,480. -/
theorem test_condensation :
    emc (modeOf 0) 28 ((List.range 8).map (fun i => ⟨0, 4096 * 20480, i, 0⟩) ++ (List.range 8).map (fun i => ⟨0x41000000, 4096 * 45056, 8 + i, 0⟩)) =
      [0, 0, 0x40800000, 0x41000000, 0x41000000, 0x41000000, 0x41000000, 0x41000000] := by decide +kernel

/-- R167 to R175: the worked kernel `wquot`, p = 96, capacity 2: 3/7 · 7 − 3 is an uncertain zero. -/
theorem test_window_values :
    let p := precOf 0x2060
    let c := fun (y : Wnum × Rule × Nat) => commitVal 2 p.rm y.1 y.2.1 y.2.2
    let a := c (wfromRes p 2 3 0)
    let b := c (wfromRes p 2 7 0)
    let q := c (wdivRes p a b)
    let m := c (wmulRes p q b)
    let z := c (wsubRes p m a)
    (a.exp, a.valid, b.exp, b.valid) = (1, 96, 2, 96) ∧ (q.exp, q.valid) = (-2, 95) ∧ (m.exp, m.valid, m.num.neg) = (1, 94, false) ∧
      (z.cls, z.exp, z.valid, z.len) = (.zero, -93, 0, 96) ∧ exhausted 2 p.floor 96 (wsubRes p m a).1 z = true ∧ wcompare m a = 0x12 := by decide +kernel

/-- R46: a placed word runs in the next step: IADDI v4, v8, 5 leaves 5 in v4 of the placed lane. -/
theorem test_first_step :
    (nextOf (step (State.reset.withFetchWord 32 0x08042005))).getV laneNo 4 = 5 := by rfl

/-! ### Further clauses of word statements -/

/-- R195, R211, R212: a lane for which a fence waits, and one whose only access is behind an aperture. -/
theorem witness_fence_waits :
    (∃ s : State, ∃ a ∈ s.laneAccs laneNo, a.stage ≠ .done ∧ vspace a.va = .ordinary ∧ (a.home = 1 ∨ a.home = 3) ∧
      (∀ d c as p, a.op ≠ .svc d c as p) ∧ (∀ d, a.op ≠ .xlq d) ∧ ∀ d op, a.op ≠ .bar d op) ∧
    (∃ s : State, s.laneAccs laneNo ≠ [] ∧ ∀ a ∈ s.laneAccs laneNo, a.stage ≠ .done → vspace a.va ≠ .ordinary) :=
  ⟨⟨withAccess { anAccess (.ld 4 false) 0x10000 4 .ready [] with home := 1 }, _, List.mem_singleton.mpr rfl, nofun, by decide, Or.inl rfl,
     nofun, nofun, nofun⟩,
   ⟨withAccess (anAccess (.ld 4 false) 0xFF02000010000000 4 .ready []), nofun, fun a ha _ => by
     have := List.mem_singleton.mp ha; subst this; decide⟩⟩

/-- R214, R217: the tensor ids that copies find. -/
theorem witness_tensors : (slot (.copyIn 6 1 24 false)).tensor teamNo 1 = .valid rowDesc ∧
    (slot (.copyTt 6 20 false false)).tensor teamNo 16 = .unset := ⟨rfl, rfl⟩

/-- The placed machine in which the lane's PREC is x. -/
noncomputable def slotPrec (i : Instr) (x : W32) : State := (slot i).setLane laneNo { (slot i).lane laneNo with prec := x }

/-- The same, with a second lane in the entry, which stands where the first does. -/
def laneTwo : LaneId := ⟨teamNo, 0, 1⟩
noncomputable def slotTwo (i : Instr) (f g : Lane → Lane) : State :=
  { ((slot i).setLane laneNo (f ((slot i).lane laneNo))).setLane laneTwo (g ((slot i).lane laneNo)) with
    sel := { (slot i).sel with lanes := [0, 1] } }

/-- R169: a window word with TE set whose result is exhausted, and one whose result is not; one with TE clear; and an entry of both. -/
theorem witness_windows :
    (∃ s : State, Passes s (.wadd 2 0 1 false) ∧ CanTrap s ∧ (s.precF laneNo).te = true ∧
      exhausts s laneNo 2 (waddRes (s.precF laneNo) (s.getW laneNo 0) (s.getW laneNo 1)) = true) ∧
    (∃ s : State, Passes s (.wmov 2 0 false) ∧ (s.precF laneNo).te = true ∧
      exhausts s laneNo 2 (wsame (s.getW laneNo 0) (s.getW laneNo 0).neg (s.getW laneNo 0).len) = false) ∧
    ((slot (.wmov 2 0 false)).precF laneNo).te = false ∧
    (∃ s : State, ∃ h k p, Passes s (.wadd 2 0 1 false) ∧ s.fall = some (.go h k p) ∧ s.sel.lanes = [0, 1] ∧
      (s.precF laneNo).te = true ∧ (s.precF laneTwo).te = false) :=
  ⟨⟨slotPrec (.wadd 2 0 1 false) 0x42060, (meets_passes (by rfl)).1,
      ⟨by decide, rfl, fun l hl => by have := List.mem_singleton.mp hl; subst this; rfl⟩, rfl, by decide +kernel⟩,
   ⟨slotPrec (.wmov 2 0 false) 0x40060, (meets_passes (by rfl)).1, rfl, rfl⟩, rfl,
   ⟨slotTwo (.wadd 2 0 1 false) (fun l => { l with prec := 0x42060 }) (fun l => { l with prec := 0x2060 }), _, _, _,
      (meets_passes (by rfl)).1, rfl, rfl, rfl, rfl⟩⟩

/-- The placed machine with the s registers of WCFG. -/
noncomputable def slotWcfg (x y : D64) : State :=
  { slot (.wcfg 6 false) with s := [(⟨teamNo, .s, 0, 0, 6⟩, x), (⟨teamNo, .s, 0, 0, 7⟩, y)] }

/-- R166: capacities within the limits, one beyond 8, and a sum beyond the header's limbs. -/
theorem witness_wcfg :
    (∃ s : State, Passes s (.wcfg 6 false) ∧ (∀ n < 32, capOf (s.getS laneNo 6) (s.getS laneNo 7) n ≤ 8) ∧
      ((List.range 32).map (capOf (s.getS laneNo 6) (s.getS laneNo 7))).sum ≤ (s.hdr teamNo).wlimbs) ∧
    (∃ s : State, Passes s (.wcfg 6 false) ∧ CanTrap s ∧ ∃ n < 32, 8 < capOf (s.getS laneNo 6) (s.getS laneNo 7) n) :=
  ⟨⟨slotWcfg 0x8888888888888888 0x8888888888888888, (meets_passes (by rfl)).1, by decide +kernel, by decide +kernel⟩,
   ⟨slotWcfg 0 0x9, (meets_passes (by rfl)).1,
      ⟨by decide, rfl, fun l hl => by have := List.mem_singleton.mp hl; subst this; rfl⟩, 16, by decide, by decide +kernel⟩⟩

/-- A lane's stack, in a state of the placed lane at a word. -/
noncomputable def slotStack (i : Instr) (st : List D64) : State := (slot i).setLane laneNo { (slot i).lane laneNo with stack := st }
theorem slot_traps {s : State} (hn : s.sel.lanes = [0]) (ht : (s.teams.find s.sel.team).isSome) (hb : s.trapBar (s.sel.lane 0) = none) :
    CanTrap s :=
  ⟨hn ▸ by decide, ht, fun l hl => by rw [hn] at hl; have := List.mem_singleton.mp hl; subst this; exact hb⟩

/-- R247, R248: branches to a header, and to none. -/
theorem witness_branches :
    (∃ s : State, Passes s (.bra 4) ∧ HeaderAt s (relTarget s 4)) ∧
    (∃ s : State, ∃ l, Passes s (.brx 8) ∧ s.launches.find (s.team teamNo).jn = some l ∧ HeaderAt s (farTarget l (s.getV laneNo 8))) ∧
    (∃ s : State, Passes s (.bra 0) ∧ CanTrap s ∧ NoHeaderAt s (relTarget s 0)) ∧
    (∃ s : State, ∃ l, Passes s (.brx 8) ∧ CanTrap s ∧ s.launches.find (s.team teamNo).jn = some l ∧
      NoHeaderAt s (farTarget l (s.getV laneNo 8))) :=
  ⟨⟨slot (.bra 4), (meets_passes (by rfl)).1, _, rfl, rfl⟩, ⟨slot (.brx 8), _, (meets_passes (by rfl)).1, rfl, _, rfl, rfl⟩,
   ⟨slot (.bra 0), (meets_passes (by rfl)).1, slot_traps rfl rfl rfl, Or.inr ⟨_, rfl, rfl⟩⟩,
   ⟨(slot (.brx 8)).write laneNo (.v 8 2), _, (meets_passes (by rfl)).1, slot_traps rfl rfl rfl, rfl, Or.inl (by decide +kernel)⟩⟩

/-- R249: calls that find room, that find the stack full, and to no header. -/
theorem witness_calls :
    (∃ s : State, Passes s (.call 0 false 4) ∧ hasRoom s laneNo ∧ HeaderAt s (relTarget s 4)) ∧
    (∃ s : State, ∃ l, Passes s (.callx 8) ∧ hasRoom s laneNo ∧ s.launches.find (s.team teamNo).jn = some l ∧
      HeaderAt s (farTarget l (s.getV laneNo 8))) ∧
    (∃ s : State, Passes s (.call 0 false 4) ∧ CanTrap s ∧ ¬ hasRoom s laneNo ∧ HeaderAt s (relTarget s 4)) ∧
    (∃ s : State, ∃ l, Passes s (.callx 8) ∧ CanTrap s ∧ ¬ hasRoom s laneNo ∧ s.launches.find (s.team teamNo).jn = some l ∧
      HeaderAt s (farTarget l (s.getV laneNo 8))) ∧
    (∃ s : State, Passes s (.call 0 false 0) ∧ CanTrap s ∧ NoHeaderAt s (relTarget s 0)) ∧
    (∃ s : State, ∃ l, Passes s (.callx 8) ∧ CanTrap s ∧ s.launches.find (s.team teamNo).jn = some l ∧
      NoHeaderAt s (farTarget l (s.getV laneNo 8))) :=
  ⟨⟨slot (.call 0 false 4), (meets_passes (by rfl)).1, by unfold hasRoom; decide +kernel, _, rfl, rfl⟩,
   ⟨slot (.callx 8), _, (meets_passes (by rfl)).1, by unfold hasRoom; decide +kernel, rfl, _, rfl, rfl⟩,
   ⟨slotStack (.call 0 false 4) (List.replicate 16 0x10008), (meets_passes (by rfl)).1, slot_traps rfl rfl rfl,
      by unfold hasRoom; decide +kernel, _, rfl, rfl⟩,
   ⟨slotStack (.callx 8) (List.replicate 16 0x10008), _, (meets_passes (by rfl)).1, slot_traps rfl rfl rfl,
      by unfold hasRoom; decide +kernel, rfl, _, rfl, rfl⟩,
   ⟨slot (.call 0 false 0), (meets_passes (by rfl)).1, slot_traps rfl rfl rfl, Or.inr ⟨_, rfl, rfl⟩⟩,
   ⟨(slot (.callx 8)).write laneNo (.v 8 2), _, (meets_passes (by rfl)).1, slot_traps rfl rfl rfl, rfl, Or.inl (by decide +kernel)⟩⟩

/-- R249, R250: returns to a header and to none, with an empty stack, and of lanes of which some have an empty one. -/
theorem witness_returns :
    (∃ s : State, Passes s (.ret 0 false) ∧ (s.lane laneNo).stack = [0x10008] ∧ (s.lane laneNo).live = true ∧ 0 < (s.hdr teamNo).width ∧
      HeaderAt s 0x10008) ∧
    (∃ s : State, ∃ a, Passes s (.ret 0 false) ∧ CanTrap s ∧ (s.lane laneNo).stack.head? = some a ∧ NoHeaderAt s a ∧
      (s.lane laneNo).live = true ∧ 0 < (s.hdr teamNo).width) ∧
    (∃ s : State, ∃ h k p, Passes s (.ret 1 true) ∧ s.sel.lanes = [0, 1] ∧ (s.lane laneNo).stack = [] ∧ (s.lane laneTwo).stack = [0x10008] ∧
      HeaderAt s 0x10008 ∧ s.fall = some (.go h k p)) :=
  ⟨⟨slotStack (.ret 0 false) [0x10008], (meets_passes (by rfl)).1, rfl, rfl, by decide +kernel, _, rfl, rfl⟩,
   ⟨slotStack (.ret 0 false) [0x10002], _, (meets_passes (by rfl)).1, slot_traps rfl rfl rfl, rfl, Or.inl (by decide +kernel), rfl,
      by decide +kernel⟩,
   ⟨slotTwo (.ret 1 true) (fun l => { l with stack := [] }) (fun l => { l with stack := [0x10008] }), _, _, _, (meets_passes (by rfl)).1, rfl,
      rfl, rfl, ⟨_, rfl, rfl⟩, rfl⟩⟩

/-- R277, R60: BRK with and without a debugger, and the illegal word, in lanes that can trap. -/
theorem witness_debug :
    (∃ s : State, ∃ c, s.ctx (s.team s.sel.team).key = some c ∧ c.dbg = false) ∧
    (∃ s : State, ∃ c, s.ctx (s.team s.sel.team).key = some c ∧ c.dbg = true) ∧ (∃ s : State, CanTrap s ∧ s.sel.word = 0xD1400000) :=
  ⟨⟨demo, _, rfl, rfl⟩, ⟨{ demo with ctxs := demo.ctxs.map (fun e => (e.1, { e.2 with dbg := true })) }, _, rfl, rfl⟩,
   ⟨slot .illeg, ⟨by decide, rfl, fun l hl => by have := List.mem_singleton.mp hl; subst this; rfl⟩, rfl⟩⟩

/-- R254: a taker's access behind an access of the sender that is not yet performed. -/
theorem witness_behind :
    ∃ s : State, ∃ a, s.acc 8 = some a ∧ a.stage = .core ∧ laneNo.lane ∈ a.lanes ∧
      s.behindSender ⟨a.team, a.group, laneNo.lane⟩ a.id = true ∧ s.held a = true :=
  ⟨{ demo with accs := [anAccess (.st 1) 0x10000 4 .core [], { anAccess (.ld 4 false) 0x10000 4 .core [] with id := 8 }] }.setLane laneNo
      { demo.lane laneNo with after := [(7, 8)] }, _, rfl, rfl, by decide, by decide, by decide⟩

/-! ### The assembler's image (R17, R35, R332, R335, R339 to R341) -/

/-- The kernel scale3 of the syntax chapter. -/
noncomputable def scale3 : Source := List.mapIdx (fun i (l : SrcLine) => (i + 2, l))
  [.head .width (.lit 8), .head .vregs (.lit 8), .head .sregs (.lit 8), .param "src" 8 none, .param "k" 4 (some (.lit 3)),
   .clause 6 none [] false, .ins (.sread 1 0) .none,
   .clause 0 none [] false, .ins (.smovlo ⟨4, 0⟩) (.param "src" 0), .ins (.smovhi ⟨4, 0⟩) (.param "src" 1),
   .ins (.smovh2 ⟨4, 0⟩) (.param "src" 2), .ins (.smovh3 ⟨4, 0⟩) (.param "src" 3), .ins (.movlo ⟨2, 0⟩) (.param "k" 0),
   .ins (.movhi ⟨2, 0⟩) (.param "k" 1), .ins (.shli ⟨3, 1, 2⟩) .none,
   .clause 1 none [] false, .ins (.ldB32 ⟨4, 4, 3, 0⟩) .none,
   .clause 0 none [] false, .ins (.imul ⟨5, 4, 2, false, false, 0⟩) .none,
   .clause 1 none [] false, .ins (.stB32 ⟨5, 4, 3, false, 0⟩) .none, .ins (.exit 0 false) .none,
   .toData, .label "vals", .data [.word (.lit 1), .word (.lit 2), .word (.lit 3)]]

/-- Little-endian numbers of an image from an offset on. -/
def numsAt (r : Option Assembled × List Report) (off size n : Nat) : List Nat :=
  match r.1 with
  | some a => (List.range n).map (fun i => leAt a.image (off + size * i) size)
  | none => []

/-- R335, R339: the code words and the patch entries that the chapter gives for scale3. -/
theorem test_image_of_scale3 :
    numsAt (assemble scale3 1) 64 4 17 =
      [0xF0E0FA00, 0xD0810000, 0xF380F900, 0x48840000, 0x48C40000, 0x49040000, 0x49440000, 0x48020000, 0x48420000, 0x09430402,
       0xF090F800, 0x620840C0, 0xF080F700, 0x00851020, 0xF110F600, 0x690A40C0, 0xBF000000] ∧
    numsAt (assemble scale3 1) 136 8 6 =
      [0x0000000000000003, 0x0001000000000004, 0x0000000400000005, 0x0001000400000006, 0x0000000800000007, 0x0001000800000008] := by
  decide +kernel

/-- R32, R340: the header fields of scale3 that are not zero, its data at offset 192, and its default block. -/
theorem test_header_of_scale3 :
    numsAt (assemble scale3 1) 0 4 2 = [0x314E4B4C, 0x00030001] ∧ numsAt (assemble scale3 1) 0x24 4 3 = [6, 136, 64] ∧
    numsAt (assemble scale3 1) 192 4 3 = [1, 2, 3] ∧ Tbl.find (labelsOf scale3) "vals" = some (192, false) := by decide +kernel

/-- R342: scale3 has no diagnostic; without `.width` it has E09 at its first line, and with a word outside its clause's class E07, at its
line, and no image. -/
theorem test_reports_of_scale3 :
    (assemble scale3 1).2 = [] ∧
    (assemble (scale3.drop 1) 1).2 = [⟨1, .e09⟩] ∧
    (assemble (scale3 ++ [(40, .toCode), (41, .clause 1 none [] false), (42, .ins (.imul ⟨5, 4, 2, false, false, 0⟩) .none)]) 1) =
      (none, [⟨42, .e07⟩]) := by decide +kernel

/-- R341: the record of 3/7 at L = 96 and V = 95 that the chapter gives, with the limbs of the window chapter. -/
theorem test_wrec_of_three_sevenths :
    Datum.bytes [] [] (.wrec (.ratio (.lit 3) (.lit 7)) (.lit 96) (some (.lit 95))) =
      .ok (leBytes 8 0xFFFFFFFE00BE6022 ++ leBytes 8 0x6DB6DB6DB6DB6DB7 ++ leBytes 8 0x00000000DB6DB6DB) := by decide +kernel

/-- R17: the default priorities of the first, the 250th and the 251st clause line. -/
theorem test_default_priorities : defaultPrio 0 = 250 ∧ defaultPrio 249 = 1 ∧ defaultPrio 250 = 1 := by decide

end Sys2Proof.Tests
end

section
/-! PROOFS. The residue arithmetic of the matrix pair (R76): what a residue is, what a channel sums to, what crt gives back and
what a block sum is, with and without a NaN element; then the obligation O40. -/

namespace Sys2Proof.BlockSums

open Sys2Proof.Machine

/-! ### Residues and channels -/

/-- A residue, read as an integer, is the remainder: the channel loses no sign. -/
theorem natCast_residue {m : Nat} (hm : 0 < m) (x : Int) : (residue m x : Int) = x % m :=
  Int.toNat_of_nonneg (Int.emod_nonneg x (by omega))

theorem residue_lt {m : Nat} (hm : 0 < m) (x : Int) : residue m x < m := by
  have hlt : x % (m : Int) < m := Int.emod_lt_of_pos x (by omega)
  have hcast := natCast_residue hm x
  omega

theorem residue_sub_self_emod {m : Nat} (hm : 0 < m) (x : Int) : ((residue m x : Int) - x) % m = 0 := by
  rw [natCast_residue hm, Int.emod_sub_emod, sub_self, Int.zero_emod]

/-- One multiply-and-add of a channel is the multiply-and-add of the integers. -/
theorem residue_add_mul {m : Nat} (hm : 0 < m) (a x y : Int) :
    (residue m a + residue m x * residue m y) % m = residue m (a + x * y) := by
  apply Nat.cast_injective (R := Int)
  push_cast
  simp only [natCast_residue hm]
  rw [Int.emod_add_emod, Int.add_emod, ← Int.mul_emod, ← Int.add_emod]

/-- The exact sum of the products, in the order in which the arrays add them. -/
def dotSum (ps : List (Int × Int)) : Int := (ps.map (fun p => p.1 * p.2)).foldl (· + ·) 0

/-- A channel's running sum is the residue of the exact sum: `residue m` carries one addition over to the other. -/
theorem chanSum_eq_residue {m : Nat} (hm : 0 < m) (ps : List (Int × Int)) : chanSum m ps = residue m (dotSum ps) := by
  have hzero : (0 : Nat) = residue m 0 := by simp [residue]
  rw [chanSum, dotSum, List.foldl_map, hzero]
  exact List.foldl_hom (residue m) (fun a p => residue_add_mul hm a p.1 p.2)

/-! ### Recovery by crt -/

/-- Each coefficient of crt is 1 modulo its own modulus and 0 modulo the other two, so the combination is `x` modulo the product of
the moduli. -/
theorem crt_combination_emod (x : Int) :
    (1056768 * (x % 127) + 2080641 * (x % 128) + 1056640 * (x % 129)) % 2097024 = x % 2097024 := by
  have hsplit : 1056768 * (x % 127) + 2080641 * (x % 128) + 1056640 * (x % 129)
      = x + 2097024 * (2 * x - 64 * (x / 127) - 127 * (x / 128) - 65 * (x / 129)) := by omega
  rw [hsplit, Int.add_mul_emod_self_left]

/-- crt picks, of the integers with the given residues, the one in the window centred on zero. -/
theorem crt_residues {x : Int} (hlo : -1048512 ≤ x) (hhi : x ≤ 1048511) :
    crt (residue 127 x) (residue 128 x) (residue 129 x) = x := by
  have hcomb := crt_combination_emod x
  have h127 := natCast_residue (m := 127) (by decide) x
  have h128 := natCast_residue (m := 128) (by decide) x
  have h129 := natCast_residue (m := 129) (by decide) x
  simp only [crt]
  push_cast at h127 h128 h129
  rw [← h127, ← h128, ← h129] at hcomb
  split <;> omega

/-! ### Block sums -/

/-- A sum of at most 64 products of RX8 elements has magnitude at most 64 · 127 · 127. -/
theorem dotSum_bounds {ps : List (Int × Int)} (hlen : ps.length ≤ 64)
    (hps : ∀ p ∈ ps, (-127 ≤ p.1 ∧ p.1 ≤ 127) ∧ -127 ≤ p.2 ∧ p.2 ≤ 127) :
    -1032256 ≤ dotSum ps ∧ dotSum ps ≤ 1032256 := by
  have hprod : ∀ z ∈ ps.map (fun p => p.1 * p.2), -16129 ≤ z ∧ z ≤ 16129 := by
    intro z hz
    obtain ⟨p, hp, rfl⟩ := List.mem_map.mp hz
    obtain ⟨hx, hy⟩ := hps p hp
    have habs : |p.1 * p.2| ≤ 127 * 127 := by
      rw [abs_mul]
      exact mul_le_mul (abs_le.mpr hx) (abs_le.mpr hy) (abs_nonneg _) (by decide)
    exact abs_le.mp habs
  have hlo := List.card_nsmul_le_sum _ _ (fun z hz => (hprod z hz).1)
  have hhi := List.sum_le_card_nsmul _ _ (fun z hz => (hprod z hz).2)
  rw [List.length_map, nsmul_eq_mul] at hlo hhi
  rw [dotSum, ← List.sum_eq_foldl]
  omega

/-- Without a NaN element a block sum is what crt makes of the three channels. -/
theorem blockSum_map_some (xs ys : List Int) : blockSum (xs.map some) (ys.map some) =
    some (crt (chanSum 127 (xs.zip ys)) (chanSum 128 (xs.zip ys)) (chanSum 129 (xs.zip ys))) := by
  have hnone : ((xs.map some).zip (ys.map some)).any (fun p => p.1.isNone || p.2.isNone) = false := by
    simp [List.zip_map]
  have hvals : ((xs.map some).zip (ys.map some)).map (fun p => (p.1.getD 0, p.2.getD 0)) = xs.zip ys := by
    simp [List.zip_map, Function.comp_def]
  simp only [blockSum, hnone, hvals, Bool.false_eq_true, if_false]

/-- A block sum in the window of crt is exact. -/
theorem blockSum_exact {xs ys : List Int} (hlo : -1048512 ≤ dotSum (xs.zip ys)) (hhi : dotSum (xs.zip ys) ≤ 1048511) :
    blockSum (xs.map some) (ys.map some) = some (dotSum (xs.zip ys)) := by
  rw [blockSum_map_some, chanSum_eq_residue (by decide), chanSum_eq_residue (by decide), chanSum_eq_residue (by decide),
    crt_residues hlo hhi]

/-- A pair with a NaN element leaves the block without an integer. -/
theorem blockSum_of_mem_zip {xs ys : List (Option Int)} {p : Option Int × Option Int} (hp : p ∈ xs.zip ys)
    (hnan : p.1 = none ∨ p.2 = none) : blockSum xs ys = none := by
  have hany : (xs.zip ys).any (fun p => p.1.isNone || p.2.isNone) = true :=
    List.any_eq_true.mpr ⟨p, hp, by simpa using hnan⟩
  rw [blockSum, if_pos hany]

/-- In lines of one length every NaN element meets a partner, and so reaches the sum. -/
theorem blockSum_of_none_mem {xs ys : List (Option Int)} (hlen : xs.length = ys.length) (hnan : none ∈ xs ∨ none ∈ ys) :
    blockSum xs ys = none := by
  obtain hx | hy := hnan
  · rw [← List.map_fst_zip hlen.le] at hx
    obtain ⟨p, hp, hp1⟩ := List.mem_map.mp hx
    exact blockSum_of_mem_zip hp (.inl hp1)
  · rw [← List.map_snd_zip hlen.ge] at hy
    obtain ⟨p, hp, hp2⟩ := List.mem_map.mp hy
    exact blockSum_of_mem_zip hp (.inr hp2)

/-- Settles O40: a channel sum is the residue of the exact sum, a block's exact sum lies in the window, and crt gives each integer of
the window back from its residues. -/
theorem blockSumsAreExact : Obligations.BlockSumsAreExact := by
  unfold Obligations.BlockSumsAreExact
  have hpos : ∀ {m : Nat}, m = 127 ∨ m = 128 ∨ m = 129 → 0 < m := by omega
  refine ⟨fun m x hm => ⟨residue_lt (hpos hm) x, residue_sub_self_emod (hpos hm) x⟩,
    fun m ps hm => chanSum_eq_residue (hpos hm) ps, fun x => crt_residues, ?_, fun xs ys => blockSum_of_none_mem⟩
  intro xs ys hlen hxs hys
  have hzip : (xs.zip ys).length ≤ 64 := by rw [List.length_zip]; omega
  obtain ⟨hlo, hhi⟩ := dotSum_bounds hzip (fun p hp => ⟨hxs _ (List.of_mem_zip hp).1, hys _ (List.of_mem_zip hp).2⟩)
  exact ⟨blockSum_exact (by omega) (by omega), hlo, hhi⟩

end Sys2Proof.BlockSums
end

section
/-! PROOFS. MREL and the end of a lease (R128, R129): the words of MREL's function code, what a word that acts once for its entry
leaves behind, what MREL makes of the holder's lease, and what a lease boundary makes of a complete one; then the obligation O43. -/

namespace Sys2Proof.MatrixLease

open Sys2Proof.Machine

/-! ### The words of MREL's function code -/

/-- The word of major 16, function 9, whose operand bits are `x`. -/
def mrelWord (x : BitVec 22) : W32 := 0x209#10 ++ x

theorem mrelWord_toNat (x : BitVec 22) : (mrelWord x).toNat = 2 ^ 22 * 0x209 + x.toNat := by
  rw [mrelWord, BitVec.toNat_append, Nat.shiftLeft_eq, Nat.mul_comm, ← Nat.two_pow_add_eq_or_of_lt x.isLt]
  rfl

theorem majorOf_mrelWord (x : BitVec 22) : majorOf (mrelWord x) = 16 := by
  rw [Laws.majorOf_eq, mrelWord_toNat]
  omega

theorem fn_mrelWord (x : BitVec 22) : (fld 5 22 (mrelWord x)).toNat = 9 := by
  rw [fld, BitVec.extractLsb'_toNat, Nat.shiftRight_eq_div_pow, mrelWord_toNat]
  omega

theorem decode_mrelWord (x : BitVec 22) : decode (mrelWord x) = chk (mrelWord x) 0x3fffff 0 0 .mrel := by
  simp only [decode, majorOf_mrelWord, decMat, fn_mrelWord]

/-- The mask of the bits that the function leaves unused keeps exactly the operand bits. -/
theorem mrelWord_and_unused (x : BitVec 22) : (mrelWord x &&& 0x3fffff).toNat = x.toNat := by
  have hmask : (0x3fffff : W32).toNat = 2 ^ 22 - 1 := rfl
  rw [BitVec.toNat_and, hmask, Nat.and_two_pow_sub_one_eq_mod, mrelWord_toNat]
  omega

/-- An operand bit that is set makes the word illegal (R56, R129). -/
theorem decode_mrelWord_of_ne_zero {x : BitVec 22} (hx : x ≠ 0) : decode (mrelWord x) = .error .unusedField := by
  have hunused : mrelWord x &&& 0x3fffff ≠ 0 := fun hzero =>
    hx (BitVec.eq_of_toNat_eq (by rw [← mrelWord_and_unused x, hzero]; rfl))
  rw [decode_mrelWord, chk, if_pos hunused]

/-! ### Words that act once for their entry -/

@[simp] theorem setCore_core_self (s : State) (c : Nat) (x : Core) : (s.setCore c x).core c = x := by
  simp [State.core]

/-- A word that acts once for its entry and changes no lane: its effect is taken, and then nothing differs but that the lanes of the
entry go on (R88). -/
theorem onceDo_goes_on {s : State} {i : Instr} {hdr : D64} {k prio : Nat} (hp : Passes s i) (hf : s.fall = some (.go hdr k prio))
    {f : State → State} (hlanes : (f s).lanes = s.lanes) :
    (∀ l ∈ s.sel.lanes, Moved (s.onceDo (s.guard i) f) (s.sel.lane l) (s.lane (s.sel.lane l)) hdr k prio) ∧
      LanesKept s (s.onceDo (s.guard i) f) ∧ LanesOnly (f s) (s.onceDo (s.guard i) f) := by
  have hlane : (f s).lane = s.lane := by
    funext L
    rw [State.lane, hlanes, State.lane]
  rw [hp.onceDo hf, LanesKept, ← hlane]
  exact moves_fold s.sel.lane (fun _ => rfl) _ hdr k prio (fun _ _ => rfl) s.sel.lanes (f s) hp.nodup

/-! ### MREL (R129) -/

section
variable {s : State}

theorem mrel_of_own_holder {r : Run} {n : Nat} (hh : s.holder (s.team s.sel.team).core = some (r, n))
    (hteam : r.team = s.sel.team) (hleased : r.kind.leased = true) :
    s.mrel = s.setCore (s.team s.sel.team).core
      { s.core (s.team s.sel.team).core with hold := some (r.id, (s.hdr r.team).lease) } := by
  simp [State.mrel, hh, hteam, hleased]

theorem mrel_of_no_own_holder (hh : ∀ r n, s.holder (s.team s.sel.team).core = some (r, n) → r.team ≠ s.sel.team) :
    s.mrel = s := by
  simp only [State.mrel]
  split
  · next r n hsome => simp [hh r n hsome]
  · rfl

end

/-- MREL changes nothing but cores. -/
theorem mrel_only_cores (s : State) : s.mrel = { s with cores := s.mrel.cores } := by
  simp only [State.mrel]
  split
  · split <;> rfl
  · rfl

/-! ### The end of a lease (R128) -/

section
variable {s : State} {core : Nat} {r : Run} {n : Nat}

theorem leaseExpiry_of_waiter (hh : s.holder core = some (r, n)) (hleased : r.kind.leased = true)
    (hover : (s.hdr r.team).lease ≤ n) (hwaiter : (s.core core).fifo ≠ []) : s.leaseExpiry core = s.rejoin core r := by
  simp [State.leaseExpiry, hh, hleased, hover, hwaiter]

theorem leaseExpiry_of_no_waiter (hh : s.holder core = some (r, n)) (hleased : r.kind.leased = true)
    (hover : (s.hdr r.team).lease ≤ n) (halone : (s.core core).fifo = []) :
    s.leaseExpiry core = s.setCore core { s.core core with hold := some (r.id, 0) } := by
  simp [State.leaseExpiry, hh, hleased, hover, halone]

end

/-- A run that rejoins leaves the pair without a holder and stands in its FIFO. -/
theorem rejoin_core (s : State) (core : Nat) (r : Run) :
    ((s.rejoin core r).core core).hold = none ∧ r.id ∈ ((s.rejoin core r).core core).fifo := by
  unfold State.rejoin
  split <;> simp [State.core, State.setRun]

/-- A run that rejoins changes nothing but cores and runs. -/
theorem rejoin_only_cores_runs (s : State) (core : Nat) (r : Run) :
    s.rejoin core r = { s with cores := (s.rejoin core r).cores, runs := (s.rejoin core r).runs } := by
  unfold State.rejoin
  split <;> rfl

/-! ### The obligation -/

/-- Settles O43: MREL sets the step count of its team's holding run to the whole lease, and the lease boundary makes such a run rejoin
behind a waiter, or else begin its lease again. -/
theorem mrelYields : Obligations.MrelYields := by
  unfold Obligations.MrelYields
  refine ⟨rfl, fun x hx => ⟨_, decode_mrelWord_of_ne_zero hx⟩, ?mrel, ?waiter, ?alone⟩
  case mrel =>
    intro s hdr k prio hp hf
    have hlanes : s.mrel.lanes = s.lanes := by rw [mrel_only_cores]
    obtain ⟨hmoved, hkept, honly⟩ := onceDo_goes_on hp hf hlanes
    have hcores : (s.onceDo (s.guard .mrel) State.mrel).cores = s.mrel.cores := by rw [honly]
    refine ⟨_, rfl, ?own, ?other, hmoved, hkept, ?frame⟩
    case own =>
      intro r n hh hteam hleased
      rw [State.core, hcores, mrel_of_own_holder hh hteam hleased]
      exact setCore_core_self ..
    case other =>
      intro hh
      rw [hcores, mrel_of_no_own_holder hh]
    case frame =>
      unfold LanesOnly at honly
      rw [honly, mrel_only_cores]
  case waiter =>
    intro s core r n hh hleased hover hwaiter
    obtain ⟨hhold, hfifo⟩ := rejoin_core s core r
    exact ⟨_, congrArg Host.Outcome.next (leaseExpiry_of_waiter hh hleased hover hwaiter), hhold, hfifo,
      rejoin_only_cores_runs s core r⟩
  case alone =>
    intro s core r n hh hleased hover halone
    exact congrArg Host.Outcome.next (leaseExpiry_of_no_waiter hh hleased hover halone)

end Sys2Proof.MatrixLease
end

section
/-! PROOFS. The marks of YIELD (R239): lanes that are replaced one after another, what YIELD makes of its lanes, what an issue makes of
the marks of its group, which entry is chosen beside a waiting one with marks, and what a save and a restore leave of marks; then the
obligation O42. -/

namespace Sys2Proof.YieldMarks

open Sys2Proof.Machine

/-! ### Lanes replaced one after another -/

/-- Different lanes, each replaced by what `g` makes of it: no replacement sees another. -/
theorem setLanes_fold (f : Nat → LaneId) (hf : ∀ l, (f l).lane = l) (g : Nat → Lane → Lane) (ls : List Nat) (s : State)
    (hn : ls.Nodup) :
    (∀ l ∈ ls, (ls.foldl (fun u l => u.setLane (f l) (g l (u.lane (f l)))) s).lane (f l) = g l (s.lane (f l))) ∧
      (∀ L, (∀ l ∈ ls, L ≠ f l) → (ls.foldl (fun u l => u.setLane (f l) (g l (u.lane (f l)))) s).lane L = s.lane L) ∧
      LanesOnly s (ls.foldl (fun u l => u.setLane (f l) (g l (u.lane (f l)))) s) := by
  induction ls generalizing s with
  | nil => exact ⟨by simp, fun _ _ => rfl, rfl⟩
  | cons a ls ih =>
    obtain ⟨ha, hn⟩ := List.nodup_cons.mp hn
    have hne : ∀ l ∈ ls, f l ≠ f a := fun l hl h => ha (by rw [← hf a, ← h, hf]; exact hl)
    obtain ⟨hin, hout, honly⟩ := ih (s.setLane (f a) (g a (s.lane (f a)))) hn
    simp only [List.foldl_cons, List.forall_mem_cons]
    refine ⟨⟨?_, fun l hl => ?_⟩, fun L hL => ?_, LanesOnly.trans (by rfl) honly⟩
    · rw [hout _ fun l hl => (hne l hl).symm, setLane_self]
    · rw [hin l hl, setLane_ne s _ (hne l hl)]
    · rw [hout L hL.2, setLane_ne s _ hL.1]

/-! ### YIELD -/

/-- A word whose whole effect on each lane is the lane `base`, which then goes on. -/
theorem lanesBecome_of_perLane {i : Instr} {base : State → LaneId → Lane}
    (he : ∀ s, exec i s = .next (s.perLane (s.guard i) (fun L => .done { lane := some (base s L) }))) : LanesBecome i base := by
  intro s hdr k prio hp hf
  let effects := s.sel.lanes.foldl (fun u l => u.setLane (s.sel.lane l) (base s (s.sel.lane l))) s
  let out (l : Nat) : LaneOut := .done { lane := some (base s (s.sel.lane l)), go := .at (.go hdr k prio) }
  have hrun : s.perLane (s.guard i) (fun L => .done { lane := some (base s L) }) =
      s.sel.lanes.foldl (fun u l => u.move (s.sel.lane l) (out l)) effects := by
    have hsettle : ∀ l, s.settle (.done { lane := some (base s (s.sel.lane l)) }) = out l := fun l => settle_at s _ hf rfl
    simp only [hp.perLane, hsettle, State.applyOuts, List.foldl_map]
    rfl
  obtain ⟨hset, hother, honly⟩ := setLanes_fold s.sel.lane (fun _ => rfl) (fun l _ => base s (s.sel.lane l)) s.sel.lanes s hp.nodup
  obtain ⟨hmoved, hkept, hmoves⟩ := moves_fold s.sel.lane (fun _ => rfl) out hdr k prio (fun _ _ => rfl) s.sel.lanes effects hp.nodup
  refine ⟨_, he s, ?_⟩
  rw [hrun]
  refine ⟨fun l hl => ?_, fun L hL => ?_, LanesOnly.trans honly hmoves⟩
  · rw [← hset l hl]
    exact hmoved l hl
  · rw [hkept L hL]
    exact hother L hL

/-! ### An issue -/

/-- The issue opportunity of an entry is its group's. -/
theorem selFor_group (s : State) (t g : Nat) (l : Lane) (lanes : List Nat) :
    (s.selFor t g l lanes).team = t ∧ (s.selFor t g l lanes).group = g := by
  unfold State.selFor
  split <;> exact ⟨rfl, rfl⟩

section
variable {s : State} {t g : Nat} {e : Entry}

theorem prepare_group (s : State) (t g : Nat) (e : Entry) : (s.prepare t g e).sel.team = t ∧ (s.prepare t g e).sel.group = g :=
  selFor_group ..

/-- The lanes of a group are cleared in order, each as the issue finds it. -/
theorem prepare_lanes_of_unmarked (hm : e.lane.mark = false) : (s.prepare t g e).lanes =
    ((s.liveLanes t g).foldl (fun u i => u.setLane ⟨t, g, i⟩ { u.lane ⟨t, g, i⟩ with mark := false }) s).lanes := by
  simp [State.prepare, hm]

theorem prepare_lanes_of_marked (hm : e.lane.mark = true) : (s.prepare t g e).lanes = s.lanes := by
  simp [State.prepare, hm]

/-- An issue for an entry without marks clears every mark of its group, and changes no other lane. -/
theorem prepare_clears (hm : e.lane.mark = false) :
    (∀ l ∈ s.liveLanes t g, (s.prepare t g e).lane ⟨t, g, l⟩ = { s.lane ⟨t, g, l⟩ with mark := false }) ∧
      ∀ L, (∀ l ∈ s.liveLanes t g, L ≠ ⟨t, g, l⟩) → (s.prepare t g e).lane L = s.lane L := by
  obtain ⟨hin, hout, -⟩ := setLanes_fold (LaneId.mk t g) (fun _ => rfl) (fun _ x => { x with mark := false }) (s.liveLanes t g) s
    (List.nodup_range.filter _)
  unfold State.lane at *
  rw [prepare_lanes_of_unmarked hm]
  exact ⟨hin, hout⟩

/-- An issue changes no lane of another group. -/
theorem prepare_lane_of_other_group {L : LaneId} (hL : L.team ≠ t ∨ L.group ≠ g) : (s.prepare t g e).lane L = s.lane L := by
  cases hm : e.lane.mark with
  | true => rw [State.lane, prepare_lanes_of_marked hm, State.lane]
  | false =>
    refine (prepare_clears hm).2 L fun l _ h => ?_
    subst h
    simp at hL

end

/-- What a next issue can be: for the entry that some group chooses, the demand fetch of code that it lacks, which finds the state as it
is, or its word, for which the entry is prepared and its partition's pointer moved (R241, R301). -/
theorem nextIssue_cases {s s' : State} {i : Instr} (h : s.nextIssue = some (i, s')) :
    ∃ t g e, s.groupChoice t g = some e ∧
      ((s.entryNeeds t g e ≠ [] ∧ s' = s) ∨
        (s.entryNeeds t g e = [] ∧ ∃ c p slot, s' = (s.prepare t g e).bumpPtr c p slot)) := by
  unfold State.nextIssue at h
  dsimp only at h
  split at h
  · cases h
  next c p _ =>
  split at h
  · cases h
  next slot t g _ =>
  split at h
  · cases h
  next e he =>
  refine ⟨t, g, e, he, ?_⟩
  split at h
  next a rest hneeds =>
    cases h
    exact .inl ⟨by simp [hneeds], rfl⟩
  next hneeds =>
    refine .inr ⟨hneeds, c, p, slot, ?_⟩
    split at h
    · cases h; rfl
    · split at h <;> (cases h; rfl)

/-! ### The choice of an entry -/

/-- An entry with marks none of whose lanes is ready is neither a candidate nor a reason to hold another back (R238). -/
theorem chooseEntry_cons_of_waiting_marked {x : Entry} (hm : x.lane.mark = true) (hr : x.ready = []) (es : List Entry) :
    chooseEntry (x :: es) = chooseEntry es := by
  simp [chooseEntry, hm, hr]

/-! ### What keeps marks -/

/-- Every lane keeps its mark, and none has begun to wait for a LAUNCH. -/
structure YieldKept (s t : State) : Prop where
  mark : ∀ L, (t.lane L).mark = (s.lane L).mark
  launch : ∀ L n, (t.lane L).wait = .launch n → (s.lane L).wait = .launch n

/-- No lane waits for a LAUNCH after which it reaches a word that is no header. -/
def NoBadLaunch (s : State) : Prop := ∀ L x, (s.lane L).wait ≠ .launch (.bad x)

namespace YieldKept

theorem refl (s : State) : YieldKept s s := ⟨fun _ => rfl, fun _ _ => id⟩

theorem trans {s t u : State} (h : YieldKept s t) (k : YieldKept t u) : YieldKept s u :=
  ⟨fun L => (k.mark L).trans (h.mark L), fun L n => h.launch L n ∘ k.launch L n⟩

theorem of_lanes {s t : State} (h : t.lanes = s.lanes) : YieldKept s t := by
  have hlane : t.lane = s.lane := by
    funext L
    rw [State.lane, h, State.lane]
  exact ⟨fun L => by rw [hlane], fun L n => by rw [hlane]; exact id⟩

theorem noBadLaunch {s t : State} (h : YieldKept s t) (hs : NoBadLaunch s) : NoBadLaunch t :=
  fun L x hx => hs L x (h.launch L _ hx)

theorem foldl {α : Type} {f : State → α → State} (h : ∀ s a, YieldKept s (f s a)) (l : List α) (s : State) :
    YieldKept s (l.foldl f s) := by
  induction l generalizing s with
  | nil => exact refl s
  | cons a l ih => exact (h s a).trans (ih (f s a))

theorem setLane {s : State} {L : LaneId} {x : Lane} (hm : x.mark = (s.lane L).mark)
    (hw : ∀ n, x.wait = .launch n → (s.lane L).wait = .launch n) : YieldKept s (s.setLane L x) := by
  refine ⟨fun M => ?_, fun M n hn => ?_⟩ <;> by_cases hM : M = L
  · rw [hM, setLane_self, hm]
  · rw [setLane_ne s x hM]
  · rw [hM, setLane_self] at hn
    rw [hM, hw n hn]
  · rwa [setLane_ne s x hM] at hn

end YieldKept

/-! ### Answers that arrive (R318 to R320) -/

theorem writes_keeps (s : State) (L : LaneId) (ws : List RegW) : YieldKept s (s.writes L ws) :=
  .foldl (fun s w => .of_lanes (by rw [write_only])) ws s

theorem mergeFlags_keeps (s : State) (L : LaneId) (df pf : W32) : YieldKept s (s.mergeFlags L df pf) :=
  .setLane rfl fun _ => id

theorem answerLanes_keeps (s : State) (a : Access) : YieldKept s (s.answerLanes a) := by
  refine .foldl (fun s l => ?_) a.lanes s
  dsimp only
  split
  · exact .refl s
  · have hwrites := writes_keeps s ⟨a.team, a.group, l⟩ (s.answer a ⟨a.team, a.group, l⟩).1
    split
    · exact hwrites.trans (.foldl (fun _ _ => .of_lanes (by rfl)) _ _)
    · exact hwrites.trans (mergeFlags_keeps ..)

theorem applyAnswer_keeps (s : State) (a : Access) : YieldKept s (s.applyAnswer a) := by
  unfold State.applyAnswer
  split
  · exact .of_lanes rfl
  · exact answerLanes_keeps s a

theorem applyHeld_keeps (s : State) (t : Nat) : YieldKept s (s.applyHeld t) :=
  .trans (.of_lanes (by rfl)) (.foldl applyAnswer_keeps _ _)

/-! ### A save (R313, R318) -/

theorem setTeam_keeps (s : State) (t : Nat) (x : Team) : YieldKept s (s.setTeam t x) := .of_lanes rfl

theorem writeImage_keeps (s : State) (t : Nat) : YieldKept s (s.writeImage t) := .of_lanes rfl

theorem startSave_keeps (s : State) (t : Nat) : YieldKept s (s.startSave t) := .of_lanes rfl

theorem execTeamSave_keeps {s t : State} {u : Nat} (h : execTeamSave u s = .next t) : YieldKept s t := by
  unfold execTeamSave ok at h
  cases h
  split
  · split
    · exact .refl s
    · exact (startSave_keeps s u).trans (writeImage_keeps _ u)
  · exact (applyHeld_keeps s u).trans ((setTeam_keeps ..).trans (writeImage_keeps _ u))
  · exact .refl s

/-! ### The start of a restore (R320, steps 1 to 4) -/

theorem seatGroups_keeps (s : State) (t core part0 n : Nat) (h : Header) (fresh : Bool) :
    YieldKept s (s.seatGroups t core part0 n h fresh) :=
  .foldl (fun _ _ => .of_lanes (by rfl)) _ s

theorem reseat_keeps (s : State) (t core : Nat) (f : Fit) : YieldKept s (s.reseat t core f) :=
  .trans (.of_lanes (by rfl)) <| (applyHeld_keeps _ t).trans <| (seatGroups_keeps ..).trans (writeImage_keeps _ t)

theorem reseatAll_keeps {h : Header} {ts : List Nat} {s t : State} (ht : s.reseatAll h ts = some t) : YieldKept s t := by
  induction ts generalizing s with
  | nil =>
    cases ht
    exact .refl _
  | cons u ts ih =>
    unfold State.reseatAll at ht
    split at ht
    · exact (reseat_keeps ..).trans (ih ht)
    · cases ht

theorem startRestore_keeps (s : State) (u : Nat) : YieldKept s (s.startRestore u) := by
  unfold State.startRestore
  dsimp only
  split
  · split
    · split
      · exact .refl s
      · cases hall : s.reseatAll (s.hdr u) (s.savedOf _) with
        | none => exact .refl s
        | some t => exact reseatAll_keeps hall
    · exact .refl s
  · split
    · split
      · exact reseat_keeps ..
      · exact .refl s
    · exact .refl s

/-! ### The end of a restore (R320, steps 5 to 7) -/

theorem advance_eq_launch {d : Nat} {w : Wait} {n : Next} (h : w.advance d = .launch n) : w = .launch n := by
  cases w with
  | launch _ => exact h
  | _ => cases h

/-- A table whose entries are changed under their keys. -/
theorem get_map_entry {κ α : Type} [DecidableEq κ] (d : α) {f : κ × α → κ × α} (hf : ∀ e, (f e).1 = e.1) (t : Tbl κ α) (q : κ) :
    Tbl.get d (t.map f) q = ((t.find q).map (fun x => (f (q, x)).2)).getD d := by
  induction t with
  | nil => rfl
  | cons e t ih =>
    obtain ⟨k, a⟩ := e
    by_cases hk : k = q
    · subst hk
      simp [Tbl.get, Tbl.find, hf]
    · simpa [Tbl.get, Tbl.find, hf, hk] using ih

/-- A restored team's waits moved on by the time of its absence, its image given up. -/
def moveWaits (s : State) (t d : Nat) : State :=
  { s with lanes := s.lanes.map (fun e => if e.1.team = t then (e.1, { e.2 with wait := e.2.wait.advance d }) else e),
           mem := s.mem.forget (inTeamImage t) }

theorem moveWaits_lane (s : State) (t d : Nat) (L : LaneId) : (moveWaits s t d).lane L = s.lane L ∨
    (moveWaits s t d).lane L = { s.lane L with wait := (s.lane L).wait.advance d } := by
  rw [State.lane, moveWaits, get_map_entry _ (fun e => by dsimp only; split <;> rfl), State.lane, Tbl.get_eq_find]
  cases Tbl.find s.lanes L with
  | none => exact .inl rfl
  | some x => by_cases ht : L.team = t <;> simp [ht]

theorem moveWaits_keeps (s : State) (t d : Nat) : YieldKept s (moveWaits s t d) := by
  refine ⟨fun L => ?_, fun L n hn => ?_⟩
  · obtain h | h := moveWaits_lane s t d L <;> rw [h]
  · obtain h | h := moveWaits_lane s t d L <;> rw [h] at hn
    · exact hn
    · exact advance_eq_launch hn

theorem rewriteGroups_keeps (s : State) (t : Nat) : YieldKept s (s.rewriteGroups t) := by
  refine .foldl (fun s g => ?_) _ s
  split <;> exact .of_lanes rfl

theorem storeSegs_keeps (s : State) (draw : Nat) (segs : List (Nat × Nat)) (bs : List Byte) :
    YieldKept s (s.storeSegs draw segs bs) := by
  refine .foldl (fun s x => .of_lanes ?_) _ s
  unfold State.storeByte
  split
  · rfl
  · split <;> rfl

theorem moveStamp_keeps (s : State) (t d : Nat) (va : D64) : YieldKept s (s.moveStamp t d va) := by
  unfold State.moveStamp
  dsimp only
  split
  · exact storeSegs_keeps ..
  · exact .refl s

/-- A lane whose wait ends and that goes on to a word keeps its mark. -/
theorem release_go_keeps (s : State) (L : LaneId) (hdr : D64) (k prio : Nat) : YieldKept s (s.release L (.go hdr k prio)) :=
  .trans (.setLane (x := { s.lane L with wait := .none }) rfl nofun) (.setLane (by rfl) fun _ => id)

theorem answered_keeps {s : State} (hs : NoBadLaunch s) (L : LaneId) : YieldKept s (s.answered L) := by
  unfold State.answered
  split
  next n hwait =>
    split
    · exact .refl s
    · cases n with
      | go hdr k prio => exact release_go_keeps s L hdr k prio
      | bad x => exact absurd hwait (hs L x)
  · exact .refl s

theorem answered_fold_keeps (ls : List LaneId) {s : State} (hs : NoBadLaunch s) :
    YieldKept s (ls.foldl (fun s L => s.answered L) s) := by
  induction ls generalizing s with
  | nil => exact .refl s
  | cons L ls ih =>
    have hfirst := answered_keeps hs L
    exact hfirst.trans (ih (hfirst.noBadLaunch hs))

/-- A restored team before its lanes see the answers of their LAUNCHes. -/
def beforeAnswers (s : State) (t : Nat) (named : Bool) : State :=
  let tm := s.team t
  let d := s.clock - tm.savedAt
  let held := s.applyHeld t
  let here := held.setTeam t { tm with phase := if named then .named else .resident, since := held.clock }
  let moved := (moveWaits here t d).rewriteGroups t
  (moved.watch.get [] t).foldl (fun s a => s.moveStamp t d a) moved

theorem resumeTeam_lanes (s : State) (t : Nat) (named : Bool) : (s.resumeTeam t named).lanes =
    (((beforeAnswers s t named).laneIds t).foldl (fun s L => s.answered L) (beforeAnswers s t named)).lanes := by
  rw [State.resumeTeam, State.setCore_lanes]
  rfl

theorem beforeAnswers_keeps (s : State) (t : Nat) (named : Bool) : YieldKept s (beforeAnswers s t named) :=
  (applyHeld_keeps s t).trans <| (setTeam_keeps _ t _).trans <| (moveWaits_keeps _ t _).trans <|
    (rewriteGroups_keeps _ t).trans (.foldl (fun s a => moveStamp_keeps s t _ a) _ _)

theorem resumeTeam_keeps {s : State} (hs : NoBadLaunch s) (t : Nat) (named : Bool) : YieldKept s (s.resumeTeam t named) := by
  have hbefore := beforeAnswers_keeps s t named
  exact (hbefore.trans (answered_fold_keeps _ (hbefore.noBadLaunch hs))).trans (.of_lanes (resumeTeam_lanes s t named))

theorem execTeamRestore_keeps {s t : State} {u : Nat} (hs : NoBadLaunch s) (h : execTeamRestore u s = .next t) : YieldKept s t := by
  unfold execTeamRestore ok at h
  cases h
  split
  · exact .refl s
  · split
    · exact startRestore_keeps s u
    · exact resumeTeam_keeps hs u _
    · exact .refl s

/-! ### The obligation -/

/-- Settles O42: YIELD only replaces lanes by marked ones; a next issue only prepares the entry that its group chooses; a marked entry
without a ready lane passes none of the filters of the choice; and each operation of a save or a restore keeps marks, where a restored
lane leaves its LAUNCH by going on. -/
theorem yieldMarks : Obligations.YieldMarks := by
  unfold Obligations.YieldMarks
  refine ⟨rfl, lanesBecome_of_perLane fun _ => rfl, ?issue, fun x es hm hr => chooseEntry_cons_of_waiting_marked hm hr es, ?away⟩
  case issue =>
    intro s i s' h
    obtain ⟨t, g, e, hchoice, ⟨hneeds, rfl⟩ | ⟨hneeds, c, p, slot, rfl⟩⟩ := nextIssue_cases h
    · exact ⟨t, g, e, hchoice, fun hnone => absurd hnone hneeds, fun _ => rfl⟩
    · obtain ⟨hteam, hgroup⟩ := prepare_group s t g e
      exact ⟨t, g, e, hchoice, fun _ => ⟨hteam, hgroup, fun hm => (prepare_clears hm).1, prepare_lanes_of_marked,
        fun L => prepare_lane_of_other_group⟩, fun hsome => absurd hneeds hsome⟩
  case away =>
    intro s t u h L
    obtain hsave | ⟨hrestore, hbad⟩ := h
    · exact (execTeamSave_keeps hsave).mark L
    · exact (execTeamRestore_keeps hbad hrestore).mark L

end Sys2Proof.YieldMarks
end

section
/-! PROOFS. SLEEP (R255): words whose whole effect on a lane is where it goes, lanes that begin a wait one after another, and what the end
of a sleep makes of its lane; then the obligation O41. -/

namespace Sys2Proof.SleepWaits

open Sys2Proof.Machine

/-! ### Words whose whole effect is where their lanes go -/

/-- Effects that only send lanes somewhere leave nothing but the moves. -/
theorem applyOuts_go (s : State) (f : Nat → LaneId) (go : Nat → Go) (ls : List Nat) :
    s.applyOuts (ls.map (fun l => (f l, .done { go := go l }))) =
      ls.foldl (fun u l => u.move (f l) (.done { go := go l })) s := by
  have hnone : ∀ (u : State) L own g, u.applyEff L own { go := g } = u := fun _ _ _ _ => rfl
  simp only [State.applyOuts, List.foldl_map, hnone, List.foldl_fixed]

/-- A word whose lanes only go on. -/
theorem lanesBecome_lane_of_perLane {i : Instr} (he : ∀ s, exec i s = .next (s.perLane (s.guard i) (fun _ => .done {}))) :
    LanesBecome i State.lane := by
  intro s hdr k prio hp hf
  refine ⟨_, he s, ?_⟩
  rw [hp.perLane, settle_at s _ hf rfl, applyOuts_go s s.sel.lane (fun _ => .at (.go hdr k prio))]
  exact moves_fold s.sel.lane (fun _ => rfl) _ hdr k prio (fun _ _ => rfl) s.sel.lanes s hp.nodup

/-! ### Words that begin a wait -/

/-- Where the issued word falls through to does not depend on lanes. -/
@[simp] theorem setLane_fall (s : State) (L : LaneId) (x : Lane) : (s.setLane L x).fall = s.fall := rfl

theorem settle_hold (s : State) (h : Hold) {a : D64} {k p : Nat} (hf : s.fall = some (.go a k p)) :
    s.settle (.done { go := .hold h }) = .done { go := .hold h } := by
  simp [State.settle, State.onward, hf]

theorem move_hold {s : State} {n : Next} (hf : s.fall = some n) (L : LaneId) (h : Hold) :
    s.move L (.done { go := .hold h }) = s.setLane L { s.lane L with wait := h.toWait n } := by
  simp [State.move, hf]

/-- Lanes that begin a wait one after another: beginning one leaves the next word of the others as it was. -/
theorem moves_hold_fold (f : Nat → LaneId) (h : Nat → Hold) {n : Next} (ls : List Nat) {s : State} (hf : s.fall = some n) :
    ls.foldl (fun u l => u.move (f l) (.done { go := .hold (h l) })) s =
      ls.foldl (fun u l => u.setLane (f l) { u.lane (f l) with wait := (h l).toWait n }) s := by
  induction ls generalizing s with
  | nil => rfl
  | cons a ls ih =>
    rw [List.foldl_cons, List.foldl_cons, move_hold hf]
    exact ih (by rw [setLane_fall, hf])

/-- A word whose whole effect on each lane is the wait that it begins. -/
theorem waitsAt_of_perLane {i : Instr} {h : State → LaneId → Hold}
    (he : ∀ s, exec i s = .next (s.perLane (s.guard i) (fun L => .done { go := .hold (h s L) }))) :
    WaitsAt i [] none (fun s L n => (h s L).toWait n) := by
  intro s hdr k prio hp hf
  refine ⟨_, he s, ?_⟩
  simp only [hp.perLane, settle_hold s _ hf]
  rw [applyOuts_go s s.sel.lane (fun l => .hold (h s (s.sel.lane l))), moves_hold_fold s.sel.lane _ s.sel.lanes hf]
  obtain ⟨hset, hother, honly⟩ := YieldMarks.setLanes_fold s.sel.lane (fun _ => rfl)
    (fun l x => { x with wait := (h s (s.sel.lane l)).toWait (.go hdr k prio) }) s.sel.lanes s hp.nodup
  unfold LanesOnly at honly
  refine ⟨?accs, fun l hl => ⟨by simp, hset l hl⟩, (RegsKept.refl s _).of_lanes honly, ?values, hother, ?frame⟩
  case accs =>
    rw [honly]
    simp
  case values =>
    rw [honly]
    exact ⟨rfl, rfl, rfl, rfl, rfl⟩
  case frame =>
    rw [OnlyAsks, honly]

/-! ### SLEEP -/

theorem exec_sleep_of_ne_zero {n : BitVec 10} (hn : n ≠ 0) (s : State) : exec (.sleep n) s =
    .next (s.perLane (s.guard (.sleep n)) (fun _ => .done { go := .hold (.sleep (s.clock + 16 * n.toNat)) })) := by
  have hpos : n.toNat ≠ 0 := fun h => hn (BitVec.eq_of_toNat_eq h)
  change execSleep n s = _
  rw [execSleep]
  simp only [if_neg hpos]
  rfl

/-- A lane that holds a wait of its own is a waiting lane (R238). -/
theorem waiting_of_wait {s : State} {L : LaneId} (h : (s.lane L).wait ≠ .none) : s.waiting L = true := by
  simp [State.waiting, h]

/-! ### The end of a sleep -/

section
variable {s : State} {t g l till : Nat} {n : Next}

theorem sleepExpiry_before (hw : (s.lane ⟨t, g, l⟩).wait = .sleep till n) (htime : s.clock < till) :
    exec (.sleepExpiry t g l) s = .next s := by
  change execSleepExpiry t g l s = _
  simp [execSleepExpiry, ok, hw, Nat.not_le.mpr htime]

theorem sleepExpiry_over (hw : (s.lane ⟨t, g, l⟩).wait = .sleep till n) (htime : till ≤ s.clock) (hissue : s.mayIssue t g = true) :
    exec (.sleepExpiry t g l) s = .next (s.release ⟨t, g, l⟩ n) := by
  change execSleepExpiry t g l s = _
  simp [execSleepExpiry, ok, hw, htime, hissue]

end

/-- A lane whose wait ends stands at the word that the wait leads to, and nothing else differs. -/
theorem release_go (s : State) (L : LaneId) (hdr : D64) (k prio : Nat) :
    Moved (s.release L (.go hdr k prio)) L { s.lane L with wait := .none } hdr k prio ∧
      (∀ M, M ≠ L → (s.release L (.go hdr k prio)).lane M = s.lane M) ∧ LanesOnly s (s.release L (.go hdr k prio)) := by
  rw [State.release, State.goTo]
  refine ⟨by simp [Moved], fun M hM => ?_, rfl⟩
  rw [setLane_ne _ _ hM, setLane_ne _ _ hM]

/-! ### The obligation -/

/-- Settles O41: SLEEP's whole effect on a lane is to hold it until the time that it counts from issue, or with 0 to let it go on, and the
end of a sleep releases its lane only when that time has come. -/
theorem sleepWaits : Obligations.SleepWaits := by
  unfold Obligations.SleepWaits
  refine ⟨fun n hn => waitsAt_of_perLane (exec_sleep_of_ne_zero hn), fun n => by omega, lanesBecome_lane_of_perLane fun _ => rfl,
    fun s L till n hw => waiting_of_wait (by simp [hw]), fun s t g l till n => sleepExpiry_before, ?expired⟩
  case expired =>
    intro s t g l till hdr k prio hw htime hissue
    exact ⟨_, sleepExpiry_over hw htime hissue, release_go s ⟨t, g, l⟩ hdr k prio⟩

end Sys2Proof.SleepWaits
end
